-- ==== Sys2Proof/Word.lean ====
section
/-! DEFINITION. The word types of the two parts and the type of a finite table. Nothing here is a rule of
the spec: the helpers that cut fields out of words and look tables up stand in Machine/Bits.lean. -/

namespace Sys2Proof

/-- A register word (R351: accesses are 32 bits wide). -/
abbrev Word := BitVec 32

/-- A byte of a message or of a descriptor body, as a number from 0 to 255. -/
abbrev Byte := Nat

/-- A finite table by number, keys strictly rising: what is not listed has the table's default. -/
abbrev FMap (α : Type) := List (Nat × α)

end Sys2Proof
end

