-- ==== Sys2Proof/Syntax.lean ====
section
/-! DEFINITION. The commands of the block: the messages they carry, and `Instr`, one constructor for each row
of spec/opcode_table.json. The table gives a row a name, a rule and a summary; the operands are what that
rule says arrives with the event (log entry 2). -/

namespace Sys2Proof

/-- The two parts of R1 (00_scope Table 0.1): the TSU (KX-T7) and one distributor member (KX-D7-132). -/
inductive Part where
  | tsu | dbx
deriving DecidableEq, Repr

/-- A machine time `LFN:SUB` (R25). -/
structure MTime where
  lfn : Nat
  sub : Nat
deriving DecidableEq, Repr

/-- A crozier, Table 6.1 (R118): the 30 bytes as fields, reserved bits included. -/
structure Crozier where
  ctype   : Nat
  scope   : Nat
  rsv0    : Nat
  target  : Nat
  handle  : Nat
  step    : Nat
  variant : Nat
  fireLfn : Nat
  fireSub : Nat
  form    : Nat
  rsv24   : Nat
  payload : Nat
deriving DecidableEq, Repr

/-- The header of a partial, Table 8.1 (R174). -/
structure PHdr where
  handle     : Nat
  stepLo     : Nat
  tag        : Nat
  op         : Nat
  format     : Nat
  nM1        : Nat
  scope      : Nat
  domain     : Nat
  count      : Nat
  ordered    : Bool
  blkJ       : Nat
  status     : Nat
  blkA       : Nat
  contribErr : Bool
  attempt    : Nat
  entries    : Nat
deriving DecidableEq, Repr

/-- One entry of an ARGMAX, TOPK or sample pass 1 body (R185). -/
structure PEntry where
  value   : Nat
  role    : Nat
  element : Nat
deriving DecidableEq, Repr

/-- The body of a partial: per element an exact accumulator and its special map (R178, R179), an ordered
block's FP64 value or ABSENT (R181), a code in the element's own format (R184), a bit pattern or a count
(R186), ranked entries (R185), sorted bins (R186), or the weight sum of pass 2 (R189). -/
inductive PBody where
  | exact   (acc : List Int) (special : List Nat)
  | ordered (vals : List (Option Nat))
  | elems   (codes : List (Option Nat))
  | entries (es : List PEntry)
  | hist    (bins : List (Nat × Int))
deriving DecidableEq, Repr

/-- A partial: header and body (R174). -/
structure PPartial where
  hdr  : PHdr
  body : PBody
deriving DecidableEq, Repr

/-- A soredium, Table 10.1, with the attempt that its slot's w14 carries (R224). -/
structure Soredium where
  handle     : Nat
  step       : Nat
  split      : Nat
  span       : Nat
  multi      : Bool
  incomplete : Bool
  digest     : Nat
  eMin       : Nat
  count      : Nat
  variant    : Nat
  weight     : Bool
  varMixed   : Bool
  attempt    : Nat
deriving DecidableEq, Repr

/-- A completion contribution or the partial aggregate of some (R154). -/
structure CompContrib where
  partition : Nat
  handle    : Nat
  step      : Nat
  tickLo    : Nat
  count     : Nat
  status    : Nat
  slack     : Nat
deriving DecidableEq, Repr

/-- A dynamic record, Table 5.8 (R113). -/
structure DynRec where
  type      : Nat
  code      : Nat
  count     : Nat
  firstSrc  : Nat
  firstKind : Nat
  lastSrc   : Nat
  lastKind  : Nat
  firstLfn  : Nat
  lastLfn   : Nat
deriving DecidableEq, Repr

/-- A slot of a link frame: 15 data words and the check word (R89). -/
structure Slot where
  words : List Nat
  check : Nat
deriving DecidableEq, Repr

/-- The sync headers of 64 consecutive blocks of a lane, as two-bit numbers (R86). -/
structure LaneHeaders where
  lane    : Nat
  headers : List Nat
deriving DecidableEq, Repr

/-- A received link frame: its label, its layout (0 full, 1 or 2 degraded on lane 0 or 1), and its slots in
slot order: S0 to S7, or SC and D1 to D3 (R87). -/
structure LinkFrame where
  label  : Nat
  layout : Nat
  slots  : List Slot
deriving DecidableEq, Repr

/-- A completion-bus word, Table 15.5 (R327). -/
structure CbWord where
  kind    : Nat
  target  : Nat
  entry   : Nat
  attempt : Nat
  handle  : Nat
  stepLo  : Nat
  queue   : Nat
  wRole   : Nat
  wTarget : Nat
  wQueue  : Nat
  cause   : Nat
deriving DecidableEq, Repr

/-- A contribution header (R328). -/
structure CtHdr where
  handle  : Nat
  stepLo  : Nat
  tag     : Nat
  op      : Nat
  format  : Nat
  nM1     : Nat
  target  : Nat
  first   : Nat
  scope   : Nat
  domain  : Nat
  attempt : Nat
deriving DecidableEq, Repr

/-- A fetched descriptor, Table 9.1 (R204), with its extension (content and tag, R202) as it was read;
`extErr` is a read error of the extension. -/
structure Desc where
  opcode  : Nat
  flags   : Nat
  rsv2    : Nat
  handle  : Nat
  cookie  : Nat
  extAddr : Nat
  resAddr : Nat
  extLen  : Nat
  resLen  : Nat
  ops     : List Byte
  tag     : Nat
  ext     : List Byte
  extTag  : Nat
  extErr  : Bool
deriving DecidableEq, Repr

/-- The scope table of a TSU as a management message loads it (R121), and its partition (R256);
`role = none` leaves the die without a role. -/
structure ScopeTable where
  role      : Option Nat
  partition : Nat
  pod       : Nat
  nested    : Bool
  package   : Nat
  board     : Nat
  chassis   : Nat
  coresets  : List Nat
deriving DecidableEq, Repr

/-- A wait reply, Table 11.8 type 4 (R255). -/
structure WaitReply where
  handle    : Nat
  stepLo    : Nat
  done      : Nat
  blocked   : Nat
  running   : Nat
  isLocal   : Bool
  firstRole : Nat
  lastRole  : Nat
deriving DecidableEq, Repr

/-- What a peer's CERT message proves (R285, R291): whether the chain verifies to the root in ROM, the UID of
the identity certificate, whether it is a distributor, and the alias public key. -/
structure PeerCert where
  chainOk : Bool
  uid     : Nat
  isDbx   : Bool
  alias_  : Nat
  /-- The bytes of the chain, as the CERT message carries them (Table 13.4). -/
  chain   : List Byte := []
deriving DecidableEq, Repr

/-- An SPDM request of an ATTEST or KEY_INSTALL descriptor, by what its rule reads of it (R287 to R290). -/
inductive Spdm where
  | keyExchange
  | finish (session : Nat) (bothWays : Bool) (requesterKey : Nat)
  | endSession (session : Nat)
  | getMeasurements (session : Option Nat) (nonce : Nat)
  | other (code : Nat)
deriving DecidableEq, Repr

/-- A KEY_INSTALL request as its secured message opens (R289, Table 13.2); `mask` lists the slots that its mask names,
`secured` says that the message opened under its session's keys. -/
structure InstallReq where
  session : Nat
  secured : Bool
  op      : Nat
  ring    : Nat
  mask    : List Nat
  loadKey : Nat
deriving DecidableEq, Repr

/-- The 256-byte channel record of Table 7.6 (R162). -/
structure ChRec where
  handle      : Nat := 0
  plan        : Nat := 0
  exec        : Nat := 0
  variant     : Nat := 0
  baseVariant : Nat := 0
  pc          : Nat := 0
  epochStrict : Bool := false
  stepEvt     : Bool := false
  diverged    : Bool := false
  digestBad   : Bool := false
  periTmo     : Bool := false
  stepOpen    : Bool := false
  stepPc      : Nat := 0
  slot        : Nat := 0
  step        : Nat := 0
  ring        : Nat := 0
  replays     : Nat := 0
  attempt     : Nat := 0
  tick        : Nat := 0
  emit        : Nat := 0
  expected    : Nat := 0
  aggCount    : Nat := 0
  aggStatus   : Nat := 0
  grid        : Nat := 0
  aggSlack    : Nat := 0
  counters    : List Nat := [0, 0, 0, 0]
  g           : List Nat := [0, 0, 0, 0, 0, 0, 0, 0]
  token       : Nat := 0
  tokensOut   : Nat := 0
  maxTokens   : Nat := 0
  stop        : List Nat := [0, 0]
  temperature : Nat := 0
  topP        : Nat := 0
  topK        : Nat := 0
  draftN      : Nat := 0
  accepted    : Nat := 0
  seed        : Nat := 0
  draft       : List Nat := [0, 0, 0, 0, 0, 0, 0, 0]
  target      : List Nat := [0, 0, 0, 0, 0, 0, 0, 0]
  epoch       : Nat := 0
  pending     : Nat := 0
  pendingOk   : Bool := false
  periPos     : Nat := 0
  holdLeft    : Nat := 0
  postSeq     : Nat := 0
deriving DecidableEq, Repr

/-- A target entry of a plan, Table 7.2 (R149). -/
structure TEntry where
  target  : Nat
  form    : Nat
  scope   : Nat
  payload : Nat
deriving DecidableEq, Repr

/-- What a channel waits for (R153). -/
inductive WaitFor where
  | none | meter | reg | aggregate | result (tag : Nat) | tokens (tag : Nat) (n : Nat) | peri (index : Nat)
  | ring | digest | swap | reload | restore | suspect
deriving DecidableEq, Repr

/-- A LAUNCH or EPOCH word gathered for the next step close (R151, R159): its address, whether it is an EPOCH word
and for every channel, target entry, type, fire offset, payload; the entry itself where it is not one of the channel's own
plan. -/
structure RunWord where
  addr    : Nat
  isEpoch : Bool
  all     : Bool
  tref    : Nat
  ctype   : Nat
  offLf   : Nat
  offSub  : Nat
  payload : Nat
  entry   : Option TEntry := .none
deriving DecidableEq, Repr

/-- A channel at the conductor: state 1 CREATED, 2 BOUND (R213), its tenant, its record (R162), and what the rules
give it beside the record. -/
structure CondChan where
  state    : Nat
  tenant   : Nat
  r        : ChRec
  wait     : WaitFor := .none
  /-- The count at which it last became ready to execute (R153). -/
  readyAt  : Nat := 0
  /-- An abort has taken it out of every hold and swap set, until it passes a PERI word again (R158). -/
  offPeri  : Bool := false
  /-- exec to return to at CH_RESUME (R214); CH_PAUSE descriptors that wait: ring pair and sequence number. -/
  resume   : Nat := 0
  pauseBy  : List (Nat × Nat) := []
  /-- Words gathered for the next step close, oldest first; a step's run is open (R151). -/
  run      : List RunWord := []
  inRun    : Bool := false
  /-- Registers that a REDUCE will still write: tag and register (R153); tokens taken by a SAMPLE: tag, status,
  token (R156). -/
  outst    : List (Nat × Nat) := []
  tokens   : List (Nat × Nat × Nat) := []
  /-- Variant last chosen by VARIANT, and the hold to be loaded at the step boundary (R157); steered (R274). -/
  chosen   : Nat := 0
  holdNext : Option Nat := .none
  steered  : Bool := false
  /-- The last ACCEPT accepted all (R155). -/
  allAcc   : Bool := false
  /-- Role set of the outstanding step's launches (R154); its completion deadline; its aggregate is complete; the
  deadline has passed; fault statuses acted on (R244); wait query sent (R255); fault abort emitted (R245). -/
  roles    : List (Nat × Nat) := []
  deadline : Nat := 0
  done     : Bool := false
  dead     : Bool := false
  acted    : Nat := 0
  queried  : Bool := false
  aborted  : Bool := false
  /-- Counts of the aborts emitted within max_life (R247). -/
  aborts   : List Nat := []
  /-- Replay: not before this count (R161), restore deadline, roles that have reported ready since the fault,
  shortfall (R246), the aggregate carries REPLAYED. -/
  replayAt : Nat := 0
  restoreBy : Nat := 0
  readySeen : List Nat := []
  shortfall : Nat := 0
  replayed : Bool := false
  /-- The role's state was lost (R269); the channel was paused by a fault (R161, R244). -/
  stLost   : Bool := false
  faulted  : Bool := false
  /-- Partition soredium committed for the last closed step (R226). -/
  sor      : Option Soredium := .none
deriving DecidableEq, Repr

/-- An input of the conductor (R163): what it is; a descriptor with the tenant and the kind of its ring pair. -/
inductive InputKind where
  | aggregate (c : CompContrib)
  | result (h : PHdr) (status value : Nat) (tokens : List Nat)
  | soredium (s : Soredium)
  | poll (slot : Nat) (op : Nat) (bits : List Nat)
  | descriptor (ring seq : Nat) (d : Desc) (tenant kind : Nat)
  | layout (partition uid port dir : Nat) (degraded : Bool)
  | divergence
  | stepEvent
  | verdict (handle : Nat) (hang : Bool)
  | ready (partition role : Nat) (ready : Bool)
deriving DecidableEq, Repr

/-- Where a copy of a broadcast is released (R188): the part, its port, and at a distributor the share of the position. -/
structure BcastAt where
  part  : Part
  port  : Nat
  share : Nat := 0
deriving DecidableEq, Repr

/-- A plan page set as the active member copies it (R166): plan index, slot, first page, PLAN_RETIRE accepted, image. -/
structure PlanCopy where
  index    : Nat
  slot     : Nat
  page     : Nat
  retiring : Bool
  image    : List Byte
deriving DecidableEq, Repr

/-- What the twin's compare message carries beside its digests (R164, R168): by channel index the first post sequence that it
has not reported, and a handback accepted. -/
structure TwinMsg where
  posts    : List (Nat × Nat)
  handback : Bool
deriving DecidableEq, Repr

/-- A command: one constructor for each row of spec/opcode_table.json, in the table's order. -/
inductive Instr where
  | registerWrite (p : Part) (off : Nat) (v : Word) (whole rot : Bool)
  | lfnLoRead (p : Part) (sub : Nat)
  | setupLockSet (p : Part) (v : Word)
  | errlogPop (p : Part)
  | linkFrameStart (p : Part)
  | echoBlockReceived (p : Part) (port t1 t2 t3 t4 : Nat)
  | echoReplyReceived (p : Part) (port t1 turn t4 : Nat)
  | timeRead (p : Part) (ring seq sub : Nat)
  | acquireStart (p : Part) (port : Nat)
  | acqSet1Complete (p : Part)
  | acqSet2Complete (p : Part)
  | parentTimeLoss (p : Part) (port psi : Nat)
  | timePortReturn (p : Part) (psi : Nat)
  | trackingSetComplete (p : Part) (port : Nat)
  | frameTick (lvlReq : List Nat)
  | regionRemeasure (region roundTrip : Nat)
  | lfnMarker
  | civilBroadcast
  | civilPageReceived (p : Part) (apply sec frac inc civilState : Nat)
  | civilApply (p : Part)
  | civilTimeout (p : Part)
  | civilSet (ring seq : Nat)
  | tdcStart (p : Part) (v : Word)
  | tdcAttemptTimeout (p : Part)
  | measurementSetComplete (p : Part)
  | tdcSelfTest (p : Part) (port : Nat) (a1 a2 a3 : List (Option Nat))
  | closePageReceived (p : Part) (port p0 p1 p2 p3 : Nat)
  | closureRun (v : Word)
  | closurePeriodic
  | refLos (i : Nat) (delta : Int)
  | refBlockLockReturn (i : Nat)
  | esmcPdu (i : Nat) (event : Bool) (ssm : Nat) (freqOff delta : Int)
  | qualifyTimeout (i : Nat)
  | esmcTimeout (i : Nat) (delta : Int)
  | ocxoQualify (freqOff delta : Int)
  | ocxoLos (delta : Int)
  | frequencyError (i : Nat) (freqOff delta : Int)
  | prefWrite (v : Word) (delta : Int)
  | stepNoticeReceived (p : Part) (delta : Int) (l0 : Nat)
  | refStepClear (p : Part) (delta : Int)
  | ocxoWarmChange (warm : Bool)
  | masterFailureJudged (delta : Int)
  | ppsInEdge (i sub : Nat)
  | anchorStale (k : Nat)
  | outputEdge (k : Nat) (sub : Nat)
  | esmcTransmit
  | blockLockGained (p : Part) (port : Nat) (lane : LaneHeaders)
  | blockLockLost (p : Part) (port : Nat) (lane : LaneHeaders)
  | linkFrameReceived (p : Part) (port : Nat) (frame : LinkFrame)
  | nakReceived (p : Part) (port lfnLow mask : Nat)
  | nakRepeat (p : Part) (port label : Nat)
  | portDark (p : Part) (port : Nat)
  | trainingTimeout (p : Part) (port : Nat)
  | portEnable (p : Part) (port : Nat) (on : Bool)
  | portIsolate (p : Part) (port : Nat) (on : Bool)
  | portLoopback (p : Part) (port mode : Nat)
  | dropLane (p : Part) (port lane : Nat) (on : Bool)
  | unpin (p : Part) (port : Nat)
  | degradeRequestReceived (p : Part) (port want : Nat)
  | layoutSwitch (p : Part) (port : Nat)
  | degradedQueueDrop (p : Part) (port : Nat)
  | laneRestoreRequest (p : Part) (port lane : Nat)
  | linkEpochExchangeStart (p : Part) (port : Nat)
  | keyRatchet (p : Part) (port : Nat)
  | epochBoundary (p : Part) (port : Nat)
  | linkCert (p : Part) (port : Nat) (cert : PeerCert)
  | linkShare (p : Part) (port epoch nonce pub : Nat)
  | linkSig (p : Part) (port sig : Nat)
  | linkConfirm (p : Part) (port mac : Nat)
  | dynamicRecordReceived (p : Part) (rec : DynRec)
  | elsSample (k : Nat) (bias0 : Option Nat) (bias1 : Nat) (pwr0 pwr1 : Int) (rx : List (Nat × Int × Int))
  | bolCapture (k : Nat)
  | templateWrite (p : Part) (off : Nat) (v : Word)
  | crozierReceived (port share : Nat) (cz : Crozier)
  | compareWindowExpiry
  | crozierAdmission (port : Nat) (cz : Crozier) (sub : Nat)
  | launchStage (entry : Nat) (fullRegions : List Nat)
  | launchFire (entry : Nat)
  | armEntryFree (entry : Nat)
  | retiredKeyExpiry
  | abortAct
  | tokenApply (entry : Nat)
  | epochApply (entry : Nat)
  | timeEventFire (entry : Nat)
  | frequencyCrozierFire (entry : Nat) (lvlReq : List Nat)
  | peristomePoll
  | peristomeTimeout (index : Nat)
  | peristomeConfig (index source arg : Nat)
  | scopeTableLoad (tbl : ScopeTable) (pend : Bool)
  | tableWrite (v : Word)
  | clrMargin (v : Word)
  | planLoad (ring seq : Nat)
  | planRetire (ring seq : Nat)
  | storeReloadComplete (ch : Nat)
  | launch (ch : Nat)
  | waitc (ch : Nat)
  | reduce (ch : Nat)
  | sample (ch : Nat)
  | accept (ch : Nat)
  | branch (ch : Nat)
  | loop (ch : Nat)
  | peri (ch : Nat)
  | epoch (ch : Nat)
  | swap (ch : Nat)
  | swapAdvance (slot : Nat)
  | variant (ch : Nat)
  | digest (ch : Nat)
  | post (ch : Nat)
  | halt (ch : Nat)
  | crozierEmission (slot : Nat)
  | meterPeriod
  | waitcDeadline (ch : Nat)
  | inputCommit (id : Nat)
  | commitNoticeReceived (k : InputKind) (commitLfn : Nat)
  | commitNoticeTimeout (id : Nat)
  | groupDigestCompare (twin : List Nat) (differing : List (Nat × List Nat)) (msg : TwinMsg)
  | resyncCopyComplete (group : Nat) (records : List (Nat × CondChan))
  | replayRestart (ch : Nat)
  | conductorTakeover
  | shadowCopyComplete (records : List (Nat × CondChan)) (images : List PlanCopy)
  | handback (v : Word)
  | chSelSnapshot (v : Word)
  | completionContribution (pos : Nat) (second : Bool) (c : CompContrib)
  | contributionWord (hdr : CtHdr) (data : List Byte) (last : Bool)
  | partialReceived (port partition : Nat) (part : PPartial)
  | flushExpiry (key : Nat)
  | keyDeadline (key : Nat)
  | resultBroadcast (at_ : BcastAt) (hdr : PHdr) (body : List Byte) (nowSub : Nat)
  | resultKeyExpiry
  | resultWait
  | pass2Broadcast (at_ : BcastAt) (hdr : PHdr) (m s : Nat) (skip : Bool)
  | logitRelease
  | kcgTest (v : Word)
  | ringEnable (p : Part) (ring : Nat)
  | ringDisable (p : Part) (ring : Nat)
  | sqTailWrite (p : Part) (ring : Nat) (v : Word)
  | cqHeadWrite (p : Part) (ring : Nat) (v : Word)
  | completionWrite (p : Part) (ring : Nat)
  | descriptorFetch (p : Part) (ring : Nat) (d : Desc)
  | nop (p : Part) (ring seq : Nat)
  | chCreate (p : Part) (ring seq : Nat)
  | chBind (p : Part) (ring seq : Nat)
  | chArm (ring seq : Nat)
  | chPause (ring seq : Nat)
  | chResume (ring seq : Nat)
  | chDestroy (p : Part) (ring seq : Nat)
  | manifest (ring seq : Nat)
  | epochSwap (ring seq : Nat)
  | digestRead (p : Part) (ring seq : Nat)
  | attest (p : Part) (ring seq : Nat) (req : Spdm)
  | attestTimeout (ring seq : Nat)
  | bindTenant (p : Part) (ring seq : Nat) (req : InstallReq)
  | bindManager (p : Part) (ring seq : Nat) (req : InstallReq)
  | loadKey (p : Part) (ring seq : Nat) (req : InstallReq)
  | scrub (p : Part) (ring seq : Nat)
  | scrubRelay (slot : Nat)
  | scrubEnd (p : Part)
  | healthBlockRead (p : Part) (ring seq : Nat)
  | portHealthRead (ring seq : Nat)
  | recordLogRead (ring seq : Nat)
  | set (p : Part) (ring seq : Nat)
  | insertBegin (ring seq : Nat)
  | lost (ring seq : Nat)
  | release (ring seq : Nat)
  | roleLoaded (ring seq : Nat)
  | msixModeration (p : Part) (ring : Nat)
  | quarantineEnd (p : Part) (index : Nat)
  | destroyedEvent (index : Nat)
  | tapWrite (tag addr : Nat) (words : List Nat)
  | sorediumReceived (port partition : Nat) (s : Soredium)
  | shardDeadline (layer shard : Nat)
  | layerOpen (layer : Nat)
  | cmpReset (v : Word)
  | cmpRstAckRise
  | cmpRstAckFall
  | killTimeout (target handle : Nat)
  | dieReset
  | distributorReset
  | distributorResetRelease (bootSrc smbAddr : Nat)
  | restoreTimeout (ch : Nat)
  | waitGraphEvaluation
  | waitQuery (partition handle step : Nat)
  | waitReply (pos partition : Nat) (r : WaitReply)
  | hangVerdictTimeout (ch : Nat)
  | readyReport (partition role : Nat) (ready : Bool) (lfn : Nat)
  | suspectReport (partition role target : Nat) (handles : List Nat) (overflow : Bool) (faultLfn : Nat)
  | insertionDeadline (i : Nat)
  | penaltyDecay (p : Part)
  | expulsionRequest (partition role pod score : Nat)
  | expulsionRepeat
  | expulsionVerdict (v : Nat)
  | grantWindowExpiry
  | x1Switch
  | elsEnable (v : Word)
  | elsPresenceChange (k : Nat) (present : Bool)
  | sramBankTest (pass : Bool)
  | mailboxResponse (v : Word) (rot : Bool) (bytes : List Byte)
  | keyInstallWrite (v : Word) (rot : Bool)
  | stageCommit (v : Word) (sigOk : Bool) (svn digest : Nat)
  | stageClear (v : Word)
  | bringupStep (p : Part) (step : Nat)
  | bringupStepLimit (p : Part) (step code port : Nat)
  | cfgDone (v : Word)
  | bootRecClear (p : Part) (step : Nat)
  | genSyncReplay
  | thermalTrip (sensor tj : Nat)
  | thermalRecovery (tj : Nat)
  | thermWarning (sensor tj : Nat)
  | entryRead (entry target handle : Nat)
  | completionWord (region : Nat) (stamp : MTime) (w : CbWord) (now : MTime)
  | memoryResponse (tag : Nat) (err : Bool)
  | oeInterrupt (status : Nat) (rx : List Int)
  | oePoll (status : Nat) (rx : List Int)
  | pcieFunctionReset
  | telemetryDatagram
  | smbusBlockRead
  | frameGridLoad (f origin : Nat)
  | layoutReport (partition uid port dir : Nat) (degraded : Bool)
  | tdcStopEdge (p : Part) (interval : Nat)
  | lostLockIndication (i : Nat)
  | dieResetRelease (lvl oe port : Nat)
  | lwAck (region target entry : Nat)
  | supplyLeftTolerance (i : Nat)
  | neighbourDiscovery (query : Nat)
  | boundaryScanInstruction (inst : Nat)
deriving DecidableEq, Repr

end Sys2Proof
end

