-- ==== Sys2Proof/Decode.lean ====
section
/-! DEFINITION. The decoder of a block whose table gives its rows no bits: no word spells a command (log 1). -/

namespace Sys2Proof

/-- The command that a word spells by the bits of spec/opcode_table.json. No row of the table has bits, so no
word spells one. -/
def decodeTableWord (_nbits _w : Nat) : Option Instr := none

end Sys2Proof
end

