-- ==== Sys2Proof/Machine/Bits.lean ====
section
/-! DEFINITION. Bit fields, finite tables, byte order, signed numbers and the few exact divisions that the
rules use. Every helper is total and evaluates by structural recursion or by arithmetic on numbers. -/

namespace Sys2Proof.Machine

/-- The field of `w` bits of `n` whose lowest bit is `lo` (R2). -/
def bits (n lo w : Nat) : Nat := n / 2 ^ lo % 2 ^ w

/-- Bit `i` of `n` (R2). -/
def bit (n i : Nat) : Bool := n / 2 ^ i % 2 == 1

/-- 1 or 0. -/
def b2n (b : Bool) : Nat := if b then 1 else 0

/-- `n` with its bit `i` set, or cleared. -/
def setBit (n i : Nat) (b : Bool) : Nat :=
  if bit n i = b then n else if b then n + 2 ^ i else n - 2 ^ i

/-- A number of `w` bits read as two's complement. -/
def toSigned (w n : Nat) : Int :=
  if n % 2 ^ w < 2 ^ (w - 1) then (n % 2 ^ w : Nat) else ((n % 2 ^ w : Nat) : Int) - 2 ^ w

/-- The two's complement of `w` bits of an integer. -/
def ofSigned (w : Nat) (i : Int) : Nat := (i % 2 ^ w).toNat

/-- An integer saturated to `w` signed bits. -/
def satSigned (w : Nat) (i : Int) : Int := max (-(2 ^ (w - 1))) (min (2 ^ (w - 1) - 1) i)

/-- Division rounded to the nearest, an exact half to the even quotient; positive divisor. -/
def divEven (a : Int) (b : Nat) : Int :=
  let q := a / b
  let r := (a % b).toNat
  if 2 * r < b then q else if b < 2 * r then q + 1 else if q % 2 = 0 then q else q + 1

/-- Quotient rounded up. -/
def ceilDiv (a b : Nat) : Nat := (a + b - 1) / b

/-! ### Finite tables -/

/-- The entry of `k`, if listed. -/
def fget? {α : Type} : FMap α → Nat → Option α
  | [], _ => none
  | (j, v) :: m, k => if j = k then some v else fget? m k

/-- The entry of `k`, or `d`. -/
def fgetD {α : Type} (m : FMap α) (k : Nat) (d : α) : α := (fget? m k).getD d

/-- `m` with the entry of `k` set. -/
def fset {α : Type} : FMap α → Nat → α → FMap α
  | [], k, v => [(k, v)]
  | (j, u) :: m, k, v =>
    if k < j then (k, v) :: (j, u) :: m else if j = k then (k, v) :: m else (j, u) :: fset m k v

/-- `m` without entries of `k`. -/
def fdel {α : Type} : FMap α → Nat → FMap α
  | [], _ => []
  | (j, u) :: m, k => if j = k then fdel m k else (j, u) :: fdel m k

/-- `m` with the entry of `k` changed, from `d` where it is not listed. -/
def fmod {α : Type} (m : FMap α) (k : Nat) (d : α) (f : α → α) : FMap α := fset m k (f (fgetD m k d))

/-- Write in canonical form: the entry equal to the default `d` is removed. -/
def fput (m : FMap Nat) (k d v : Nat) : FMap Nat := if v = d then fdel m k else fset m k v

/-- The keys of a table rise strictly. -/
def fsorted {α : Type} : FMap α → Bool
  | [] => true
  | [_] => true
  | (j, _) :: (k, u) :: m => j < k && fsorted ((k, u) :: m)

/-! ### Lists -/

/-- The last `n` elements. -/
def takeLast {α : Type} (n : Nat) (l : List α) : List α := l.drop (l.length - n)

/-- The numbers of a list that are set bits of a list of words, bit i of word w standing for 32w + i. -/
def bitsOfWords (ws : List Nat) (width : Nat) : List Nat :=
  (List.range (ws.length * width)).filter fun i => bit (ws.getD (i / width) 0) (i % width)

/-- One word of a bit vector given as a list of set positions. -/
def wordOfBits (l : List Nat) (w width : Nat) : Nat :=
  (List.range width).foldl (fun a i => if l.contains (w * width + i) then a + 2 ^ i else a) 0

/-- The sum of a list. -/
def sumNat (l : List Nat) : Nat := l.foldl (· + ·) 0

/-- `n` saturated at the greatest number of `w` bits. -/
def satN (w n : Nat) : Nat := min n (2 ^ w - 1)

/-- Insertion into a rising list of integers, and the rising order of a list. -/
def insertInt (x : Int) : List Int → List Int
  | [] => [x]
  | y :: l => if x ≤ y then x :: y :: l else y :: insertInt x l

def sortInt : List Int → List Int
  | [] => []
  | x :: l => insertInt x (sortInt l)

/-! ### Little-endian bytes (R3) -/

/-- The number that `n` bytes from offset `off` hold, least significant byte first; missing bytes read 0. -/
def leNat (bs : List Byte) (off n : Nat) : Nat :=
  ((bs.drop off).take n).foldr (fun b a => b % 256 + 256 * a) 0

/-- The `n` bytes of a number, least significant first. -/
def toLe : Nat → Nat → List Byte
  | 0, _ => []
  | n + 1, v => v % 256 :: toLe n (v / 256)

/-- All bytes of a list from `lo` up to but not `hi` are 0. -/
def zeroBytes (bs : List Byte) (lo hi : Nat) : Bool := ((bs.drop lo).take (hi - lo)).all (· == 0)

/-- The bytes of a list of 32-bit words. -/
def wordsToBytes (ws : List Nat) : List Byte := ws.flatMap (toLe 4)

/-! ### Integer square root, by halving an interval `n` times -/

/-- Greatest `r` in `[lo, lo + 2^n)` with r² ≤ v, given lo² ≤ v. -/
def isqrtAux : Nat → Nat → Nat → Nat
  | 0, _, lo => lo
  | n + 1, v, lo => if (lo + 2 ^ n) * (lo + 2 ^ n) ≤ v then isqrtAux n v (lo + 2 ^ n) else isqrtAux n v lo

/-- ⌊√v⌋ for v < 2^128. -/
def isqrt (v : Nat) : Nat := isqrtAux 64 v 0

end Sys2Proof.Machine
end

