-- ==== Sys2Proof/Machine/Field.lean ====
section
/-! DEFINITION. The two fields of characteristic 2 of chapter 10: the digest's GF(2^64) and the shard MAC's
GF(2^128). -/

namespace Sys2Proof.Machine

/-- Product in the field of `w` bits whose polynomial, without its leading term, is `poly`. -/
def gfMul (w poly a b : Nat) : Nat :=
  (List.range w).foldl (fun r i =>
    let d := 2 * r
    let d := if bit d w then Nat.xor (d - 2 ^ w) poly else d
    if bit b (w - 1 - i) then Nat.xor d a else d) 0

/-- GF(2^64) with x^64 + x^4 + x^3 + x + 1 (R222). -/
def mul64 (a b : Nat) : Nat := gfMul 64 0x1B a b

/-- GF(2^128) with x^128 + x^7 + x^2 + x + 1 (R231). -/
def mul128 (a b : Nat) : Nat := gfMul 128 0x87 a b

/-- The fixed key K and its powers (R222). -/
def digestKey : Nat := 0x9E3779B97F4A7C15
def digestPow : Nat → Nat
  | 0 => 1
  | n + 1 => mul64 (digestPow n) digestKey

/-- Contribution of one output block: role, layer, byte address, eight 64-bit words (R222). -/
def digestBlock (role layer addr : Nat) (ws : List Nat) : Nat :=
  let s := Nat.xor (Nat.xor (mul64 role (digestPow 11)) (mul64 layer (digestPow 10)))
    (mul64 (addr / 64) (digestPow 9))
  let s := (List.range 8).foldl (fun s i => Nat.xor s (mul64 (ws.getD i 0) (digestPow (8 - i)))) s
  mul64 (mul64 s s) s

/-- A power in GF(2^128), by `fuel` bits of the exponent. -/
def pow128 : Nat → Nat → Nat → Nat
  | 0, _, _ => 1
  | fuel + 1, b, e => let h := pow128 fuel (mul128 b b) (e / 2)
                      if e % 2 = 1 then mul128 b h else h

end Sys2Proof.Machine
end

