-- ==== Sys2Proof/Machine/Formats.lean ====
section
/-! DEFINITION. The fifteen number formats (R175, R176): exact values, rounding to a format (R180), FP64 and FP32
arithmetic (R181, R189, R190), LP16 (R183), numeric order (R184, R185), and the generator KCG (R192). -/

namespace Sys2Proof.Machine

/-! ### The formats (Table 8.2) -/

/-- Bits of an element. -/
def fmtBits (f : Nat) : Nat := [0, 64, 32, 16, 16, 8, 8, 6, 6, 4, 64, 32, 16, 8, 64, 16].getD f 0

/-- Exponent bits, mantissa bits and bias of a floating format. -/
def fmtExp (f : Nat) : Nat := [0, 11, 8, 8, 5, 4, 5, 3, 2, 2].getD f 0
def fmtMan (f : Nat) : Nat := [0, 52, 23, 7, 10, 3, 2, 2, 3, 1].getD f 0
def fmtBias (f : Nat) : Nat := [0, 1023, 127, 127, 15, 7, 15, 3, 1, 1].getD f 0

/-- A floating format; an integer format; one with infinities. -/
def fmtFloat (f : Nat) : Bool := 1 ≤ f && f ≤ 9
def fmtInt (f : Nat) : Bool := 10 ≤ f && f ≤ 14
def fmtInf (f : Nat) : Bool := [1, 2, 3, 4, 6].contains f

/-- Sum mode Ordered. -/
def fmtOrdered (f : Nat) : Bool := f == 1 || f == 15

/-- A code: a number (sign, magnitude and exponent of its last bit), an infinity of a sign, or NaN. -/
inductive Num where
  | fin (neg : Bool) (mag : Nat) (exp : Int)
  | inf (neg : Bool)
  | nan
deriving DecidableEq, Repr

/-- The number as a signed magnitude. -/
def Num.signed : Num → Int
  | .fin neg mag _ => if neg then -(mag : Int) else mag
  | _ => 0

/-- Value of a code of a floating format (R175). -/
def decodeFloat (f code : Nat) : Num :=
  let m := fmtMan f
  let e := fmtExp f
  let man := bits code 0 m
  let ex := bits code m e
  let neg := bit code (e + m)
  if f = 5 && bits code 0 7 = 0x7F then .nan
  else if fmtInf f && ex = 2 ^ e - 1 then (if man = 0 then .inf neg else .nan)
  else if ex = 0 then .fin neg man (1 - (fmtBias f : Int) - m)
  else .fin neg (2 ^ m + man) ((ex : Int) - fmtBias f - m)

/-- Greatest finite magnitude code of a floating format. -/
def maxCode (f : Nat) : Nat :=
  if f = 5 then 0x7E else if fmtInf f then (2 ^ fmtExp f - 1) * 2 ^ fmtMan f - 1 else 2 ^ (fmtExp f + fmtMan f) - 1

/-- Code of an infinity, and the canonical NaN (R180). -/
def infCode (f : Nat) (neg : Bool) : Nat := (2 ^ fmtExp f - 1) * 2 ^ fmtMan f + (if neg then 2 ^ (fmtBits f - 1) else 0)
def nanCode (f : Nat) : Nat :=
  if f = 5 then 0x7F else (2 ^ fmtExp f - 1) * 2 ^ fmtMan f + 2 ^ (fmtMan f - 1)

/-- A rounded code, whether the value changed, and whether it overflowed. -/
structure Rounded where
  code     : Nat
  inexact  : Bool
  overflow : Bool
deriving DecidableEq, Repr

/-- Magnitude code of `mag · 2^e` in a floating format, nearest even; `sticky` stands for a part below the last
bit. The code may lie beyond the greatest finite one. -/
def roundMag (f mag : Nat) (e : Int) (sticky : Bool) : Nat × Bool :=
  if mag = 0 then (0, sticky)
  else
    let m := fmtMan f
    let eMin : Int := 1 - fmtBias f
    let top : Int := (Nat.log2 mag : Int) + e
    let q : Int := max top eMin - m
    let sh : Int := q - e
    let r : Nat × Bool :=
      if sh ≤ 0 then (mag * 2 ^ (-sh).toNat, sticky)
      else
        let k := sh.toNat
        let lo := mag % 2 ^ k
        let up := 2 ^ (k - 1) < lo || (lo == 2 ^ (k - 1) && (sticky || mag / 2 ^ k % 2 == 1))
        ((if up then mag / 2 ^ k + 1 else mag / 2 ^ k), lo != 0 || sticky)
    let n := if r.1 = 2 ^ (m + 1) then 2 ^ m else r.1
    let q := if r.1 = 2 ^ (m + 1) then q + 1 else q
    if n < 2 ^ m then (n, r.2)
    else (((q + m + fmtBias f).toNat) * 2 ^ m + (n - 2 ^ m), r.2)

/-- Rounding to a floating format (R180): nearest even, an exact zero is +0; overflow to the greatest finite
value, an infinity or NaN as the rule says. -/
def roundFloat (f : Nat) (sat neg : Bool) (mag : Nat) (e : Int) (sticky : Bool := false) : Rounded :=
  let r := roundMag f mag e sticky
  let sgn := if neg then 2 ^ (fmtBits f - 1) else 0
  if mag = 0 && !sticky then ⟨0, false, false⟩
  else if r.1 ≤ maxCode f then ⟨sgn + r.1, r.2, false⟩
  else if sat || (!fmtInf f && f ≠ 5) then ⟨sgn + maxCode f, true, true⟩
  else if f = 5 then ⟨sgn + 0x7F, true, true⟩
  else ⟨infCode f neg, true, true⟩

/-- Rounding of an integer to an integer format (R180). -/
def roundInt (f : Nat) (sat : Bool) (v : Int) : Rounded :=
  let w := fmtBits f
  let lo : Int := if f = 14 then 0 else -(2 ^ (w - 1))
  let hi : Int := if f = 14 then 2 ^ w - 1 else 2 ^ (w - 1) - 1
  if lo ≤ v && v ≤ hi then ⟨ofSigned w v, false, false⟩
  else if sat then ⟨ofSigned w (if v < lo then lo else hi), false, true⟩
  else ⟨ofSigned w v, false, true⟩

/-- Integer value of a code of an integer format. -/
def intValue (f code : Nat) : Int := if f = 14 then (code % 2 ^ 64 : Nat) else toSigned (fmtBits f) code

/-! ### The long accumulator (R178 to R180) -/

/-- Special map of a code: 0 finite, 1 +∞, 2 −∞, 3 NaN. -/
def specialOf (f code : Nat) : Nat :=
  if fmtFloat f then match decodeFloat f code with
    | .fin .. => 0
    | .inf neg => if neg then 2 else 1
    | .nan => 3
  else 0

/-- The map of two elements. -/
def specialJoin (a b : Nat) : Nat := if a = 0 then b else if b = 0 then a else if a = b then a else 3

/-- A × 2^192 of a code of an exact format; an infinity or NaN adds nothing. -/
def toAcc (f code : Nat) : Int :=
  if fmtFloat f then match decodeFloat f code with
    | .fin neg mag e => (if neg then -1 else 1) * (mag * 2 ^ (e + 192).toNat : Nat)
    | _ => 0
  else intValue f code * 2 ^ 192

/-- The accumulator rounded once, with its special map; the status bits NAN, OVERFLOW and INEXACT of
Table 8.6. -/
def roundAcc (f : Nat) (sat : Bool) (a : Int) (special : Nat) : Nat × Nat :=
  if special = 3 then (nanCode f, 2)
  else if special = 1 then (infCode f false, 0)
  else if special = 2 then (infCode f true, 0)
  else
    let r := if fmtInt f then roundInt f sat (a / 2 ^ 192) else roundFloat f sat (a < 0) a.natAbs (-192)
    (r.code, (if r.overflow then 4 else 0) + (if r.inexact then 8 else 0) + (if specialOf f r.code = 3 then 2 else 0))

/-! ### FP64 addition (R181, R364) -/

/-- NaN of the ordered sum. -/
def nan64 : Nat := 0x7FF8000000000000

/-- Sum of two finite numbers as a signed magnitude at the lower exponent. -/
def addExact (a b : Num) : Int × Int :=
  match a, b with
  | .fin na ma ea, .fin nb mb eb =>
    let e := min ea eb
    let x : Int := (ma * 2 ^ (ea - e).toNat : Nat)
    let y : Int := (mb * 2 ^ (eb - e).toNat : Nat)
    ((if na then -x else x) + (if nb then -y else y), e)
  | _, _ => (0, 0)

/-- Addition in a floating format with infinities, nearest even: code, whether an add of finite operands rounded,
whether it overflowed. -/
def addFloat (f a b : Nat) : Rounded :=
  let nanV := if f = 1 then nan64 else nanCode f
  match decodeFloat f a, decodeFloat f b with
  | .nan, _ => ⟨nanV, false, false⟩
  | _, .nan => ⟨nanV, false, false⟩
  | .inf x, .inf y => if x = y then ⟨infCode f x, false, false⟩ else ⟨nanV, false, false⟩
  | .inf x, _ => ⟨infCode f x, false, false⟩
  | _, .inf y => ⟨infCode f y, false, false⟩
  | .fin na ma ea, .fin nb mb eb =>
    if ma = 0 && mb = 0 then ⟨if na && nb then 2 ^ (fmtBits f - 1) else 0, false, false⟩
    else
      let s := addExact (.fin na ma ea) (.fin nb mb eb)
      roundFloat f false (s.1 < 0) s.1.natAbs s.2

/-! ### Powers of two with fractional exponents (R183, R190) -/

/-- Greatest n below 2^k with (2n − 1)^d ≤ 2^e: the integer nearest 2^(e/d) / 2, which is never halfway. -/
def nearRootAux (d e : Nat) : Nat → Nat → Nat
  | 0, lo => lo
  | k + 1, lo => if (2 * (lo + 2 ^ k) - 1) ^ d ≤ 2 ^ e then nearRootAux d e k (lo + 2 ^ k) else nearRootAux d e k lo

/-- Integer nearest 2^(p − a/d). -/
def nearPow (p a d : Nat) : Nat := if a = 0 then 2 ^ p else nearRootAux d ((p + 1) * d - a) (p + 1) 0

/-- T[r] of R183 in units of 2^−53. -/
def lpTable (r : Nat) : Nat := nearPow 53 r 1024

/-- E1 and E2 of R190. -/
def weightE1 (a : Nat) : Nat := nearPow 32 a 1024
def weightE2 (b : Nat) : Nat := nearPow 32 b 65536

/-- An LP16 element as FP64 (R176, R183). -/
def lpToF64 (code : Nat) : Nat :=
  let m := bits code 0 15
  if m = 32767 then 0
  else (roundFloat 1 false (bit code 15) (lpTable (m % 1024)) (-53 - (m / 1024 : Nat))).code

/-- An FP64 sum as LP16, with the status bits NAN and RANGE (R183). -/
def f64ToLp (x : Nat) : Nat × Nat :=
  match decodeFloat 1 x with
  | .nan => (0x7FFF, 2)
  | .inf neg => ((if neg then 0x8000 else 0), 64)
  | .fin neg mag e =>
    if mag = 0 then (0x7FFF, 0)
    else
      let l : Int := (Nat.log2 (mag ^ 2048) : Int) + 2048 * e
      let m : Int := -((l + 1) / 2)
      let sgn := if neg then 0x8000 else 0
      if 32766 < m then (0x7FFF, 0) else if m < 0 then (sgn, 64) else (sgn + m.toNat, 0)

/-! ### Order (R184, R185) -/

/-- A number in numeric order of its format; none for NaN; +0 and −0 have one place. -/
def orderKey (f code : Nat) : Option Int :=
  if fmtInt f then some (intValue f code)
  else if f = 15 then
    let v : Int := (32767 - bits code 0 15 : Nat)
    some (if bit code 15 then -v else v)
  else match decodeFloat f code with
    | .nan => none
    | _ =>
      let v : Int := (bits code 0 (fmtBits f - 1) : Nat)
      some (if bit code (fmtBits f - 1) then -v else v)

/-! ### FP32 of the sampling pipeline (R189, R190) -/

/-- A code of formats 2 to 6 as FP32, exactly. -/
def toF32 (f code : Nat) : Nat :=
  match decodeFloat f code with
  | .nan => nanCode 2
  | .inf neg => infCode 2 neg
  | .fin neg mag e => if mag = 0 then (if neg then 2 ^ 31 else 0) else (roundFloat 2 false neg mag e).code

/-- FP32 negation, product and quotient, nearest even. -/
def negF32 (a : Nat) : Nat := Nat.xor a (2 ^ 31)

def mulF32 (a b : Nat) : Nat :=
  match decodeFloat 2 a, decodeFloat 2 b with
  | .nan, _ => nanCode 2
  | _, .nan => nanCode 2
  | .inf x, .inf y => infCode 2 (x != y)
  | .inf x, .fin y m _ => if m = 0 then nanCode 2 else infCode 2 (x != y)
  | .fin x m _, .inf y => if m = 0 then nanCode 2 else infCode 2 (x != y)
  | .fin x ma ea, .fin y mb eb =>
    if ma * mb = 0 then (if x != y then 2 ^ 31 else 0)
    else (roundFloat 2 false (x != y) (ma * mb) (ea + eb)).code

def divF32 (a b : Nat) : Nat :=
  match decodeFloat 2 a, decodeFloat 2 b with
  | .nan, _ => nanCode 2
  | _, .nan => nanCode 2
  | .inf _, .inf _ => nanCode 2
  | .inf x, .fin y _ _ => infCode 2 (x != y)
  | .fin x _ _, .inf y => if x != y then 2 ^ 31 else 0
  | .fin x ma ea, .fin y mb eb =>
    if mb = 0 then (if ma = 0 then nanCode 2 else infCode 2 (x != y))
    else if ma = 0 then (if x != y then 2 ^ 31 else 0)
    else (roundFloat 2 false (x != y) (ma * 2 ^ 64 / mb) (ea - eb - 64) (ma * 2 ^ 64 % mb != 0)).code

/-- A finite FP32 value. -/
def finiteF32 (a : Nat) : Bool := bits a 23 8 != 255

/-- The weight of a logit (R190): e_fix and n; none for ZERO. -/
def logitWeight (f code m s : Nat) : Option (Nat × Nat) :=
  let x := toF32 f code
  let y := mulF32 (addFloat 2 x (negF32 m)).code s
  match decodeFloat 2 x, decodeFloat 2 y with
  | .nan, _ => none
  | _, .fin neg mag e =>
    -- q = −nearest_even(y · 65536); y ≥ −64
    let num : Int := if neg then mag else -(mag : Int)
    let q : Int := if 0 ≤ e + 16 then num * 2 ^ (e + 16).toNat else divEven num (2 ^ (-(e + 16)).toNat)
    let below := neg && (if 0 ≤ e then 64 < mag * 2 ^ e.toNat else 64 * 2 ^ (-e).toNat < mag)
    if below then none
    else
      let q := ofSigned 32 q
      if 64 * 65536 ≤ q then none
      else some (weightE1 (q % 65536 / 64) * weightE2 (q % 64) / 2 ^ 32, q / 65536)
  | _, _ => none

/-- A weight e_fix × 2^(−32−n) as the long accumulator holds it, in units of 2^−192 (R178, R190). -/
def weightAcc : Option (Nat × Nat) → Nat
  | none => 0
  | some (e, n) => e * 2 ^ (160 - n)

/-- log2 e as FP32 (R189). -/
def log2e : Nat := 0x3FB8AA3B

/-! ### KCG (R192) -/

/-- Rotation of 64 bits to the left. -/
def rotl64 (x r : Nat) : Nat := (x * 2 ^ r + x / 2 ^ (64 - r)) % 2 ^ 64

/-- One round. -/
def kcgRound (seed : Nat) (ab : Nat × Nat) (i : Nat) : Nat × Nat :=
  let k := (seed + i * 0x8F3A6C15E49B2D71) % 2 ^ 64
  let m := Nat.xor ab.2 k * 0xA3C59AC2F1B74E5B % 2 ^ 64
  let f := Nat.xor (Nat.xor m (m / 2 ^ 29)) (rotl64 ab.2 23)
  (ab.2, Nat.xor ab.1 f)

/-- The generator: seed, step number, draw index. -/
def kcg (seed step draw : Nat) : Nat :=
  let r := (List.range 8).foldl (kcgRound (seed % 2 ^ 64)) (step % 2 ^ 64, Nat.xor (draw % 2 ^ 64) 0x6A5D39E10C47B28F)
  Nat.xor r.1 (rotl64 r.2 32)

end Sys2Proof.Machine
end

