-- ==== Sys2Proof/Config.lean ====
section
/-! DEFINITION. What the spec leaves to the silicon, to manufacture or to a standard it only names: constants
without a body, so that no proof can see a value of theirs. Log entries 4 and 5. -/

namespace Sys2Proof

/-- Silicon revision read from fuses (R356, R361 _ID.revision). -/
opaque Config.fuseRevision : Nat
/-- Fused UID of the distributor, bits 31:0 (R285, R361). -/
opaque Config.fuseUidLo : Nat
/-- Fused UID of the distributor, bits 63:32 (R285, R361). -/
opaque Config.fuseUidHi : Nat
/-- The expected interval of tap 1, 2 or 3 of a port's reference delay line, fixed at manufacture (R51),
in units of 0.625 ps: part code, port, tap. -/
opaque Config.tapExpected : Nat → Nat → Nat → Nat
/-- The four owner key digests held in fuses; an empty list means all four are blank (R286): part code. -/
opaque Config.ownerDigests : Nat → List Nat
/-- AES-256-GCM authentication tag over additional data with an empty plaintext, 128 bits, bit 0 first
(R102, R202): key, 96-bit nonce, additional data. The standard is named by the spec, its text is not. -/
opaque Config.gcmTag : Nat → Nat → List Nat → Nat
/-- SHA-384 of a byte string, as a number (R144, R230, R288, R291). -/
opaque Config.sha384 : List Nat → Nat
/-- HKDF with SHA-384 (RFC 5869): salt, input key material, info bytes, output length in bytes
(R103, R231, R289, R291). -/
opaque Config.hkdf : List Nat → List Nat → List Nat → Nat → List Nat
/-- HMAC-SHA-384 of a digest under a key, first 16 bytes as a number (R291 CONFIRM). -/
opaque Config.hmacConfirm : List Nat → Nat → Nat
/-- ECDSA P-384 verification: public key, digest, signature r·s (R145, R230, R291). -/
opaque Config.ecdsaVerify : Nat → Nat → Nat → Bool
/-- ECDSA P-384 signature by the part's alias key over a digest (R291 SIG). -/
opaque Config.aliasSign : Nat → Nat
/-- The ephemeral P-384 public key of the exchange a part starts on a port, and its nonce (R291 SHARE):
exchange count. -/
opaque Config.ephemeralPub : Nat → Nat
opaque Config.ephemeralNonce : Nat → Nat
/-- The x-coordinate of the ECDH P-384 result of that exchange with a peer's public key, as 48 bytes
(R103, R291): exchange count, peer public key. -/
opaque Config.ecdhX : Nat → Nat → List Nat
/-- HKDF-Expand with SHA-384 (RFC 5869): secret, info bytes, output length in bytes (R289). -/
opaque Config.hkdfExpand : List Nat → List Nat → Nat → List Nat
/-- The export master secret of an SPDM session, by its number (R289). -/
opaque Config.exportSecret : Nat → List Nat
/-- The bytes of an SPDM response, secured where its session is: a fresh number, the kind (0 of an ATTEST request, 1 of a
KEY_INSTALL request, 2 ERROR Busy, 3 ERROR SessionLimitExceeded, 4 another ERROR), and the content that the rules give
it by measurement index (R287, R289, R292, R293). -/
opaque Config.spdmResponse : Nat → Nat → List (Nat × List Nat) → List Nat
/-- The role record of measurement index 7 of a TSU as bytes: role, partition, pod, role_pending, spare flag (R293; its
layout is not given). -/
opaque Config.roleRecord : Nat → Nat → Nat → Nat → Nat → List Nat
/-- Debug is enabled at a part, by its fuses: part code (R294). -/
opaque Config.debugEnabled : Nat → Nat
/-- The hash of a distributor UID that dynamic records carry as their source (Table 5.8). -/
opaque Config.uidHash : Nat → Nat
/-- The code of a dynamic record of type 1 or 2 (event, health), whose codes the spec does not list, and of the fault
record of R234, which Table 11.9 does not list: type, and the rule that raises it (R113, Table 5.8). -/
opaque Config.recordCode : Nat → Nat → Nat
/-- The roles of a partition as a distributor below its apex knows them, intervals of roles: no table of the spec gives
them to it, and R182 needs them. -/
opaque Config.partitionRoles : Nat → List (Nat × Nat)
/-- The set-up fields that the boot record in a distributor's flash holds beside those that the part writes: offsets of
registers and values (R309, R356). -/
opaque Config.bootSetup : List (Nat × Nat)
/-- The certificate chain that a part sends in a CERT message, as bytes (R285, R291). -/
opaque Config.aliasChain : List Nat
/-- The slot words of a completion contribution, by its handle, step, tick, count, status and slack: R154 gives its
content and no layout. -/
opaque Config.complWords : List Nat → List Nat
/-- The body of a pass-2 broadcast, as bytes, from M, s and skip: R189 gives no layout. -/
opaque Config.pass2Body : List Nat → List Nat
/-- The slot words of pair content, whose layout the spec does not give (R163, R164). -/
opaque Config.pairWords : List Nat → List Nat
/-- A partition whose apex is another node has a bound plan: partition and count. No message of the spec tells a node below
the apex, and R97 and R122 lock its templates and entries by it. -/
opaque Config.boundBelow : Nat → Nat → Nat
/-- The weight in the health score of ELS modules whose channels warn, by their number: R116 has a warning feed the score and
Table 12.5 gives it no weight. -/
opaque Config.elsWarnWeight : Nat → Nat
/-- The positions that a partition's shares of a class have in the template of the links at a hop level other than the
checking node's own: partition, hop level, class, layout, and the count of the check. R96 has every link direction checked, and
no message of the spec tells a node the templates of others. -/
opaque Config.farCapacity : Nat → Nat → Nat → Nat → Nat → Nat
/-- A value the spec leaves open, one for each number drawn from `State.fresh` (log entry 9). -/
opaque Config.freeValue : Nat → Nat

end Sys2Proof
end

