-- ==== Sys2Proof/Machine/State.lean ====
section
/-! DEFINITION. The state of the block: a TSU and a distributor member side by side, the queue of waiting
commands, and the reset state. Every field's docstring cites the rule of the spec that gives it and says
what it holds at reset. Register fields live in `Node.regs`, one entry for each field that differs from its
reset value (R355, R356); the tables of Machine/Regs.lean give their names, places, access codes and resets. -/

namespace Sys2Proof.Machine

/-- The access codes of Table 0.3 (R5). `own`: an RW or RWL field whose write is a row of its own of the
command table; `rot`: an RW field that takes only root-of-trust writes (R332); `rwlRot`: both (R361). -/
inductive Acc where
  | ro | rw | rwl | rw1c | wo | own | rot | rwlRot
deriving DecidableEq, Repr

/-- A register field: part, offset of its register, place and width in the word, access code; for a register
array the stride and the count, and the words of one element. `idx`: the reset value is the index;
`resets`: a reset value for each index. -/
structure Fld where
  part   : Part
  base   : Nat
  lo     : Nat
  width  : Nat
  acc    : Acc
  stride : Nat := 4
  count  : Nat := 1
  words  : Nat := 1
  reset  : Nat := 0
  idx    : Bool := false
  resets : List Nat := []
deriving DecidableEq, Repr

/-- A completion of a ring (R199, R208, R233), Table 9.2 and Table 10.5: the 31 bytes before the phase byte as fields. -/
structure Completion where
  kind   : Nat
  q0     : Nat
  q1     : Nat
  q2     : Nat
  aux    : Nat
  status : Nat
  opcode : Nat
  irq    : Bool
deriving DecidableEq, Repr

/-- Content of a plan position (R95 classes), queued for a port. -/
inductive Content where
  | crozier (c : Crozier)
  | part (p : PPartial)
  | result (h : PHdr) (body : List Nat)
  | pass2 (h : PHdr) (m s : Nat) (skip : Bool)
  | compl (c : CompContrib)
  | soredium (s : Soredium)
  | pair (words : List Nat)
deriving DecidableEq, Repr

/-- One queued slot, or half of a crozier or soredia slot: class, owning partition, the share whose queue holds it, the
content, its stream number on the link and the slot of the content that it is (R98, R174). -/
structure QItem where
  cls       : Nat
  partition : Nat
  share     : Nat
  content   : Content
  stream    : Nat := 0
  seg       : Nat := 0
deriving DecidableEq, Repr

/-- A segment of a message of the S7 message area (Table 5.4, R112): kind 1 management, 2 dynamic, 3 key. -/
structure MsgSeg where
  kind    : Nat
  channel : Nat
  seq     : Nat
  first   : Bool
  last    : Bool
  bytes   : List Byte
deriving DecidableEq, Repr

/-- The pins and lines that a part drives. -/
inductive Pin where
  | alertN | thermN | cmpRstReq | oeRstN | elsEnN (k : Nat) | output (k : Nat) | ref10m | optics
  | refTx (i : Nat) | genSync
deriving DecidableEq, Repr

/-- What a part sends or drives at its boundary. -/
inductive Out where
  | completion (ring : Nat) (phase : Nat) (c : Completion)
  | msix (entry : Nat)
  | result (addr : Nat) (bytes : List Byte) (tag : Nat)
  | cfgErr (off : Nat)
  | readData (off v : Nat)
  | frame (port : Nat) (f : LinkFrame)
  | loop (port : Nat) (f : LinkFrame)
  | lane (port lane : Nat) (blocks : List (Nat × Nat))
  | echoReply (port turn t1 : Nat)
  | notice (delta : Int) (l0 : Nat)
  | civilPage (apply sec frac inc civilState : Nat)
  | regionMark (lfn : Nat)
  | lvl (region level : Nat) (commit : Bool)
  | esmc (port : Nat) (event : Bool) (ssm : Nat)
  | released (port label : Nat) (slots : List (List Nat))
  | lw (region word : Nat)
  | fire (region lane entry : Nat) (edge : MTime)
  | lwFire (region lane word : Nat) (edge : MTime)
  | gen (word : Nat)
  | genTable (words : List Nat)
  | peerMsg (kind : Nat) (vals : List Nat)
  | input (kind : Nat) (k : InputKind) (at_ : Option Nat)
  | compare (digests : List Nat) (posts : List (Nat × Nat)) (handback : Bool)
  | periVector (bits : List Nat)
  | mailbox (kind ring tag : Nat) (bytes : List Byte)
  | entryBeat (data : List Nat) (stale : Bool)
  | slotWrite (slot : Nat) (h : PHdr) (body : List Nat)
  | pin (q : Pin) (v : Nat)
  | bootStore (step consec code : Nat)
  | datagram (bytes : List Byte)
  | neighbour (reply : Nat)
  | smbus (words : List Nat)
  | jtag (inst : Nat)
  | alert (source : Nat)
  | event (code : Nat) (vals : List Nat)
deriving DecidableEq, Repr

/-- The accumulator of a measurement set (R49), in units of 0.625 ps. -/
structure StatAcc where
  n    : Nat := 0
  tmo  : Nat := 0
  sum  : Int := 0
  sq   : Nat := 0
  lo   : Int := 0
  hi   : Int := 0
  rtt  : Int := 0
deriving DecidableEq, Repr

/-- A measurement set in progress (R48, R50). -/
structure TdcSet where
  port : Nat
  mode : Nat
  req  : Nat
  acc  : StatAcc
  /-- The count from which the attempt in progress runs (R48). -/
  since : MTime := ⟨0, 0⟩
deriving DecidableEq, Repr

/-- A received link frame some of whose slots are missing (R99, R100): label, layout, the slots that have come,
the mask of the missing ones, NAKs sent, count of the last NAK. -/
structure Missing where
  label  : Nat
  layout : Nat
  slots  : List Slot
  mask   : Nat
  naks   : Nat
  nakAt  : Nat
  copies : Nat := 0
deriving DecidableEq, Repr

/-- What a port holds beside its registers. Every field is empty, zero or false at reset. -/
structure PortRt where
  /-- Block lock of lane 0 and lane 1 (R86). -/
  lock0     : Bool := false
  lock1     : Bool := false
  /-- The ident page has been received (R107, Table 5.7). -/
  ident     : Bool := false
  /-- The peer's S0 says VALID (R91, R30), and since which count without interruption (R58). -/
  pValid    : Bool := false
  pSince    : Nat := 0
  /-- The peer's labelled bit and label (R91, R27). -/
  pLabelled : Bool := false
  pLabel    : Nat := 0
  /-- The peer is the root's time master (R71). -/
  pMaster   : Bool := false
  /-- The peer has said VALID since the port last lost it (R70). -/
  pWas      : Bool := false
  /-- The own LFN at which the peer's latest label came (R27, R31, R71). -/
  pAt       : Nat := 0
  /-- The open echo exchanges of a child end, oldest first: t1, t2, t3 of each block whose t4 has not come back, and
  the exchange that the next upward S0 answers (R52). -/
  echo      : List (Nat × Nat × Nat) := []
  answer    : Nat × Nat × Nat := (0, 0, 0)
  /-- The latest t4 that came back, and t4 − t3 of the exchange it closed (R52). -/
  seenT4    : Nat := 0
  echoGap   : Option Int := none
  /-- The stamp t4 a parent end returns in its next S0, and the t1 of that exchange (R52). -/
  retT4     : Nat := 0
  retT1     : Nat := 0
  /-- The next self-test set of the port's TDC is due from this count on (R51). -/
  selfDue   : Nat := 0
  /-- The asymmetry record that the running echo set applies, in units of 0.625 ps (R55). -/
  asym      : Int := 0
  /-- The running echo set (R56, R57), and whether it, or the next one, is to be discarded (R53, R77). -/
  acc       : StatAcc := {}
  discard   : Bool := false
  discardNext : Bool := false
  /-- The latest close page of the far end: its θ on its two ports, cable record, set_valid bits, time_valid,
  and the count it came at (R59, R91). -/
  cTheta0   : Int := 0
  cTheta1   : Int := 0
  cCable    : Int := 0
  cSet0     : Bool := false
  cSet1     : Bool := false
  cValid    : Bool := false
  cAt       : Option Nat := none
  /-- The lanes this end wants to receive (R93, R109). -/
  want      : Nat := 3
  /-- The announced change of the transmit layout: count and lanes (R109). -/
  switchAt  : Option (Nat × Nat) := none
  /-- Count of the last change to the degraded layout (R109). -/
  switched  : Option Nat := none
  /-- Counts of failed slots on lane 0 and lane 1 within 2^16 link frames (R109). -/
  fails0    : List Nat := []
  fails1    : List Nat := []
  /-- Since when a dropped lane has held block lock without error (R110). -/
  clean0    : Option Nat := none
  clean1    : Option Nat := none
  /-- Counts of the degrades of each lane within 2^30 link frames (R110). -/
  flaps0    : List Nat := []
  flaps1    : List Nat := []
  /-- Pages that wait for a next S0, by code (R92). -/
  pages     : List Nat := []
  /-- Queues of plan content, oldest first (R98). -/
  queue     : List QItem := []
  /-- Stream number of the next message of reduction positions (R174). -/
  stream    : Nat := 0
  /-- Retry buffer: link frames as sent and not acknowledged, newest first (R99). -/
  retry     : List LinkFrame := []
  /-- Replay descriptor entries that the next link frame's first carrier announces (R93, R99). -/
  rdwNext   : List Nat := []
  /-- NAKs that wait for a carrier, oldest first: label and mask (R93, R99). -/
  nakQ      : List (Nat × Nat) := []
  /-- Messages of the S7 area that wait, in segments: key messages and management messages; the sequence number of the
  next message (R112). -/
  keyQ      : List MsgSeg := []
  mgmtQ     : List MsgSeg := []
  msgSeq    : Nat := 0
  /-- The window of the degraded layout: the 16 words of the group being sent and those received so far, and the page code
  of the group being sent (R94). -/
  txWin     : List Nat := []
  txPage    : Nat := 0
  rxWin     : List Nat := []
  /-- The label's high word by the last complete group (R94). -/
  rxHigh    : Option Nat := none
  /-- The peer's port state, once it is known (Table 5.4, R107). -/
  pState    : Option Nat := none
  /-- The first label of an epoch later than the receive key's (R104, R105). -/
  newEpochAt : Option Nat := none
  /-- Since which count neither lane has had power and lock together, and since which the port trains (R107, R108). -/
  darkAt    : Nat := 0
  trainAt   : Nat := 0
  /-- Since which count the port is UP (R125). -/
  upAt      : Nat := 0
  /-- The last 58 bits that each lane's scrambler has sent, the latest in bit 57 (R86). -/
  scr0      : Nat := 0
  scr1      : Nat := 0
  /-- Slots to be replayed: label and slot (R99). -/
  replayQ   : List (Nat × Nat) := []
  /-- Received link frames that wait for slots (R99). -/
  missing   : List Missing := []
  /-- Latest label received, and the acknowledged label (R93). -/
  lastLabel : Nat := 0
  acked     : Nat := 0
  /-- Slots of the link frame before, for a replay that its descriptor names afterwards (R93 prev). -/
  lastSlots : List Slot := []
  /-- Tree QL code, provisional and service of the peer's S0 (R91, R69). -/
  pQl       : Nat := 0
  pProv     : Bool := false
  pService  : Nat := 0
  /-- Link direction keys in force with their epochs, and the receive key before it (R103, R104). -/
  keyed     : Bool := false
  txKey     : Nat := 0
  txEpoch   : Nat := 0
  rxKey     : Nat := 0
  rxEpoch   : Nat := 0
  prevRx    : Nat := 0
  /-- Keys of the next epoch, agreed by an exchange or by a ratchet (R104). -/
  nextEpoch : Nat := 0
  nextTx    : Nat := 0
  nextRx    : Nat := 0
  nextOk    : Bool := false
  nextRat   : Bool := false
  /-- The key exchange in progress (R291): running, exchanges started, epoch, the peer's chain, nonce and public
  key, the derived keys and confirm key, and the SHA-384 T; `sigOk` after the peer's valid SIG. -/
  exch      : Bool := false
  exCount   : Nat := 0
  exEpoch   : Nat := 0
  certSent  : Bool := false
  cert      : Option PeerCert := none
  shared    : Bool := false
  pendTx    : Nat := 0
  pendRx    : Nat := 0
  confirm   : List Nat := []
  transcript : Nat := 0
  sigOk     : Bool := false
  /-- Link frames since the part left reset at the port's last entry into UNKEYED (R303). -/
  keyAge    : Nat := 0
  /-- Keys that the root of trust has installed at a TSU port since the last pair was complete (R292). -/
  gotTx     : Bool := false
  gotRx     : Bool := false
  /-- Counts of tag failures within 2^16 link frames (R106). -/
  tagFails  : List Nat := []
deriving DecidableEq, Repr

/-- A descriptor that passed the checks of R207 and has not completed. -/
structure InFlight where
  seq       : Nat
  desc      : Desc
  /-- Conductor descriptors execute only after their commit (R163). -/
  committed : Bool
  /-- Tenant, kind, key and slots of its ring pair when it was fetched (R196, R201, R202). -/
  tenant    : Nat := 0
  kind      : Nat := 0
  key       : Nat := 0
  slots     : List Nat := []
  /-- Its place in the order in which descriptors of the part start: at its fetch, or for a conductor descriptor at its
  commit; it has taken effect (R198). -/
  order     : Nat := 0
  begun     : Bool := false
  /-- Its completion has been discarded (R349). -/
  mute      : Bool := false
deriving DecidableEq, Repr

/-- What a ring pair holds beside its registers (R195 to R203). Empty or zero at reset. At a distributor the numbers from
256 on stand for the twin's ring pairs, of which a shadow holds the descriptors forwarded to it (R167). -/
structure RingRt where
  /-- Doorbell counts (R197). -/
  sqTail   : Nat := 0
  cqHead   : Nat := 0
  /-- Tenant identity, slot mask, ring key and session of the binding (R201, R289, R290). -/
  tenant   : Nat := 0
  slots    : List Nat := []
  key      : Nat := 0
  session  : Nat := 0
  /-- Bindings that descriptors in flight have outlived; a descriptor's sequence number is raised by 2^64 for each (R196). -/
  bind     : Nat := 0
  /-- Descriptors in flight, oldest first (R198). -/
  flight   : List InFlight := []
  /-- Completions that wait for space, oldest first (R199). -/
  waiting  : List Completion := []
  /-- Counts of the unsignalled completions, oldest first (R200). -/
  unsig    : List Nat := []
  /-- Completions by sequence number that wait for the responses to their result writes (R331). -/
  held     : List (Nat × Completion) := []
  /-- The message waits for the responses to the ring's writes (R331). -/
  irqOwed  : Bool := false
deriving DecidableEq, Repr

/-- An error-log entry, Table 17.5 (R360). -/
structure ErrEntry where
  code : Nat
  port : Nat
  arg  : Nat
  lfn  : Nat
deriving DecidableEq, Repr

/-- A reference phase step on its way (R76 to R78): Δ, L_0 and what of Δ has been applied. -/
structure Ramp where
  delta   : Int
  l0      : Nat
  applied : Int
deriving DecidableEq, Repr

/-- A civil page that waits for its apply LFN (R44, R92). -/
structure CivilPage where
  apply      : Nat
  sec        : Nat
  frac       : Nat
  inc        : Nat
  civilState : Nat
deriving DecidableEq, Repr

/-- A scrub in progress (R297 to R299): its count of begin, the slot, and the ring pair and sequence number
that its completion answers (none for a relayed scrub). -/
structure ScrubRt where
  began : Nat
  slot  : Nat
  reply : Option (Nat × Nat)
  ports : List Nat
deriving DecidableEq, Repr

/-- What both parts hold. -/
structure Node where
  /-- The part is out of reset (R333, R342). Reset true: the machine right after reset. -/
  live     : Bool := true
  /-- Machine time: LFN, SUB and the 0.625 ps fraction (R24, R25). Reset 0. -/
  lfn      : Nat := 0
  sub      : Nat := 0
  frac     : Nat := 0
  /-- The node holds a label count (R27, R105). Reset false. -/
  labelled : Bool := false
  /-- A root member counts from its own first link frame and does not know yet whether its twin or its children hold the
  machine's count (R27, R305). Reset false. -/
  origin   : Bool := false
  /-- The key epoch that a forward jump of the count has led into (R105). Reset none. -/
  jumpTo   : Option Nat := none
  /-- The exported count frozen in HOLD (R30). Reset 0:0. -/
  frozen   : MTime := ⟨0, 0⟩
  /-- ACQUIRE was entered from HOLD (R31). Reset false. -/
  fromHold : Bool := false
  /-- Port being acquired, echo set 1 or 2 (0 none), failures of set 2 in a row (R56). Reset 0. -/
  acqPort  : Nat := 0
  acqSet   : Nat := 0
  acqFails : Nat := 0
  /-- Offset correction still to be slewed, 0.625 ps units (R57). Reset 0. -/
  slew     : Int := 0
  /-- Reference phase step in progress (R77, R78). Reset none. -/
  ramp     : Option Ramp := none
  /-- The port that the node takes as its time port at the next set boundary, and the phase ψ it then has (R58, R88).
  Reset none. -/
  moveTo   : Option (Nat × Nat) := none
  /-- Downlink phase ψ within the link frame (R88), in SUB units. Reset 0. -/
  psi      : Nat := 0
  /-- Civil time at the start of this link frame: seconds, 64-bit fraction, increment (R42). Reset 0. -/
  civSec   : Nat := 0
  civFrac  : Nat := 0
  civInc   : Nat := 0
  /-- Civil page waiting for its apply LFN; count of the last one received (R44, R45). Reset none, 0. -/
  civHold  : Option CivilPage := none
  civLast  : Nat := 0
  /-- Every register field that differs from its reset value (R355). Reset empty. -/
  regs     : FMap Nat := []
  /-- Error log, oldest first (R360). Reset empty. -/
  errlog   : List ErrEntry := []
  /-- The ports by number, those that hold anything (R107). Reset empty. -/
  ports    : FMap PortRt := []
  /-- The ring pairs by number (R195). Reset empty. -/
  rings    : FMap RingRt := []
  /-- Descriptors started so far: the place of the next one in the order of R198. Reset 0. -/
  starts   : Nat := 0
  /-- The measurement set in progress (R50). Reset none. -/
  tdc      : Option TdcSet := none
  /-- Coalescing table of dynamic records (R113), counts of those sent (R114). Reset empty. -/
  dyn      : List DynRec := []
  dynSent  : List Nat := []
  /-- Event penalties of the health inputs by index (R271, R272). Reset empty: 0 each. -/
  pen      : FMap Nat := []
  /-- Current generation of the channel indices (R210) and the ends of quarantines (R212). Reset empty:
  generation 1 each, DESIGN CHOICE (log 8). -/
  gens     : FMap Nat := []
  quar     : FMap Nat := []
  /-- Generation of an index that is not listed: 1, advanced by each scrub of a TSU; the end of the quarantine in which a
  scrub has put every index (R297). Reset 1 and none. -/
  genDef   : Nat := 1
  quarAll  : Option Nat := none
  /-- MSI-X table entries: address and data (R331, R347). Reset empty. -/
  msix     : FMap (Nat × Nat) := []
  /-- Bring-up: steps begun and steps ended at this start (R303); ports whose training failure this start has counted,
  and plus 256 those whose key failure it has (R309); B9 acquires first from P1 or U1 (R312). Reset empty, empty, empty, false. -/
  bootBegun : List Nat := []
  bootDone  : List Nat := []
  bootTrain : List Nat := []
  altPort   : Bool := false
  /-- Link frames counted, see `age`, when each step begun at this start began (R303). Reset empty. -/
  bootAt    : FMap Nat := []
  /-- Link frames counted since the part left reset (R316 done_ms). Reset 0. -/
  age       : Nat := 0
  /-- The lane that last held block lock, by port (R312); no reset changes it. At first empty. -/
  lockLane  : FMap Nat := []
  /-- Bindings since manufacture (R289). Reset 0, DESIGN CHOICE (log 8). -/
  bindings : Nat := 0
  /-- Requester key made manager by first claim (R286). Reset none. -/
  claimed  : Option Nat := none
  /-- SPDM sessions open: number, requester key when authenticated (R288). Reset empty. -/
  sessions : List (Nat × Option Nat) := []
  /-- Scrub in progress (R299). Reset none. -/
  scrub    : Option ScrubRt := none
  /-- Images staged: measurement index, digest, security version; running images by index that differ from those at
  manufacture (R295). Reset empty. -/
  staged   : List (Nat × Nat × Nat) := []
  images   : FMap Nat := []
  /-- Model's own: what the part has sent and driven, newest first. Reset empty. -/
  out      : List Out := []
deriving DecidableEq, Repr

/-! ### The TSU's own state -/

/-- An arm-table entry (R129): state 1 ARMED, 2 CONFIRMED, 3 STAGED, 4 FIRED (a FREE entry is not listed). -/
structure ArmEntry where
  cz      : Crozier
  fire    : MTime
  state   : Nat
  targets : List Nat
  port    : Nat
  firedAt : Nat := 0
  acked   : List Nat := []
  twoSeen : Bool := false
  /-- The count of its first copy (R125), and whether its fire count passed without a fire of its words. -/
  since   : Nat := 0
  void    : Bool := false
deriving DecidableEq, Repr

/-- An abort and the count it acts at (R136); one that has acted is kept for its second copy (R124). -/
structure PendAbort where
  cz   : Crozier
  act  : MTime
  port : Nat
  done : Bool := false
deriving DecidableEq, Repr

/-- A TSU channel entry (R213, R215): state 1 CREATED, 2 BOUND. -/
structure TsuChan where
  state   : Nat
  gen     : Nat
  tenant  : Nat
  targets : List Nat := []
  ctx     : List Byte := []
  token   : Nat := 0
  epoch   : Nat := 0
  /-- The epochs that croziers have set, newest first, each from its step on (R137). -/
  epochs  : List (Nat × Nat) := []
  late    : Bool := false
deriving DecidableEq, Repr

/-- One layer's open digest of a step (R222, R227). -/
structure LayerDig where
  layer  : Nat
  digest : Nat
  epoch  : Nat
  blocks : Nat
deriving DecidableEq, Repr

/-- The step of a channel at the die (R35, R154, R223): its launch targets as `256 * entry + target`, those done,
the status so far, the count of the latest completion, whether its contribution has left. `lateDone`: those done at or
after tick k+1; `fires`: the fire counts of the launches that have fired, by the same number (R257). -/
structure OpenStep where
  handle  : Nat
  step    : Nat
  tick    : Nat
  variant : Nat
  attempt : Nat
  targets : List Nat := []
  done    : List Nat := []
  status  : Nat := 0
  last    : Option MTime := none
  sent    : Bool := false
  layers  : List LayerDig := []
  lateDone : List Nat := []
  fires   : List (Nat × MTime) := []
  /-- An abort has acted on the step (R37, R136). -/
  aborted : Bool := false
  /-- Tick k+1 has been met, and found a target without a completion (R35). -/
  closed  : Bool := false
  overran : Bool := false
deriving DecidableEq, Repr

/-- A region repeater (R39 to R41, R133): its own LFN, whether a marker and a measurement have been taken,
staged words (entry, target, kind), the commit owed after region_valid returned (R334). -/
structure RegionRt where
  lfn      : Nat := 0
  marked   : Bool := false
  measured : Bool := false
  comp     : Nat := 0
  /-- The fine delay in force, and the count of the last measurement (R39). -/
  fine     : Nat := 0
  measAt   : Nat := 0
  staged   : List (Nat × Nat × Nat) := []
  owed     : Bool := false
deriving DecidableEq, Repr

/-- A wait node (R253). -/
structure WaitNode where
  target  : Nat
  queue   : Nat
  handle  : Nat
  wRole   : Nat
  wTarget : Nat
  wQueue  : Nat
  since   : MTime
  /-- Wait-end stamp, kept until the tick that it precedes has been evaluated (R254). -/
  ended   : Option MTime := none
deriving DecidableEq, Repr

/-- A recorded class of an overrunning step (R254): 0 DONE, 1 BLOCKED, 2 RUNNING. -/
structure ClassRec where
  handle  : Nat
  step    : Nat
  cls     : Nat
  isLocal : Bool
  tick    : Nat
deriving DecidableEq, Repr

/-- An open key of the reduction front end (R169). -/
structure RfeKey where
  hdr    : PHdr
  exact  : List (Option Int) := []
  spec   : List Nat := []
  codes  : List (Option Nat) := []
  ents   : List PEntry := []
  bins   : List (Nat × Int) := []
  source : Nat := 0
  err    : Bool := false
  pairs  : Nat := 0
deriving DecidableEq, Repr

/-- Logits held for pass 2 (R189). -/
structure LogitBuf where
  hdr    : PHdr
  logits : List Nat
  atLfn  : Nat
deriving DecidableEq, Repr

/-- A broadcast key kept for the second copy (R188): the kept copy, when it came, on which port, and at a distributor whose
it is. -/
structure BcastKey where
  hdr   : PHdr
  body  : List Nat
  atLfn : Nat
  port  : Nat := 0
  partition : Nat := 0
deriving DecidableEq, Repr

/-- A result slot in use (R329). -/
structure ResultSlot where
  hdr     : PHdr
  body    : List Nat
  readers : List Nat
deriving DecidableEq, Repr

/-- A shard entry kept from a manifest (R230, R232): state 0 PENDING, 1 LOADING, 2 VERIFIED, 3 BAD, 4 MISSING. -/
structure Shard where
  layer    : Nat
  id       : Nat
  len      : Nat
  window   : Nat
  mac      : Nat
  h        : Nat
  p        : Nat
  state    : Nat := 0
  sum      : Nat := 0
  blocks   : List Nat := []
  deadline : Nat := 0
deriving DecidableEq, Repr

/-- A manifest held by the weight gate (R230). -/
structure Manifest where
  epoch  : Nat
  ring   : Nat
  opened : List Nat := []
  layers : List Nat
  shards : List Shard
deriving DecidableEq, Repr

/-- A layer that is open at an epoch (R234). -/
structure LayerRt where
  epoch : Nat
  ready : Bool
deriving DecidableEq, Repr

/-- A mailbox segment that waits for the request buffer (R292). -/
structure MbSeg where
  kind  : Nat
  ring  : Nat
  tag   : Nat
  first : Bool
  last  : Bool
  bytes : List Byte
deriving DecidableEq, Repr

/-- A request that waits for the root of trust's answer (R292): the ring pair and the sequence number of its
descriptor, and the count it was made at. -/
structure MbWait where
  kind : Nat
  ring : Nat
  tag  : Nat
  seq  : Nat
  at_  : Nat
  /-- What an ATTEST or KEY_INSTALL request asks (R292), and whether its ring has been bound meanwhile (R289). -/
  spdm : Option Spdm := none
  inst : Option InstallReq := none
  bound : Bool := false
deriving DecidableEq, Repr

/-- A memory request outstanding (R331): a read or a write for a ring pair, or a read of a channel's entry of the
carve-out, the second one after an error. -/
inductive MemReq where
  | ring (r : Nat) (write : Bool)
  | carve (index : Nat) (again : Bool)
  /-- A write of the result of ring pair r's descriptor. -/
  | result (r seq : Nat)
  /-- An MSI-X write of a ring pair, or of a common source. -/
  | msix (r : Option Nat)
deriving DecidableEq, Repr

/-- What the TSU holds beside `Node`. -/
structure TsuState where
  /-- Arm table by entry, FREE entries unlisted (R129). Reset empty. -/
  arm      : FMap ArmEntry := []
  /-- Retired keys with the count their entry was freed at, oldest first (R129); keys of the last 64 refused
  croziers (R124). Reset empty. -/
  retired  : List (Crozier × Nat) := []
  refused  : List Crozier := []
  /-- Aborts that wait for their acting count (R136). Reset empty. -/
  aborts   : List PendAbort := []
  /-- The launches fired: handle and fire count (R136). Reset empty. -/
  fires    : List (Nat × MTime) := []
  /-- Attempt count of the channel indices (R250). Reset empty: 0. -/
  attempts : FMap Nat := []
  /-- Channel table by index (R215). Reset empty. -/
  chans    : FMap TsuChan := []
  /-- Open steps of the die's channels (R35). Reset empty. -/
  steps    : List OpenStep := []
  /-- Sampled level requests, newest first: req_k, req_(k-1), req_(k-2) by region (R138). Reset empty. -/
  lvlReq   : List (List Nat) := []
  /-- The tick of the last sample and of the last counted commit (R138). Reset none. -/
  lvlSampleAt : Option Nat := none
  lvlCommitAt : Option Nat := none
  /-- Region repeaters by number (R39). Reset empty. -/
  regions  : FMap RegionRt := []
  /-- Partition of the die, from its scope table (R256). Reset none. -/
  partition : Option Nat := none
  /-- Wait graph and overflowed targets (R253); classes kept for 64 frames (R254). Reset empty. -/
  waits    : List WaitNode := []
  overflow : List Nat := []
  classes  : List ClassRec := []
  /-- The tick that the wait graph was last evaluated for (R254). Reset none. -/
  evalAt   : Option Nat := none
  /-- Kill words fired and not acknowledged: target, handle, count (R239). Reset empty. -/
  kills    : List (Nat × Nat × Nat) := []
  /-- Counts of the compute-domain resets (R259). Reset empty. -/
  resets   : List Nat := []
  /-- The next core-clock edge, by region, that no word presented and fired in one cycle has taken (R324). Reset empty: 0. -/
  busNext  : FMap Nat := []
  /-- CMP_RST_ACK is high (R239). Reset false. -/
  cmpAck   : Bool := false
  /-- Reduction front end: open keys (R169), keys the die has closed (R328). Reset empty. -/
  rfe      : List RfeKey := []
  closed   : List PHdr := []
  /-- Logits held for pass 2 (R189). Reset empty. -/
  logits   : List LogitBuf := []
  /-- Broadcast keys (R188). Reset empty. -/
  bcasts   : List BcastKey := []
  /-- Result slots by number and results that wait for one (R329). Reset empty. -/
  slots    : FMap ResultSlot := []
  slotWait : List (PHdr × List Nat) := []
  /-- Digest history: step records and layer records, newest first (R227). Reset empty. -/
  hist     : List (Soredium × Nat × Bool) := []
  histLay  : List (Nat × Nat × LayerDig) := []
  /-- Weight gate: current and incoming manifest (R230), open layers (R234). Reset none, empty. -/
  mfCur    : Option Manifest := none
  mfIn     : Option Manifest := none
  layers   : FMap LayerRt := []
  /-- Requests that wait for the root of trust, and segments that wait for the request buffer (R292). Reset
  empty. -/
  mbWait   : List MbWait := []
  mbOut    : List MbSeg := []
  /-- Response bytes assembled from segments (R292). Reset empty. -/
  mbRsp    : List Byte := []
  /-- Tenant of the TSU, its signing key and load key (R290, R289). Reset none. -/
  tenant   : Option Nat := none
  tenantKey : Nat := 0
  loadKey  : Option Nat := none
  /-- Memory requests outstanding by tag (R331). Reset empty. -/
  memReqs  : FMap MemReq := []
  /-- Requests that wait for a free tag, oldest first (R331). Reset empty. -/
  memWait  : List MemReq := []
  /-- Expulsion: a request waits for its verdict, count of the last request (R273). Reset none. -/
  expelAt  : Option Nat := none
  /-- The ready report owed has been sent (R240, R267); the GEN_SYNC replay after B3 has ended (R325).
  Reset false. -/
  readySent : Bool := false
  /-- TSU_KEY_DATA as written, by word: a write-only register (R5, R292). Reset empty: 0 each. -/
  keyData  : FMap Nat := []
  genSynced : Bool := false
deriving DecidableEq, Repr

/-! ### The distributor's own state -/

/-- A reference input of the root selector (R72): equal information PDUs in a row, counts of entry into QUALIFYING and of
the last PDU. -/
structure RefIn where
  /-- Equal information PDUs in a row (R72). -/
  run     : Nat := 0
  /-- SSM code of the last information PDU (R72). -/
  infoSsm : Nat := 0
  /-- Count of the entry into QUALIFYING (R72). -/
  qualAt  : Nat := 0
  /-- Count of the last PDU (R72). -/
  lastPdu : Nat := 0
deriving DecidableEq, Repr

/-- A crozier key in the compare window (R124): partition, first copy, its port, the count it came at, whether a
second copy has come. -/
structure CzKey where
  partition : Nat
  cz        : Crozier
  port      : Nat
  atLfn     : Nat
  second    : Bool
deriving DecidableEq, Repr

/-- A distributor peristome (R141): state 0 IDLE, 1 ARMED, 2 RELEASED. -/
structure PeriRt where
  state    : Nat
  tsuIndex : Nat := 0
  op       : Nat := 0
  slot     : Nat := 0
  deadline : Option Nat := none
  timedOut : Bool := false
  gated    : Bool := false
deriving DecidableEq, Repr

/-- A select entry of a plan (R149). -/
structure SEntry where
  first     : Nat
  last      : Nat
  variant   : Nat
  threshold : Nat
deriving DecidableEq, Repr

/-- A bound plan (R144 to R147). -/
structure Plan where
  slot        : Nat
  tenant      : Nat
  nested      : Bool
  dvar        : Option Nat
  targets     : List TEntry
  selects     : List SEntry
  maxChannels : Nat
  armPeak     : Nat
  periUsed    : Nat
  wordsMp     : Nat
  czFull      : Nat
  czDegr      : Nat
  demand      : List Nat
  firstPage   : Nat
  pages       : Nat
  retiring    : Bool
  variants    : List (List Nat)
deriving DecidableEq, Repr

/-- A destroyed channel whose event and completion are owed (R216): ring pair and sequence number of the
descriptor, T_d, the record it ended with, whether it was bound. -/
structure Destroyed where
  ring  : Nat
  seq   : Nat
  td    : Nat
  r     : ChRec
  bound : Bool
deriving DecidableEq, Repr

/-- A crozier queued at the conductor (R152): the link frame of its placement, whether it is an abort, its channel
and its plan. -/
structure CzQ where
  cz    : Crozier
  at_   : Nat
  abort : Bool
  ch    : Nat
  plan  : Nat
deriving DecidableEq, Repr

/-- An input held for its commit count (R163). -/
structure Input where
  id       : Nat
  kind     : InputKind
  heldAt   : Nat
  commitAt : Option Nat
  slot     : Option Nat := none
deriving DecidableEq, Repr

/-- A key open in the TAU (R170 to R173, R189), for one partition: the header of its first partial, the count it
came at, the first copies by downlink, whether a contribution error lies on it. At the apex: complete or
at its deadline and waiting for its word, refused for space, the deadline, the REDUCE or SAMPLE word, the step
number and the position; for pass 2 M, s, the candidates and the status of pass 1; the role set of a SAMPLE word's
target entry (R156); which of the copies have had their second copy; the node has no space and passes the partials on
(R173). -/
structure TauKey where
  partition : Nat
  first     : PHdr
  atLfn     : Nat
  parts     : List (Nat × PPartial) := []
  err       : Bool := false
  due       : Bool := false
  noSpace   : Bool := false
  deadline  : Option Nat := none
  word      : Option Nat := none
  step      : Nat := 0
  pos       : Nat := 0
  mVal      : Nat := 0
  sVal      : Nat := 0
  cands     : List PEntry := []
  status1   : Nat := 0
  roles     : Option (List (Nat × Nat)) := none
  seen      : List Nat := []
  through   : Bool := false
deriving DecidableEq, Repr

/-- A soredia key open at a node (R225): partition, combination so far, first count, first copies by downlink, which of them
have had their second copy, passed on for want of room. -/
structure SorKey where
  partition : Nat
  acc       : Soredium
  atLfn     : Nat
  parts     : List (Nat × Soredium)
  seen      : List Nat := []
  through   : Bool := false
deriving DecidableEq, Repr

/-- A SWAP in progress on a partition slot (R159): swap channel, base peristome, first, last and current layer,
phase 0 draining, 1 waiting for the release, its word's target entry, epoch register, timeout as tmo_log2. -/
structure SwapRt where
  ch    : Nat
  base  : Nat
  first : Nat
  last  : Nat
  cur   : Nat
  phase : Nat
  entry : TEntry
  epoch : Nat
  tmo   : Nat
deriving DecidableEq, Repr

/-- A wait query of the hang detector (R255). -/
structure HangQ where
  partition : Nat := 0
  expected  : Nat := 0
  handle  : Nat
  step    : Nat
  atLfn   : Nat
  done    : Nat := 0
  blocked : Nat := 0
  running : Nat := 0
  isLocal : Bool := false
  first   : Nat := 0
  last    : Nat := 0
  seen    : List Nat := []
deriving DecidableEq, Repr

/-- What the distributor member holds beside `Node`. -/
structure DbxState where
  /-- Level, side and root bit of DBX_NODE_CFG as B3 has ended with them (R22, R316). Reset none: B3 has not ended. -/
  nodeCfg  : Option (Nat × Bool × Bool) := none
  /-- Reference inputs by index (R72). Reset empty. -/
  refs     : FMap RefIn := []
  /-- The selector's loop has frozen its frequency (R72, R81). Reset false. -/
  frozenHz : Bool := false
  /-- Deferred step: from, to, cause (R79). Reset none. -/
  deferred : Option (Nat × Nat × Nat) := none
  /-- PPS anchors by input; last edge of each pulse output; count of the last write of its set-up (R82).
  Reset empty. -/
  anchors  : FMap MTime := []
  outLast  : FMap MTime := []
  outCfgAt : FMap MTime := []
  /-- The count at which civil time last took new values, the civil computation of a pulse output (R82). Reset none. -/
  civAt    : Option MTime := none
  /-- The next periodic closure run is due from this count on (R61). Reset 0. -/
  closeDue : Nat := 0
  /-- Increment and initial value accepted by CIVIL_SET for the next broadcast (R43, R44). Reset none. -/
  civNext  : Option (Nat × Option (Nat × Nat)) := none
  /-- Counts since which ELS modules have been present and enabled (R116). Reset empty. -/
  elsSince : FMap Nat := []
  /-- Keys in the compare window, oldest first (R124). Reset empty. -/
  czKeys   : List CzKey := []
  /-- Peristomes by index, IDLE ones unlisted (R141). Reset empty. -/
  peris    : FMap PeriRt := []
  /-- The data words written for the next entry (R143, Table 6.12). Reset empty: 0 each. -/
  tblStage : FMap Nat := []
  /-- Writes of entries that take effect before the next link frame: table, index, value (R122). Reset empty. -/
  tblPend  : List (Nat × Nat × Nat) := []
  /-- Scope, route and exception tables, 128-bit entries (R122). Reset empty: zero entries. -/
  tScope   : FMap Nat := []
  tRoute   : FMap Nat := []
  tExc     : FMap Nat := []
  /-- Plan store by plan index (R146). Reset empty. -/
  plans    : FMap Plan := []
  /-- Channel records by index (R162). Reset empty. -/
  chans    : FMap CondChan := []
  /-- Attempt count that the record of a free index keeps (R250). Reset empty: 0 each. -/
  attempts : FMap Nat := []
  /-- Queued croziers by partition slot, oldest first (R152). Reset empty. -/
  czq      : FMap (List CzQ) := []
  /-- Croziers emitted by partition slot: link frame and number (R152). Reset empty. -/
  czSent   : FMap (Nat × Nat) := []
  /-- Word meters by plan index (R148): words executed in this map period. Reset empty. -/
  meters   : FMap Nat := []
  /-- Words executed in a link frame: by partition slot and by channel, the link frame and the number (R148, R153).
  Reset empty. -/
  wordsLf  : FMap (Nat × Nat) := []
  chWords  : FMap (Nat × Nat) := []
  /-- Words of the plan store whose parity fails: plan, variant, address (R146); channel records whose parity fails (R164).
  A fault of the SRAM puts them there, and no command does (log 156). Reset empty. -/
  badWords : List (Nat × Nat × Nat) := []
  badRecs  : List Nat := []
  /-- Of those records, the ones that the conductor has met and that wait for their copies (R164). Reset empty. -/
  foundRecs : List Nat := []
  /-- Crozier meters by plan index (R148): the 16-link-frame period and the positions placed in it. Reset empty. -/
  czMeter  : FMap (Nat × Nat) := []
  /-- Destroyed channels by index whose DESTROYED event is owed (R216). Reset empty. -/
  destroyed : FMap Destroyed := []
  /-- Inputs held for commit (R163) and the next input number. Reset empty, 0. -/
  inputs   : List Input := []
  /-- Notices at a shadow for inputs that it does not hold yet, with their commit counts (R163). Reset empty. -/
  notices  : List (InputKind × Nat) := []
  nextId   : Nat := 0
  /-- Degraded links by partition: reporting UID, port, direction (R157). Reset empty. -/
  degraded : List (Nat × Nat × Nat × Nat) := []
  /-- Swaps in progress by slot (R159). Reset empty. -/
  swaps    : FMap SwapRt := []
  /-- TAU keys open, and closed keys (R171). Reset empty. -/
  tau      : List TauKey := []
  tauShut  : List TauKey := []
  /-- Soredia keys open and closed, history of closed ones newest first: partition, soredium, tick (R225, R227).
  Reset empty. -/
  sors     : List SorKey := []
  sorShut  : List SorKey := []
  hist     : List (Nat × Soredium × Nat) := []
  /-- Wait queries (R255). Reset empty. -/
  hangs    : List HangQ := []
  /-- Broadcasts sent on within the compare window (R188). Reset empty. -/
  bcasts   : List BcastKey := []
  /-- Wait replies combined below the apex (R255). Reset empty. -/
  waitAcc  : List HangQ := []
  /-- Roles with a not-ready report and no later ready report: partition, role (R246); roles that have reported
  ready: partition, role (R308). Reset empty. -/
  notReady : List (Nat × Nat) := []
  readyRoles : List (Nat × Nat) := []
  /-- Suspect sets under one-at-a-time replay: handles left (R258). Reset empty. -/
  suspects : List (List Nat) := []
  /-- Grants within the window: count, partition, pod (R273). Reset empty. -/
  grants   : List (Nat × Nat × Nat) := []
  /-- Retained roles with pod and partition, oldest first (R273). Reset empty. -/
  retPods  : List (Nat × Nat × Nat) := []
  /-- Deadlines of the open insertion records by index, whole counts (R268). Reset empty. -/
  insertBy : FMap Nat := []
  /-- Record log of a root distributor, oldest first (R275). Reset empty. -/
  recLog   : List DynRec := []
  /-- Owner tenant and signing key by partition slot (R290). Reset empty. -/
  owners   : FMap (Nat × Nat) := []
  /-- Compare counts: the last one held with the twin (R164, R166); group digests of the twin. Reset 0. -/
  lastCmp  : Nat := 0
  /-- A handback accepted for the next compare count (R168). Reset false. -/
  handing  : Bool := false
  /-- A compare at once is owed (R165). Reset false. -/
  cmpNow   : Bool := false
  /-- Groups under resync, by number, plus 64 once their records are copied (R164). Reset empty. -/
  resync   : List Nat := []
  /-- A thermal trip holds; one has ended while RESET_N was asserted, and the next start tells of it (R343). Reset false. -/
  tripped  : Bool := false
  tripOwed : Bool := false
  /-- RESET_N is asserted or PWRGOOD low (R342). Reset false: State.reset stands right after the release. -/
  held     : Bool := false
  /-- The boot record in board SPI flash (R309): boot registers and node configuration by field; none while it has never
  been written. No reset changes it. At first none, DESIGN CHOICE (log 33). -/
  store    : Option (FMap Nat) := none
  /-- The switch to X1 asked for has been judged (R278). Reset false. -/
  x1Done   : Bool := false
  /-- Posts that wait for a ring: ring pair and completion, oldest first (R160). Reset empty. -/
  posts    : List (Nat × Completion) := []
deriving DecidableEq, Repr

/-- The state of the block. -/
structure State where
  /-- The TSU's node: time, registers, ports, rings. Reset: each field at its reset. -/
  tsu     : Node := {}
  /-- The distributor member's node. Reset: each field at its reset. -/
  dbx     : Node := {}
  /-- What only the TSU holds. -/
  t       : TsuState := {}
  /-- What only the distributor holds. -/
  d       : DbxState := {}
  /-- Model's own: the number of free values drawn (log 9). Reset 0, DESIGN CHOICE. -/
  fresh   : Nat := 0
  /-- Commands that wait, first in first out. Reset empty. -/
  pending : List Instr := []
deriving DecidableEq, Repr

/-- Reasons for which the block stops with a fault: no meaning raises one, since the spec describes no stop of
the two parts. -/
inductive Fault where
  /-- Raised by no command; kept because a step's interface has a fault outcome. Safe. -/
  | none
deriving DecidableEq, Repr

/-- Reasons for which a command is refused by the model. -/
inductive Refusal where
  /-- The row has no meaning yet: raised by its arm of `exec` alone. Safe. -/
  | notModelled (mnemonic : String)
deriving DecidableEq, Repr

/-- The state right after reset (R355): every register field at its reset value, every table empty, both parts
in NO_TIME (R30) with no role and no key, nothing waiting. -/
def State.reset : State := {}

end Sys2Proof.Machine
end

