-- ==== Sys2Proof/Machine/Pack.lean ====
section
/-! DEFINITION. The bytes and words of what a slot carries: croziers (Table 6.1), partials and results (R174, Tables 8.1
and 8.4, R185, R186), soredia (Table 10.1), dynamic records (Table 5.8), management messages (Table 11.8), and the
completion contributions and pair content, whose layout the spec does not give. -/

namespace Sys2Proof.Machine

/-- Fields laid end to end from bit 0: the width and the value of each. -/
def packFields : List (Nat × Nat) → Nat
  | [] => 0
  | (w, v) :: l => v % 2 ^ w + 2 ^ w * packFields l

/-- The 32-bit words of bytes, the last one filled with 0. -/
def wordsOf (n : Nat) (bs : List Byte) : List Nat := (List.range n).map fun i => leNat bs (4 * i) 4

/-! ### Croziers (Table 6.1) -/

/-- The 30 bytes of a crozier, little-endian (R118). -/
def crozierBytes (c : Crozier) : List Byte :=
  toLe 30 (packFields [(3, c.ctype), (4, c.scope), (1, c.rsv0), (64, c.target), (32, c.handle), (48, c.step), (8, c.variant),
    (32, c.fireLfn), (13, c.fireSub), (2, c.form), (1, c.rsv24), (32, c.payload)])

/-- The crozier that 30 bytes spell (R118). -/
def crozierOf (bs : List Byte) : Crozier :=
  let n := leNat bs 0 30
  { ctype := bits n 0 3, scope := bits n 3 4, rsv0 := bits n 7 1, target := bits n 8 64, handle := bits n 72 32,
    step := bits n 104 48, variant := bits n 152 8, fireLfn := bits n 160 32, fireSub := bits n 192 13,
    form := bits n 205 2, rsv24 := bits n 207 1, payload := bits n 208 32 }

/-- The words of a crozier position: crozier 0 in bytes 0 to 29, crozier 1 in bytes 30 to 59; an idle half is zero (R90). -/
def crozierWords (cs : List Crozier) : List Nat :=
  wordsOf 15 ((cs.take 2).flatMap crozierBytes ++ List.replicate (60 - 30 * (cs.take 2).length) 0)

/-! ### Partials (R174, R179, R185, R186) -/

/-- The 24-byte header of a partial (Table 8.1). -/
def phdrBytes (h : PHdr) : List Byte :=
  toLe 24 (packFields [(32, h.handle), (16, h.stepLo), (8, h.tag), (4, h.op), (4, h.format), (12, h.nM1), (4, h.scope),
    (16, h.domain), (22, h.count), (1, b2n h.ordered), (5, h.blkJ), (4, h.status), (21, h.blkA), (1, b2n h.contribErr),
    (4, h.attempt), (6, 0), (13, h.entries), (19, 0)])

/-- Lowest limb and number of limbs of a format's window; of sample pass 2, op 11 (Table 8.4). -/
def windowOf (op f : Nat) : Nat × Nat :=
  if op = 11 then (1, 3)
  else if f = 2 || f = 3 then (0, 6)
  else if 4 ≤ f && f ≤ 9 then (2, 2)
  else if f = 10 || f = 14 then (3, 2)
  else (3, 1)

/-- The limbs of the accumulator A that a window carries, low limb first (R179). -/
def limbBytes (win : Nat × Nat) (a : Int) : List Byte :=
  toLe (8 * win.2) (ofSigned (64 * win.2) (a.fdiv (2 ^ (64 * win.1))))

/-- Elements of `w` bits packed from bit 0, in whole bytes (R176). -/
def elemBytes (w : Nat) (vs : List Nat) : List Byte :=
  toLe (ceilDiv (w * vs.length) 8) (packFields (vs.map fun v => (w, v)))

/-- The element `i` of `w` bits of a packed stream of bytes (R176). -/
def elemAt (w : Nat) (bs : List Byte) (i : Nat) : Nat := bits (leNat bs 0 bs.length) (w * i) w

/-- An entry of ARGMAX, TOPK or sample pass 1: 12 bytes, or 16 for the 64-bit formats (R185). -/
def entryBytes (f : Nat) (e : PEntry) : List Byte :=
  if fmtBits f = 64 then toLe 16 (packFields [(64, e.value), (21, e.role), (11, 0), (12, e.element)])
  else toLe 12 (packFields [(32, e.value), (21, e.role), (11, 0), (12, e.element)])

/-- The body of a partial: limbs and special map, 32-bit counts of COUNT, values of ordered blocks, elements, entries, bins
(R179, R181, R184 to R186). -/
def partBody (h : PHdr) : PBody → List Byte
  | .exact acc sp => if h.op = 8 then elemBytes 32 (acc.map fun v => (v / 2 ^ 192).toNat) else acc.flatMap (fun v => limbBytes (windowOf h.op h.format) v)
      ++ (if fmtFloat h.format && h.op ≠ 11 then elemBytes 2 sp else [])
  | .ordered vals => vals.flatMap fun v => toLe 8 (v.getD 0)
  | .elems codes => elemBytes (fmtBits h.format) (codes.map fun c => c.getD (nanCode h.format))
  | .entries es => es.flatMap (entryBytes h.format)
  | .hist bins => bins.flatMap fun b => toLe 2 b.1 ++ limbBytes (windowOf 0 h.format) (b.2 * 2 ^ 192)

/-- The bytes of a partial: header and body (R174). -/
def partBytes (p : PPartial) : List Byte := phdrBytes p.hdr ++ partBody p.hdr p.body

/-- The body of a result (R185, R188): entries with their global index in place of role and element, or the elements packed
in their format (log 160). -/
def resultBytes (op f : Nat) (codes : List Nat) (index : List (Nat × Nat)) : List Byte :=
  if op = 3 || op = 4 then
    index.flatMap fun x => if fmtBits f = 64 then toLe 8 x.1 ++ toLe 8 x.2 else toLe 4 x.1 ++ toLe 8 x.2
  else elemBytes (fmtBits f) codes

/-- The first byte in which two byte strings differ; of two equal ones, or of one that the other begins with, its length. -/
def firstDiff (a b : List Byte) : Nat :=
  ((a.zip b).findIdx? fun x => x.1 != x.2).getD (min a.length b.length)

/-- The prefix word of a reduction slot (R174): stream, sequence number, first, last. -/
def prefixWord (stream seq : Nat) (first last : Bool) : Nat :=
  stream % 2 ^ 16 + 2 ^ 16 * (seq % 2 ^ 12) + 2 ^ 28 * b2n first + 2 ^ 29 * b2n last

/-- The slots of a message of reduction positions: a prefix word and 56 body bytes each (R174). -/
def streamSlots (stream : Nat) (bs : List Byte) : List (List Nat) :=
  let n := max 1 (ceilDiv bs.length 56)
  (List.range n).map fun i =>
    prefixWord stream i (i == 0) (i + 1 == n) :: wordsOf 14 ((bs.drop (56 * i)).take 56)

/-! ### Soredia (R224) -/

/-- The seven words of a soredium (Table 10.1). -/
def soredWords (x : Soredium) : List Nat :=
  wordsOf 7 (toLe 28 (packFields [(32, x.handle), (48, x.step), (10, x.split), (4, x.span), (1, b2n x.multi),
    (1, b2n x.incomplete), (64, x.digest), (32, x.eMin), (22, x.count), (8, x.variant), (1, b2n x.weight),
    (1, b2n x.varMixed)]))

/-- The words of a soredia slot: two soredia and their attempts; an idle half is zero (R224). -/
def soredSlot (xs : List Soredium) : List Nat :=
  let two := xs.take 2
  two.flatMap soredWords ++ List.replicate (14 - 7 * two.length) 0
    ++ [packFields (two.map fun x => (4, x.attempt))]

/-! ### The S7 message area (R112, R113, R256) -/

/-- The 16 bytes of a dynamic record (Table 5.8). -/
def recBytes (r : DynRec) : List Byte :=
  toLe 16 (packFields [(4, r.type), (12, r.code), (16, r.count), (22, r.firstSrc), (2, r.firstKind), (8, 0), (22, r.lastSrc),
    (2, r.lastKind), (8, 0), (16, r.firstLfn), (16, r.lastLfn)])

/-- Bytes 4 to 7 of a channel-2 message, and the bytes from byte 8 on (Table 11.8). Other types than those of the table
have no layout in the spec: their values stand as 32-bit words. -/
def mgmtFields (type : Nat) (v : List Nat) : Nat × List Byte :=
  let a := fun i => v.getD i 0
  match type with
  | 1 => (a 0 % 2 ^ 21 + 2 ^ 31 * a 1, toLe 8 (a 2))
  | 2 => (a 0 % 2 ^ 21, toLe 8 (packFields [(8, a 1), (5, a 2), (1, a 3), (18, 0), (32, a 4)])
      ++ (v.drop 5).flatMap (toLe 4))
  | 3 => (a 0, toLe 8 (a 1 % 2 ^ 48))
  | 4 => (a 0, toLe 24 (packFields [(16, a 1), (16, 0), (22, a 2), (10, 0), (22, a 3), (9, 0), (1, a 4), (22, a 5), (10, 0),
      (32, a 6), (32, a 7)]))
  | 5 => (a 0 % 2 ^ 21, toLe 8 (a 1))
  | 6 => (a 0 % 2 ^ 21, toLe 8 (a 1))
  | 7 => (packFields [(8, a 0), (1, a 1), (22, 0), (1, a 2)], toLe 8 (a 3))
  | _ => (a 0, (v.drop 1).flatMap (toLe 4))

/-- The bytes of a channel-2 management message (Table 11.8). -/
def mgmtBytes (type partition : Nat) (v : List Nat) : List Byte :=
  let f := mgmtFields type v
  [type % 256, 0] ++ toLe 2 partition ++ toLe 4 f.1 ++ f.2

/-- The bytes of a link key message (Table 13.4). -/
def keyBytes (type : Nat) (v : List Nat) : List Byte :=
  let a := fun i => v.getD i 0
  toLe 8 type ++ match type with
    | 1 => toLe 4 Config.aliasChain.length ++ Config.aliasChain
    | 2 => toLe 8 (a 0) ++ toLe 32 (a 1) ++ toLe 97 (a 2)
    | 3 => toLe 96 (a 0)
    | _ => toLe 16 (a 0)

/-- The 32-byte segments of a message: its first and last flags, its length and its bytes (R112, Table 5.4). -/
def segmentsOf (kind channel seq : Nat) (bs : List Byte) : List MsgSeg :=
  let n := max 1 (ceilDiv bs.length 32)
  (List.range n).map fun i =>
    ⟨kind, channel, seq % 256, i == 0, i + 1 == n, (bs.drop (32 * i)).take 32⟩

/-- The words w4 to w12 of S7 for a segment (Table 5.4). -/
def segWords (m : MsgSeg) : List Nat :=
  packFields [(4, m.kind), (4, m.channel), (8, m.seq), (1, b2n m.first), (1, b2n m.last), (6, m.bytes.length)]
    :: wordsOf 8 m.bytes

/-! ### Blocks (R86, R87) -/

/-- The eight 64-bit payloads of a slot: block j carries its bytes 8j to 8j + 7 (R87). -/
def slotBlocks (x : Slot) : List Nat :=
  let ws := x.words ++ [x.check]
  (List.range 8).map fun j => ws.getD (2 * j) 0 % 2 ^ 32 + 2 ^ 32 * (ws.getD (2 * j + 1) 0 % 2 ^ 32)

/-- The slots of a link frame on a lane, in the order of Table 5.1; none on the lane that a degraded layout has dropped. -/
def laneSlots (layout lane : Nat) : List Nat :=
  if layout = 0 then (if lane = 0 then [0, 1, 2, 3] else [4, 5, 7, 6])
  else if lane + 1 = layout then [0, 1, 2, 3] else []

/-- A fill block before scrambling: header 0b01 and all ones (R88). -/
def fillBlock : Nat × Nat := (1, 2 ^ 64 - 1)

/-- The 32 blocks of a lane in a link frame, header and payload before scrambling: the first carries 0b10 and every other
0b01 (R86); a dropped lane carries fill (R110). -/
def laneBlocks (f : LinkFrame) (lane : Nat) : List (Nat × Nat) :=
  let ps := (laneSlots f.layout lane).flatMap fun i => slotBlocks (f.slots.getD i ⟨[], 0⟩)
  if ps.isEmpty then List.replicate 32 fillBlock
  else (ps.zipIdx).map fun x => (if x.2 = 0 then 2 else 1, x.1)

/-- The scrambler x⁵⁸ + x³⁹ + 1 over a payload whose bit 0 is sent first: the payload as sent, and the last 58 bits sent
(R86). -/
def scrambleBlock (h d : Nat) : Nat × Nat :=
  let lo := Nat.xor (Nat.xor d (h / 2 ^ 19)) h % 2 ^ 39
  let hi := Nat.xor (Nat.xor (d / 2 ^ 39) lo) ((h + 2 ^ 58 * lo) / 2 ^ 39) % 2 ^ 25
  let x := lo + 2 ^ 39 * hi
  (x, (h + 2 ^ 58 * x) / 2 ^ 64)

/-- The descrambler: a payload from the payload as received and the 58 bits received before it (R86). -/
def descrambleBlock (h x : Nat) : Nat := Nat.xor (Nat.xor x ((h + 2 ^ 58 * x) / 2 ^ 19)) (h + 2 ^ 58 * x) % 2 ^ 64

/-- Blocks through the scrambler, in the order sent: the blocks as sent, and the last 58 bits sent. -/
def scramble : Nat → List (Nat × Nat) → List (Nat × Nat) × Nat
  | h, [] => ([], h)
  | h, (hd, d) :: l =>
    let r := scrambleBlock h d
    let q := scramble r.2 l
    ((hd, r.1) :: q.1, q.2)

/-! ### The slots of queued content -/

/-- The data words of the slots that an item of plan content takes. A crozier, and a soredium, takes half a slot, which
`halves` joins; the layout of a completion contribution, of a broadcast's body and of pair content is not given by the
spec and is an open value of it. -/
def contentSlots (stream : Nat) : Content → List (List Nat)
  | .crozier c => [crozierWords [c]]
  | .soredium x => [soredSlot [x]]
  | .part p => streamSlots stream (partBytes p)
  | .result h body => streamSlots stream (phdrBytes h ++ body)
  | .pass2 h m x skip => streamSlots stream (phdrBytes h ++ Config.pass2Body [m, x, b2n skip])
  | .compl c => [Config.complWords [c.handle, c.step, c.tickLo % 2 ^ 16, c.count, c.status, c.slack]]
  | .pair ws => [Config.pairWords ws]

/-- The data words of a position that takes these items: the two halves of a crozier or soredia slot together, else the
one slot of the item at its segment. -/
def positionWords (qs : List QItem) : List Nat :=
  match qs with
  | [⟨_, _, _, .crozier a, _, _⟩, ⟨_, _, _, .crozier b, _, _⟩] => crozierWords [a, b]
  | [⟨_, _, _, .soredium a, _, _⟩, ⟨_, _, _, .soredium b, _, _⟩] => soredSlot [a, b]
  | q :: _ => (contentSlots q.stream q.content).getD q.seg []
  | [] => []

/-! ### The TSU's boundary (Tables 15.3 and 15.4) -/

/-- A launch-bus word of 128 bits. A marker's step field holds its event code and argument. -/
def launchWord (kind target entry attempt variant handle step : Nat) : Nat :=
  packFields [(3, kind), (8, target), (10, entry), (4, attempt), (8, variant), (32, handle), (48, step)]

/-- A generation-bus update of a channel index. -/
def genWord (idx gen attempt : Nat) : Nat := packFields [(2, 0), (18, idx), (14, gen), (4, attempt)]

/-- A generation-bus update of a layer. -/
def layerWord (layer epoch : Nat) (ready : Bool) : Nat := packFields [(2, 1), (10, layer), (1, b2n ready), (32, epoch)]

end Sys2Proof.Machine
end

