-- ==== Sys2Proof/Machine/Regs.lean ====
section
/-! DEFINITION. The register fields of the TSU window and of BAR0, one constant for each field that the
register tables of the spec name (reserved bits are no field: R4), and the two lists of all of them
(R362). A field that both parts have takes the part as its argument. -/

namespace Sys2Proof.Machine

/-! 02_machine_time.md R24-R46: Table 2.5 — TSU_TIME_STATUS (TSU 0x1000) and DBX_TIME_STATUS (BAR0 0x0_1000) -/
def F.timeStatusTimeValid (p : Part) : Fld := match p with
  | .tsu => { part := .tsu, base := 0x1000, lo := 0, width := 1, acc := .ro }
  | .dbx => { part := .dbx, base := 0x1000, lo := 0, width := 1, acc := .ro }
def F.timeStatusTimeState (p : Part) : Fld := match p with
  | .tsu => { part := .tsu, base := 0x1000, lo := 1, width := 3, acc := .ro }
  | .dbx => { part := .dbx, base := 0x1000, lo := 1, width := 3, acc := .ro }
def F.timeStatusProvisional (p : Part) : Fld := match p with
  | .tsu => { part := .tsu, base := 0x1000, lo := 4, width := 1, acc := .ro }
  | .dbx => { part := .dbx, base := 0x1000, lo := 4, width := 1, acc := .ro }
def F.timeStatusRefStep (p : Part) : Fld := match p with
  | .tsu => { part := .tsu, base := 0x1000, lo := 5, width := 1, acc := .ro }
  | .dbx => { part := .dbx, base := 0x1000, lo := 5, width := 1, acc := .ro }
def F.timeStatusCivilState (p : Part) : Fld := match p with
  | .tsu => { part := .tsu, base := 0x1000, lo := 6, width := 2, acc := .ro }
  | .dbx => { part := .dbx, base := 0x1000, lo := 6, width := 2, acc := .ro }
def F.timeStatusTimePort (p : Part) : Fld := match p with
  | .tsu => { part := .tsu, base := 0x1000, lo := 8, width := 2, acc := .ro }
  | .dbx => { part := .dbx, base := 0x1000, lo := 8, width := 2, acc := .ro }
def F.timeStatusGridValid (p : Part) : Fld := match p with
  | .tsu => { part := .tsu, base := 0x1000, lo := 10, width := 1, acc := .ro }
  | .dbx => { part := .dbx, base := 0x1000, lo := 10, width := 1, acc := .ro }
def F.timeStatusReloadEvt (p : Part) : Fld := match p with
  | .tsu => { part := .tsu, base := 0x1000, lo := 11, width := 1, acc := .rw1c }
  | .dbx => { part := .dbx, base := 0x1000, lo := 11, width := 1, acc := .rw1c }
def F.timeStatusCivilStepEvt (p : Part) : Fld := match p with
  | .tsu => { part := .tsu, base := 0x1000, lo := 12, width := 1, acc := .rw1c }
  | .dbx => { part := .dbx, base := 0x1000, lo := 12, width := 1, acc := .rw1c }

/-! 02_machine_time.md R24-R46: TSU 0x1004, BAR0 0x0_1004: TSU_LFN_LO, DBX_LFN_LO -/
def F.lfnLoLfnLo (p : Part) : Fld := match p with
  | .tsu => { part := .tsu, base := 0x1004, lo := 0, width := 32, acc := .ro }
  | .dbx => { part := .dbx, base := 0x1004, lo := 0, width := 32, acc := .ro }

/-! 02_machine_time.md R24-R46: TSU 0x1008, BAR0 0x0_1008: TSU_LFN_HI, DBX_LFN_HI -/
def F.lfnHiLfnHi (p : Part) : Fld := match p with
  | .tsu => { part := .tsu, base := 0x1008, lo := 0, width := 32, acc := .ro }
  | .dbx => { part := .dbx, base := 0x1008, lo := 0, width := 32, acc := .ro }

/-! 02_machine_time.md R24-R46: TSU 0x100C, BAR0 0x0_100C: TSU_SUB_SNAP, DBX_SUB_SNAP -/
def F.subSnapFrac (p : Part) : Fld := match p with
  | .tsu => { part := .tsu, base := 0x100c, lo := 0, width := 4, acc := .ro }
  | .dbx => { part := .dbx, base := 0x100c, lo := 0, width := 4, acc := .ro }
def F.subSnapSub (p : Part) : Fld := match p with
  | .tsu => { part := .tsu, base := 0x100c, lo := 4, width := 13, acc := .ro }
  | .dbx => { part := .dbx, base := 0x100c, lo := 4, width := 13, acc := .ro }

/-! 02_machine_time.md R24-R46: TSU 0x1010: TSU_FRAME_CFG -/
def F.frameCfgFLog2 : Fld := { part := .tsu, base := 0x1010, lo := 0, width := 5, acc := .ro }

/-! 02_machine_time.md R24-R46: TSU 0x1014, 0x1018: TSU_FRAME_ORIGIN_LO, TSU_FRAME_ORIGIN_HI -/
def F.frameOriginLoOrigin : Fld := { part := .tsu, base := 0x1014, lo := 0, width := 32, acc := .ro }
def F.frameOriginHiOrigin : Fld := { part := .tsu, base := 0x1018, lo := 0, width := 32, acc := .ro }

/-! 02_machine_time.md R24-R46: TSU 0x101C: TSU_OVERRUN_COUNT -/
def F.overrunCountCount : Fld := { part := .tsu, base := 0x101c, lo := 0, width := 32, acc := .rw1c }

/-! 02_machine_time.md R24-R46: BAR0 0x0_1010, 0x0_1014: DBX_CIVIL_INC_LO, DBX_CIVIL_INC_HI -/
def F.civilIncLoInc : Fld := { part := .dbx, base := 0x1010, lo := 0, width := 32, acc := .ro }
def F.civilIncHiInc : Fld := { part := .dbx, base := 0x1014, lo := 0, width := 32, acc := .ro }

/-! 02_machine_time.md R24-R46: TSU 0x3100 + 4n, n = 0–63: TSU_REGION_CFG(n) -/
def F.regionCfgParent : Fld := { part := .tsu, base := 0x3100, lo := 0, width := 6, acc := .rwl, stride := 0x4, count := 64 }
def F.regionCfgFromTsu : Fld := { part := .tsu, base := 0x3100, lo := 6, width := 1, acc := .rwl, stride := 0x4, count := 64 }
def F.regionCfgEnable : Fld := { part := .tsu, base := 0x3100, lo := 7, width := 1, acc := .rwl, stride := 0x4, count := 64 }

/-! 02_machine_time.md R24-R46: TSU 0x3200 + 4n, n = 0–63: TSU_REGION_STAT(n) -/
def F.regionStatRegionValid : Fld := { part := .tsu, base := 0x3200, lo := 0, width := 1, acc := .ro, stride := 0x4, count := 64 }
def F.regionStatFineDelay : Fld := { part := .tsu, base := 0x3200, lo := 1, width := 11, acc := .ro, stride := 0x4, count := 64 }
def F.regionStatWholeCycles : Fld := { part := .tsu, base := 0x3200, lo := 12, width := 4, acc := .ro, stride := 0x4, count := 64 }
def F.regionStatDepth : Fld := { part := .tsu, base := 0x3200, lo := 16, width := 4, acc := .ro, stride := 0x4, count := 64 }
def F.regionStatCountErr : Fld := { part := .tsu, base := 0x3200, lo := 20, width := 1, acc := .rw1c, stride := 0x4, count := 64 }

/-! 03_edge_measurement_and_alignment.md R67: TSU 0x1040, BAR0 0x0_2000: TSU_TDC_CTRL, DBX_TDC_CTRL -/
def F.tdcCtrlPort (p : Part) : Fld := match p with
  | .tsu => { part := .tsu, base := 0x1040, lo := 0, width := 8, acc := .rw }
  | .dbx => { part := .dbx, base := 0x2000, lo := 0, width := 8, acc := .rw }
def F.tdcCtrlMode (p : Part) : Fld := match p with
  | .tsu => { part := .tsu, base := 0x1040, lo := 8, width := 3, acc := .rw }
  | .dbx => { part := .dbx, base := 0x2000, lo := 8, width := 3, acc := .rw }
def F.tdcCtrlNM1 (p : Part) : Fld := match p with
  | .tsu => { part := .tsu, base := 0x1040, lo := 12, width := 16, acc := .rw, reset := 0x0FFF }
  | .dbx => { part := .dbx, base := 0x2000, lo := 12, width := 16, acc := .rw, reset := 0x0FFF }
def F.tdcCtrlStart (p : Part) : Fld := match p with
  | .tsu => { part := .tsu, base := 0x1040, lo := 31, width := 1, acc := .wo }
  | .dbx => { part := .dbx, base := 0x2000, lo := 31, width := 1, acc := .wo }

/-! 03_edge_measurement_and_alignment.md R67: TSU 0x1044, BAR0 0x0_2004: TSU_TDC_TMO, DBX_TDC_TMO -/
def F.tdcTmoTmo (p : Part) : Fld := match p with
  | .tsu => { part := .tsu, base := 0x1044, lo := 0, width := 17, acc := .rw, reset := 0x003FF }
  | .dbx => { part := .dbx, base := 0x2004, lo := 0, width := 17, acc := .rw, reset := 0x003FF }

/-! 03_edge_measurement_and_alignment.md R67: TSU 0x1048, BAR0 0x0_2008: TSU_TDC_STATUS, DBX_TDC_STATUS -/
def F.tdcStatusBusy (p : Part) : Fld := match p with
  | .tsu => { part := .tsu, base := 0x1048, lo := 0, width := 1, acc := .ro }
  | .dbx => { part := .dbx, base := 0x2008, lo := 0, width := 1, acc := .ro }
def F.tdcStatusDone (p : Part) : Fld := match p with
  | .tsu => { part := .tsu, base := 0x1048, lo := 1, width := 1, acc := .rw1c }
  | .dbx => { part := .dbx, base := 0x2008, lo := 1, width := 1, acc := .rw1c }
def F.tdcStatusNoData (p : Part) : Fld := match p with
  | .tsu => { part := .tsu, base := 0x1048, lo := 2, width := 1, acc := .ro }
  | .dbx => { part := .dbx, base := 0x2008, lo := 2, width := 1, acc := .ro }
def F.tdcStatusRefused (p : Part) : Fld := match p with
  | .tsu => { part := .tsu, base := 0x1048, lo := 3, width := 1, acc := .rw1c }
  | .dbx => { part := .dbx, base := 0x2008, lo := 3, width := 1, acc := .rw1c }

/-! 03_edge_measurement_and_alignment.md R67: TSU 0x104C, BAR0 0x0_200C: TSU_TDC_COUNT, DBX_TDC_COUNT -/
def F.tdcCountCount (p : Part) : Fld := match p with
  | .tsu => { part := .tsu, base := 0x104c, lo := 0, width := 17, acc := .ro }
  | .dbx => { part := .dbx, base := 0x200c, lo := 0, width := 17, acc := .ro }

/-! 03_edge_measurement_and_alignment.md R67: TSU 0x1050, BAR0 0x0_2010: TSU_TDC_TIMEOUTS, DBX_TDC_TIMEOUTS -/
def F.tdcTimeoutsTimeouts (p : Part) : Fld := match p with
  | .tsu => { part := .tsu, base := 0x1050, lo := 0, width := 17, acc := .ro }
  | .dbx => { part := .dbx, base := 0x2010, lo := 0, width := 17, acc := .ro }

/-! 03_edge_measurement_and_alignment.md R67: TSU 0x1054, 0x1058, 0x105C, 0x1060; BAR0 0x0_2014, 0x0_2018, 0x0_201C, 0x0_2020: _TDC_MEAN, _TDC_SD, _TDC_MIN, _TDC_MAX -/
def F.tdcMeanValue (p : Part) : Fld := match p with
  | .tsu => { part := .tsu, base := 0x1054, lo := 0, width := 32, acc := .ro }
  | .dbx => { part := .dbx, base := 0x2014, lo := 0, width := 32, acc := .ro }
def F.tdcSdValue (p : Part) : Fld := match p with
  | .tsu => { part := .tsu, base := 0x1058, lo := 0, width := 32, acc := .ro }
  | .dbx => { part := .dbx, base := 0x2018, lo := 0, width := 32, acc := .ro }
def F.tdcMinValue (p : Part) : Fld := match p with
  | .tsu => { part := .tsu, base := 0x105c, lo := 0, width := 32, acc := .ro }
  | .dbx => { part := .dbx, base := 0x201c, lo := 0, width := 32, acc := .ro }
def F.tdcMaxValue (p : Part) : Fld := match p with
  | .tsu => { part := .tsu, base := 0x1060, lo := 0, width := 32, acc := .ro }
  | .dbx => { part := .dbx, base := 0x2020, lo := 0, width := 32, acc := .ro }

/-! 03_edge_measurement_and_alignment.md R67: TSU 0x10C0, BAR0 0x0_2040: TSU_TRACK_CFG, DBX_TRACK_CFG -/
def F.trackCfgTrackN (p : Part) : Fld := match p with
  | .tsu => { part := .tsu, base := 0x10c0, lo := 0, width := 16, acc := .rwl, reset := 0x0FFF }
  | .dbx => { part := .dbx, base := 0x2040, lo := 0, width := 16, acc := .rwl, reset := 0x0FFF }
def F.trackCfgAcqLimit (p : Part) : Fld := match p with
  | .tsu => { part := .tsu, base := 0x10c0, lo := 16, width := 8, acc := .rwl, reset := 0x18 }
  | .dbx => { part := .dbx, base := 0x2040, lo := 16, width := 8, acc := .rwl, reset := 0x18 }
def F.trackCfgSigmaLimit (p : Part) : Fld := match p with
  | .tsu => { part := .tsu, base := 0x10c0, lo := 24, width := 8, acc := .rwl, reset := 0x10 }
  | .dbx => { part := .dbx, base := 0x2040, lo := 24, width := 8, acc := .rwl, reset := 0x10 }

/-! 03_edge_measurement_and_alignment.md R67: TSU 0x1080 + 0x20p (p = 0, 1), BAR0 port + 0x100: TSU_PORT_ASYM(p), DBX_PORT_ASYM(n) -/
def F.portAsymCable (p : Part) : Fld := match p with
  | .tsu => { part := .tsu, base := 0x1080, lo := 0, width := 16, acc := .rw, stride := 0x20, count := 2 }
  | .dbx => { part := .dbx, base := 0x10100, lo := 0, width := 16, acc := .rw, stride := 0x400, count := 132 }
def F.portAsymPkg (p : Part) : Fld := match p with
  | .tsu => { part := .tsu, base := 0x1080, lo := 16, width := 16, acc := .rw, stride := 0x20, count := 2 }
  | .dbx => { part := .dbx, base := 0x10100, lo := 16, width := 16, acc := .ro, stride := 0x400, count := 132 }

/-! 03_edge_measurement_and_alignment.md R67: TSU 0x1084 + 0x20p, BAR0 port + 0x104: TSU_PORT_RTT(p), DBX_PORT_RTT(n) -/
def F.portRttRtt (p : Part) : Fld := match p with
  | .tsu => { part := .tsu, base := 0x1084, lo := 0, width := 32, acc := .ro, stride := 0x20, count := 2 }
  | .dbx => { part := .dbx, base := 0x10104, lo := 0, width := 32, acc := .ro, stride := 0x400, count := 132 }

/-! 03_edge_measurement_and_alignment.md R67: TSU 0x1088 + 0x20p, BAR0 port + 0x108: TSU_PORT_OFFSET(p), DBX_PORT_OFFSET(n) -/
def F.portOffsetTheta (p : Part) : Fld := match p with
  | .tsu => { part := .tsu, base := 0x1088, lo := 0, width := 32, acc := .ro, stride := 0x20, count := 2 }
  | .dbx => { part := .dbx, base := 0x10108, lo := 0, width := 32, acc := .ro, stride := 0x400, count := 132 }

/-! 03_edge_measurement_and_alignment.md R67: TSU 0x108C + 0x20p, BAR0 port + 0x10C: TSU_PORT_TSTAT(p), DBX_PORT_TSTAT(n) -/
def F.portTstatTimePort (p : Part) : Fld := match p with
  | .tsu => { part := .tsu, base := 0x108c, lo := 0, width := 1, acc := .ro, stride := 0x20, count := 2 }
  | .dbx => { part := .dbx, base := 0x1010c, lo := 0, width := 1, acc := .ro, stride := 0x400, count := 132 }
def F.portTstatSetValid (p : Part) : Fld := match p with
  | .tsu => { part := .tsu, base := 0x108c, lo := 1, width := 1, acc := .ro, stride := 0x20, count := 2 }
  | .dbx => { part := .dbx, base := 0x1010c, lo := 1, width := 1, acc := .ro, stride := 0x400, count := 132 }
def F.portTstatAsymMismatch (p : Part) : Fld := match p with
  | .tsu => { part := .tsu, base := 0x108c, lo := 2, width := 1, acc := .ro, stride := 0x20, count := 2 }
  | .dbx => { part := .dbx, base := 0x1010c, lo := 2, width := 1, acc := .ro, stride := 0x400, count := 132 }
def F.portTstatBadCable (p : Part) : Fld := match p with
  | .tsu => { part := .tsu, base := 0x108c, lo := 3, width := 1, acc := .ro, stride := 0x20, count := 2 }
  | .dbx => { part := .dbx, base := 0x1010c, lo := 3, width := 1, acc := .ro, stride := 0x400, count := 132 }
def F.portTstatTdcFault (p : Part) : Fld := match p with
  | .tsu => { part := .tsu, base := 0x108c, lo := 4, width := 1, acc := .ro, stride := 0x20, count := 2 }
  | .dbx => { part := .dbx, base := 0x1010c, lo := 4, width := 1, acc := .ro, stride := 0x400, count := 132 }
def F.portTstatAlignErr (p : Part) : Fld := match p with
  | .tsu => { part := .tsu, base := 0x108c, lo := 5, width := 1, acc := .rw1c, stride := 0x20, count := 2 }
  | .dbx => { part := .dbx, base := 0x1010c, lo := 5, width := 1, acc := .rw1c, stride := 0x400, count := 132 }
def F.portTstatAcqFail (p : Part) : Fld := match p with
  | .tsu => { part := .tsu, base := 0x108c, lo := 6, width := 6, acc := .ro, stride := 0x20, count := 2 }
  | .dbx => { part := .dbx, base := 0x1010c, lo := 6, width := 6, acc := .ro, stride := 0x400, count := 132 }

/-! 03_edge_measurement_and_alignment.md R67: BAR0 port + 0x110: DBX_PORT_CLOSE(n) -/
def F.portCloseClose : Fld := { part := .dbx, base := 0x10110, lo := 0, width := 32, acc := .ro, stride := 0x400, count := 132 }

/-! 03_edge_measurement_and_alignment.md R67: BAR0 0x0_2080: DBX_CLOSE_CTRL -/
def F.closeCtrlRun : Fld := { part := .dbx, base := 0x2080, lo := 0, width := 1, acc := .wo }
def F.closeCtrlPeriodic : Fld := { part := .dbx, base := 0x2080, lo := 1, width := 1, acc := .rw, reset := 1 }

/-! 03_edge_measurement_and_alignment.md R67: BAR0 0x0_2084: DBX_CLOSE_LIMIT -/
def F.closeLimitLimit : Fld := { part := .dbx, base := 0x2084, lo := 0, width := 16, acc := .rw, reset := 0x0040 }

/-! 03_edge_measurement_and_alignment.md R67: BAR0 0x0_2088: DBX_CLOSE_STATUS -/
def F.closeStatusBusy : Fld := { part := .dbx, base := 0x2088, lo := 0, width := 1, acc := .ro }
def F.closeStatusDone : Fld := { part := .dbx, base := 0x2088, lo := 1, width := 1, acc := .rw1c }
def F.closeStatusX0Bad : Fld := { part := .dbx, base := 0x2088, lo := 2, width := 1, acc := .ro }
def F.closeStatusX0Unjudged : Fld := { part := .dbx, base := 0x2088, lo := 3, width := 1, acc := .ro }
def F.closeStatusLoops : Fld := { part := .dbx, base := 0x2088, lo := 4, width := 8, acc := .ro }
def F.closeStatusFlagged : Fld := { part := .dbx, base := 0x2088, lo := 12, width := 8, acc := .ro }

/-! 03_edge_measurement_and_alignment.md R67: BAR0 0x0_208C: DBX_CLOSE_MEDIAN -/
def F.closeMedianMedian : Fld := { part := .dbx, base := 0x208c, lo := 0, width := 32, acc := .ro }

/-! 04_root_reference_and_holdover.md R85: BAR0 0x0_1100: DBX_REF_CTRL -/
def F.refCtrlPref : Fld := { part := .dbx, base := 0x1100, lo := 0, width := 2, acc := .own }
def F.refCtrlPrio0 : Fld := { part := .dbx, base := 0x1100, lo := 2, width := 2, acc := .rwl }
def F.refCtrlPrio1 : Fld := { part := .dbx, base := 0x1100, lo := 4, width := 2, acc := .rwl, reset := 1 }
def F.refCtrlPrio2 : Fld := { part := .dbx, base := 0x1100, lo := 6, width := 2, acc := .rwl, reset := 2 }
def F.refCtrlEn : Fld := { part := .dbx, base := 0x1100, lo := 8, width := 3, acc := .rwl }
def F.refCtrlForceFree : Fld := { part := .dbx, base := 0x1100, lo := 11, width := 1, acc := .rwl }
def F.refCtrlPrefRefused : Fld := { part := .dbx, base := 0x1100, lo := 12, width := 1, acc := .rw1c }

/-! 04_root_reference_and_holdover.md R85: BAR0 0x0_1104: DBX_REF_QLCFG -/
def F.refQlcfgQlMin0 : Fld := { part := .dbx, base := 0x1104, lo := 0, width := 4, acc := .rwl, reset := 0x4 }
def F.refQlcfgQlMin1 : Fld := { part := .dbx, base := 0x1104, lo := 4, width := 4, acc := .rwl, reset := 0x4 }
def F.refQlcfgOcxoQlc : Fld := { part := .dbx, base := 0x1104, lo := 8, width := 4, acc := .rwl, reset := 0x3 }

/-! 04_root_reference_and_holdover.md R85: BAR0 0x0_1110 + 4i, i = 0–2: DBX_REF_STAT(i) -/
def F.refStatState : Fld := { part := .dbx, base := 0x1110, lo := 0, width := 3, acc := .ro, stride := 0x4, count := 3 }
def F.refStatSsm : Fld := { part := .dbx, base := 0x1110, lo := 3, width := 4, acc := .ro, stride := 0x4, count := 3 }
def F.refStatEsmcTmo : Fld := { part := .dbx, base := 0x1110, lo := 7, width := 1, acc := .ro, stride := 0x4, count := 3 }
def F.refStatFreqErr : Fld := { part := .dbx, base := 0x1110, lo := 8, width := 1, acc := .ro, stride := 0x4, count := 3 }
def F.refStatFreqOff : Fld := { part := .dbx, base := 0x1110, lo := 16, width := 16, acc := .ro, stride := 0x4, count := 3 }

/-! 04_root_reference_and_holdover.md R85: BAR0 0x0_1120: DBX_SEL_STATUS -/
def F.selStatusSelState : Fld := { part := .dbx, base := 0x1120, lo := 0, width := 2, acc := .ro }
def F.selStatusSelected : Fld := { part := .dbx, base := 0x1120, lo := 2, width := 2, acc := .ro, reset := 3 }
def F.selStatusTreeQl : Fld := { part := .dbx, base := 0x1120, lo := 4, width := 4, acc := .ro }
def F.selStatusOcxoWarm : Fld := { part := .dbx, base := 0x1120, lo := 8, width := 1, acc := .ro }
def F.selStatusMaster : Fld := { part := .dbx, base := 0x1120, lo := 9, width := 1, acc := .ro }
def F.selStatusStepPending : Fld := { part := .dbx, base := 0x1120, lo := 10, width := 1, acc := .ro }
def F.selStatusSwitchEvt : Fld := { part := .dbx, base := 0x1120, lo := 11, width := 1, acc := .rw1c }
def F.selStatusHoldEvt : Fld := { part := .dbx, base := 0x1120, lo := 12, width := 1, acc := .rw1c }
def F.selStatusWarmEvt : Fld := { part := .dbx, base := 0x1120, lo := 13, width := 1, acc := .rw1c }

/-! 04_root_reference_and_holdover.md R85: BAR0 0x0_1130: DBX_STEP_DELTA -/
def F.stepDeltaDelta : Fld := { part := .dbx, base := 0x1130, lo := 0, width := 32, acc := .ro }

/-! 04_root_reference_and_holdover.md R85: BAR0 0x0_1134, 0x0_1138: DBX_STEP_START_LO, DBX_STEP_START_HI -/
def F.stepStartLoStart : Fld := { part := .dbx, base := 0x1134, lo := 0, width := 32, acc := .ro }
def F.stepStartHiStart : Fld := { part := .dbx, base := 0x1138, lo := 0, width := 32, acc := .ro }

/-! 04_root_reference_and_holdover.md R85: BAR0 0x0_113C: DBX_STEP_INFO -/
def F.stepInfoFrom : Fld := { part := .dbx, base := 0x113c, lo := 0, width := 2, acc := .ro, reset := 3 }
def F.stepInfoTo : Fld := { part := .dbx, base := 0x113c, lo := 2, width := 2, acc := .ro, reset := 3 }
def F.stepInfoCause : Fld := { part := .dbx, base := 0x113c, lo := 4, width := 2, acc := .ro }
def F.stepInfoCount : Fld := { part := .dbx, base := 0x113c, lo := 16, width := 16, acc := .ro }

/-! 04_root_reference_and_holdover.md R85: BAR0 0x0_1200 + 0x20k, k = 0–3 FRAME_OUT[k], k = 4–5 PPS_OUT[k − 4]: DBX_OUT_CFG(k) -/
def F.outCfgMode : Fld := { part := .dbx, base := 0x1200, lo := 0, width := 2, acc := .rw, stride := 0x20, count := 6 }
def F.outCfgSrc : Fld := { part := .dbx, base := 0x1200, lo := 2, width := 1, acc := .rw, stride := 0x20, count := 6 }
def F.outCfgFLog2 : Fld := { part := .dbx, base := 0x1200, lo := 3, width := 5, acc := .rw, stride := 0x20, count := 6, reset := 3 }
def F.outCfgWidth : Fld := { part := .dbx, base := 0x1200, lo := 8, width := 16, acc := .rw, stride := 0x20, count := 6, reset := 1 }
def F.outCfgAnchorStale : Fld := { part := .dbx, base := 0x1200, lo := 31, width := 1, acc := .ro, stride := 0x20, count := 6 }

/-! 04_root_reference_and_holdover.md R85: BAR0 0x0_1204 + 0x20k: DBX_OUT_OFFSET(k) -/
def F.outOffsetOffset : Fld := { part := .dbx, base := 0x1204, lo := 0, width := 32, acc := .rw, stride := 0x20, count := 6 }

/-! 04_root_reference_and_holdover.md R85: BAR0 0x0_1208 + 0x20k, 0x0_120C + 0x20k: DBX_OUT_ARG_LO(k), DBX_OUT_ARG_HI(k) -/
def F.outArgLoArg : Fld := { part := .dbx, base := 0x1208, lo := 0, width := 32, acc := .rw, stride := 0x20, count := 6 }
def F.outArgHiArg : Fld := { part := .dbx, base := 0x120c, lo := 0, width := 32, acc := .rw, stride := 0x20, count := 6 }

/-! 04_root_reference_and_holdover.md R85: BAR0 0x0_12C0: DBX_REF10M_CTRL -/
def F.ref10mCtrlEn : Fld := { part := .dbx, base := 0x12c0, lo := 0, width := 1, acc := .rw }

/-! 05_rhizoid_link.md R117: Port + 0x000: DBX_PORT_CTRL(n), TSU_PORT_CTRL(p) -/
def F.portCtrlEnable (p : Part) : Fld := match p with
  | .tsu => { part := .tsu, base := 0x2000, lo := 0, width := 1, acc := .own, stride := 0x200, count := 2, reset := 1 }
  | .dbx => { part := .dbx, base := 0x10000, lo := 0, width := 1, acc := .own, stride := 0x400, count := 132, reset := 1 }
def F.portCtrlExpected (p : Part) : Fld := match p with
  | .tsu => { part := .tsu, base := 0x2000, lo := 1, width := 1, acc := .rw, stride := 0x200, count := 2 }
  | .dbx => { part := .dbx, base := 0x10000, lo := 1, width := 1, acc := .rw, stride := 0x400, count := 132 }
def F.portCtrlIsolate (p : Part) : Fld := match p with
  | .tsu => { part := .tsu, base := 0x2000, lo := 2, width := 1, acc := .own, stride := 0x200, count := 2 }
  | .dbx => { part := .dbx, base := 0x10000, lo := 2, width := 1, acc := .own, stride := 0x400, count := 132 }
def F.portCtrlLoop (p : Part) : Fld := match p with
  | .tsu => { part := .tsu, base := 0x2000, lo := 3, width := 2, acc := .own, stride := 0x200, count := 2 }
  | .dbx => { part := .dbx, base := 0x10000, lo := 3, width := 2, acc := .own, stride := 0x400, count := 132 }
def F.portCtrlDropL0 (p : Part) : Fld := match p with
  | .tsu => { part := .tsu, base := 0x2000, lo := 5, width := 1, acc := .own, stride := 0x200, count := 2 }
  | .dbx => { part := .dbx, base := 0x10000, lo := 5, width := 1, acc := .own, stride := 0x400, count := 132 }
def F.portCtrlDropL1 (p : Part) : Fld := match p with
  | .tsu => { part := .tsu, base := 0x2000, lo := 6, width := 1, acc := .own, stride := 0x200, count := 2 }
  | .dbx => { part := .dbx, base := 0x10000, lo := 6, width := 1, acc := .own, stride := 0x400, count := 132 }
def F.portCtrlUnpin (p : Part) : Fld := match p with
  | .tsu => { part := .tsu, base := 0x2000, lo := 7, width := 1, acc := .wo, stride := 0x200, count := 2 }
  | .dbx => { part := .dbx, base := 0x10000, lo := 7, width := 1, acc := .wo, stride := 0x400, count := 132 }
def F.portCtrlTxTmpl (p : Part) : Fld := match p with
  | .tsu => { part := .tsu, base := 0x2000, lo := 8, width := 6, acc := .rw, stride := 0x200, count := 2 }
  | .dbx => { part := .dbx, base := 0x10000, lo := 8, width := 6, acc := .rw, stride := 0x400, count := 132 }
def F.portCtrlRxTmpl (p : Part) : Fld := match p with
  | .tsu => { part := .tsu, base := 0x2000, lo := 14, width := 6, acc := .rw, stride := 0x200, count := 2 }
  | .dbx => { part := .dbx, base := 0x10000, lo := 14, width := 6, acc := .rw, stride := 0x400, count := 132 }

/-! 05_rhizoid_link.md R117: Port + 0x004: DBX_PORT_STATE(n), TSU_PORT_STATE(p) -/
def F.portStateState (p : Part) : Fld := match p with
  | .tsu => { part := .tsu, base := 0x2004, lo := 0, width := 3, acc := .ro, stride := 0x200, count := 2 }
  | .dbx => { part := .dbx, base := 0x10004, lo := 0, width := 3, acc := .ro, stride := 0x400, count := 132 }
def F.portStateTxLanes (p : Part) : Fld := match p with
  | .tsu => { part := .tsu, base := 0x2004, lo := 3, width := 2, acc := .ro, stride := 0x200, count := 2 }
  | .dbx => { part := .dbx, base := 0x10004, lo := 3, width := 2, acc := .ro, stride := 0x400, count := 132 }
def F.portStateRxLanes (p : Part) : Fld := match p with
  | .tsu => { part := .tsu, base := 0x2004, lo := 5, width := 2, acc := .ro, stride := 0x200, count := 2 }
  | .dbx => { part := .dbx, base := 0x10004, lo := 5, width := 2, acc := .ro, stride := 0x400, count := 132 }
def F.portStatePinnedL0 (p : Part) : Fld := match p with
  | .tsu => { part := .tsu, base := 0x2004, lo := 7, width := 1, acc := .ro, stride := 0x200, count := 2 }
  | .dbx => { part := .dbx, base := 0x10004, lo := 7, width := 1, acc := .ro, stride := 0x400, count := 132 }
def F.portStatePinnedL1 (p : Part) : Fld := match p with
  | .tsu => { part := .tsu, base := 0x2004, lo := 8, width := 1, acc := .ro, stride := 0x200, count := 2 }
  | .dbx => { part := .dbx, base := 0x10004, lo := 8, width := 1, acc := .ro, stride := 0x400, count := 132 }
def F.portStateRatchets (p : Part) : Fld := match p with
  | .tsu => { part := .tsu, base := 0x2004, lo := 9, width := 2, acc := .ro, stride := 0x200, count := 2 }
  | .dbx => { part := .dbx, base := 0x10004, lo := 9, width := 2, acc := .ro, stride := 0x400, count := 132 }

/-! 05_rhizoid_link.md R117: Port + 0x008, 0x00C, 0x010, 0x014, 0x018, 0x020: _PORT_SLOT_ERR, _PORT_TAG_FAIL, _PORT_NAK_TX, _PORT_REPLAY_TX, _PORT_LOST, _PORT_DROP -/
def F.portSlotErrCount (p : Part) : Fld := match p with
  | .tsu => { part := .tsu, base := 0x2008, lo := 0, width := 32, acc := .rw1c, stride := 0x200, count := 2 }
  | .dbx => { part := .dbx, base := 0x10008, lo := 0, width := 32, acc := .rw1c, stride := 0x400, count := 132 }
def F.portTagFailCount (p : Part) : Fld := match p with
  | .tsu => { part := .tsu, base := 0x200c, lo := 0, width := 32, acc := .rw1c, stride := 0x200, count := 2 }
  | .dbx => { part := .dbx, base := 0x1000c, lo := 0, width := 32, acc := .rw1c, stride := 0x400, count := 132 }
def F.portNakTxCount (p : Part) : Fld := match p with
  | .tsu => { part := .tsu, base := 0x2010, lo := 0, width := 32, acc := .rw1c, stride := 0x200, count := 2 }
  | .dbx => { part := .dbx, base := 0x10010, lo := 0, width := 32, acc := .rw1c, stride := 0x400, count := 132 }
def F.portReplayTxCount (p : Part) : Fld := match p with
  | .tsu => { part := .tsu, base := 0x2014, lo := 0, width := 32, acc := .rw1c, stride := 0x200, count := 2 }
  | .dbx => { part := .dbx, base := 0x10014, lo := 0, width := 32, acc := .rw1c, stride := 0x400, count := 132 }
def F.portLostCount (p : Part) : Fld := match p with
  | .tsu => { part := .tsu, base := 0x2018, lo := 0, width := 32, acc := .rw1c, stride := 0x200, count := 2 }
  | .dbx => { part := .dbx, base := 0x10018, lo := 0, width := 32, acc := .rw1c, stride := 0x400, count := 132 }
def F.portDropCount (p : Part) : Fld := match p with
  | .tsu => { part := .tsu, base := 0x2020, lo := 0, width := 32, acc := .rw1c, stride := 0x200, count := 2 }
  | .dbx => { part := .dbx, base := 0x10020, lo := 0, width := 32, acc := .rw1c, stride := 0x400, count := 132 }

/-! 05_rhizoid_link.md R117: Port + 0x01C: DBX_PORT_FLAP(n), TSU_PORT_FLAP(p) -/
def F.portFlapFlapL0 (p : Part) : Fld := match p with
  | .tsu => { part := .tsu, base := 0x201c, lo := 0, width := 16, acc := .rw1c, stride := 0x200, count := 2 }
  | .dbx => { part := .dbx, base := 0x1001c, lo := 0, width := 16, acc := .rw1c, stride := 0x400, count := 132 }
def F.portFlapFlapL1 (p : Part) : Fld := match p with
  | .tsu => { part := .tsu, base := 0x201c, lo := 16, width := 16, acc := .rw1c, stride := 0x200, count := 2 }
  | .dbx => { part := .dbx, base := 0x1001c, lo := 16, width := 16, acc := .rw1c, stride := 0x400, count := 132 }

/-! 05_rhizoid_link.md R117: Port + 0x024: DBX_PORT_RXPWR(n), TSU_PORT_RXPWR(p) -/
def F.portRxpwrRxL0 (p : Part) : Fld := match p with
  | .tsu => { part := .tsu, base := 0x2024, lo := 0, width := 16, acc := .ro, stride := 0x200, count := 2 }
  | .dbx => { part := .dbx, base := 0x10024, lo := 0, width := 16, acc := .ro, stride := 0x400, count := 132 }
def F.portRxpwrRxL1 (p : Part) : Fld := match p with
  | .tsu => { part := .tsu, base := 0x2024, lo := 16, width := 16, acc := .ro, stride := 0x200, count := 2 }
  | .dbx => { part := .dbx, base := 0x10024, lo := 16, width := 16, acc := .ro, stride := 0x400, count := 132 }

/-! 05_rhizoid_link.md R117: Port + 0x028, 0x02C: _PORT_PEER_LO, _PORT_PEER_HI -/
def F.portPeerLoUid (p : Part) : Fld := match p with
  | .tsu => { part := .tsu, base := 0x2028, lo := 0, width := 32, acc := .ro, stride := 0x200, count := 2 }
  | .dbx => { part := .dbx, base := 0x10028, lo := 0, width := 32, acc := .ro, stride := 0x400, count := 132 }
def F.portPeerHiUid (p : Part) : Fld := match p with
  | .tsu => { part := .tsu, base := 0x202c, lo := 0, width := 32, acc := .ro, stride := 0x200, count := 2 }
  | .dbx => { part := .dbx, base := 0x1002c, lo := 0, width := 32, acc := .ro, stride := 0x400, count := 132 }

/-! 05_rhizoid_link.md R117: Port + 0x030: DBX_PORT_PEER_INFO(n), TSU_PORT_PEER_INFO(p) -/
def F.portPeerInfoInfo (p : Part) : Fld := match p with
  | .tsu => { part := .tsu, base := 0x2030, lo := 0, width := 20, acc := .ro, stride := 0x200, count := 2 }
  | .dbx => { part := .dbx, base := 0x10030, lo := 0, width := 20, acc := .ro, stride := 0x400, count := 132 }

/-! 05_rhizoid_link.md R117: Port + 0x034: DBX_PORT_EVT(n), TSU_PORT_EVT(p) -/
def F.portEvtDark (p : Part) : Fld := match p with
  | .tsu => { part := .tsu, base := 0x2034, lo := 0, width := 1, acc := .rw1c, stride := 0x200, count := 2 }
  | .dbx => { part := .dbx, base := 0x10034, lo := 0, width := 1, acc := .rw1c, stride := 0x400, count := 132 }
def F.portEvtDegraded (p : Part) : Fld := match p with
  | .tsu => { part := .tsu, base := 0x2034, lo := 1, width := 1, acc := .rw1c, stride := 0x200, count := 2 }
  | .dbx => { part := .dbx, base := 0x10034, lo := 1, width := 1, acc := .rw1c, stride := 0x400, count := 132 }
def F.portEvtRestored (p : Part) : Fld := match p with
  | .tsu => { part := .tsu, base := 0x2034, lo := 2, width := 1, acc := .rw1c, stride := 0x200, count := 2 }
  | .dbx => { part := .dbx, base := 0x10034, lo := 2, width := 1, acc := .rw1c, stride := 0x400, count := 132 }
def F.portEvtTrainFail (p : Part) : Fld := match p with
  | .tsu => { part := .tsu, base := 0x2034, lo := 3, width := 1, acc := .rw1c, stride := 0x200, count := 2 }
  | .dbx => { part := .dbx, base := 0x10034, lo := 3, width := 1, acc := .rw1c, stride := 0x400, count := 132 }
def F.portEvtAuthDown (p : Part) : Fld := match p with
  | .tsu => { part := .tsu, base := 0x2034, lo := 4, width := 1, acc := .rw1c, stride := 0x200, count := 2 }
  | .dbx => { part := .dbx, base := 0x10034, lo := 4, width := 1, acc := .rw1c, stride := 0x400, count := 132 }
def F.portEvtRatchet (p : Part) : Fld := match p with
  | .tsu => { part := .tsu, base := 0x2034, lo := 5, width := 1, acc := .rw1c, stride := 0x200, count := 2 }
  | .dbx => { part := .dbx, base := 0x10034, lo := 5, width := 1, acc := .rw1c, stride := 0x400, count := 132 }
def F.portEvtRxpwrWarn (p : Part) : Fld := match p with
  | .tsu => { part := .tsu, base := 0x2034, lo := 6, width := 1, acc := .rw1c, stride := 0x200, count := 2 }
  | .dbx => { part := .dbx, base := 0x10034, lo := 6, width := 1, acc := .rw1c, stride := 0x400, count := 132 }
def F.portEvtRephase (p : Part) : Fld := match p with
  | .tsu => { part := .tsu, base := 0x2034, lo := 7, width := 1, acc := .rw1c, stride := 0x200, count := 2 }
  | .dbx => { part := .dbx, base := 0x10034, lo := 7, width := 1, acc := .rw1c, stride := 0x400, count := 132 }
def F.portEvtIsolateRefused (p : Part) : Fld := match p with
  | .tsu => { part := .tsu, base := 0x2034, lo := 8, width := 1, acc := .rw1c, stride := 0x200, count := 2 }
  | .dbx => { part := .dbx, base := 0x10034, lo := 8, width := 1, acc := .rw1c, stride := 0x400, count := 132 }
def F.portEvtLoopRefused (p : Part) : Fld := match p with
  | .tsu => { part := .tsu, base := 0x2034, lo := 9, width := 1, acc := .rw1c, stride := 0x200, count := 2 }
  | .dbx => { part := .dbx, base := 0x10034, lo := 9, width := 1, acc := .rw1c, stride := 0x400, count := 132 }

/-! 05_rhizoid_link.md R117: BAR0 0x3_F000, TSU 0x2400: DBX_LINK_CFG, TSU_LINK_CFG -/
def F.linkCfgRxpwrWarn (p : Part) : Fld := match p with
  | .tsu => { part := .tsu, base := 0x2400, lo := 0, width := 16, acc := .rw, reset := 0xFBB4 }
  | .dbx => { part := .dbx, base := 0x3f000, lo := 0, width := 16, acc := .rw, reset := 0xFBB4 }
def F.linkCfgFlapPin (p : Part) : Fld := match p with
  | .tsu => { part := .tsu, base := 0x2400, lo := 16, width := 4, acc := .rw, reset := 4 }
  | .dbx => { part := .dbx, base := 0x3f000, lo := 16, width := 4, acc := .rw, reset := 4 }
def F.linkCfgNakMax (p : Part) : Fld := match p with
  | .tsu => { part := .tsu, base := 0x2400, lo := 20, width := 2, acc := .rw, reset := 3 }
  | .dbx => { part := .dbx, base := 0x3f000, lo := 20, width := 2, acc := .rw, reset := 3 }
def F.linkCfgTagLimit (p : Part) : Fld := match p with
  | .tsu => { part := .tsu, base := 0x2400, lo := 22, width := 8, acc := .rw, reset := 0x40 }
  | .dbx => { part := .dbx, base := 0x3f000, lo := 22, width := 8, acc := .rw, reset := 0x40 }

/-! 05_rhizoid_link.md R117: BAR0 0x3_F004, TSU 0x2404: DBX_S7_RATE, TSU_S7_RATE -/
def F.s7RateRate (p : Part) : Fld := match p with
  | .tsu => { part := .tsu, base := 0x2404, lo := 0, width := 8, acc := .rw, reset := 8 }
  | .dbx => { part := .dbx, base := 0x3f004, lo := 0, width := 8, acc := .rw, reset := 8 }

/-! 05_rhizoid_link.md R117: BAR0 0x4_0000 + 0x200t, t = 0–63; TSU 0x2800 + 0x200t, t = 0–3: DBX_SLOT_TMPL(t), TSU_SLOT_TMPL(t) -/
def F.slotTmplEntries (p : Part) : Fld := match p with
  | .tsu => { part := .tsu, base := 0x2800, lo := 0, width := 32, acc := .own, stride := 0x200, count := 4, words := 72 }
  | .dbx => { part := .dbx, base := 0x40000, lo := 0, width := 32, acc := .own, stride := 0x200, count := 64, words := 72 }

/-! 05_rhizoid_link.md R117: BAR0 0x4_8000 + 8s, s = 0–2,047: DBX_SHARE(s) -/
def F.sharePartition : Fld := { part := .dbx, base := 0x48000, lo := 0, width := 16, acc := .own, stride := 0x8, count := 2048 }
def F.shareValid : Fld := { part := .dbx, base := 0x48000, lo := 16, width := 1, acc := .own, stride := 0x8, count := 2048 }

/-! 05_rhizoid_link.md R117: BAR0 0xA_0100 + 0x20k, k = 0–7: DBX_ELS_STAT(k) -/
def F.elsStatPresent : Fld := { part := .dbx, base := 0xa0100, lo := 0, width := 1, acc := .ro, stride := 0x20, count := 8 }
def F.elsStatWarn : Fld := { part := .dbx, base := 0xa0100, lo := 1, width := 1, acc := .ro, stride := 0x20, count := 8 }
def F.elsStatAlarm : Fld := { part := .dbx, base := 0xa0100, lo := 2, width := 1, acc := .ro, stride := 0x20, count := 8 }
def F.elsStatBolSet : Fld := { part := .dbx, base := 0xa0100, lo := 3, width := 1, acc := .ro, stride := 0x20, count := 8 }
def F.elsStatEvt : Fld := { part := .dbx, base := 0xa0100, lo := 4, width := 1, acc := .rw1c, stride := 0x20, count := 8 }

/-! 05_rhizoid_link.md R117: BAR0 0xA_0104 + 0x20k, 0xA_0108 + 0x20k: DBX_ELS_BIAS(k), DBX_ELS_PWR(k) -/
def F.elsBiasCh0 : Fld := { part := .dbx, base := 0xa0104, lo := 0, width := 16, acc := .ro, stride := 0x20, count := 8 }
def F.elsBiasCh1 : Fld := { part := .dbx, base := 0xa0104, lo := 16, width := 16, acc := .ro, stride := 0x20, count := 8 }
def F.elsPwrCh0 : Fld := { part := .dbx, base := 0xa0108, lo := 0, width := 16, acc := .ro, stride := 0x20, count := 8 }
def F.elsPwrCh1 : Fld := { part := .dbx, base := 0xa0108, lo := 16, width := 16, acc := .ro, stride := 0x20, count := 8 }

/-! 05_rhizoid_link.md R117: BAR0 0xA_010C + 0x20k, 0xA_0110 + 0x20k: DBX_ELS_BOL_BIAS(k), DBX_ELS_BOL_PWR(k) -/
def F.elsBolBiasCh0 : Fld := { part := .dbx, base := 0xa010c, lo := 0, width := 16, acc := .rw, stride := 0x20, count := 8 }
def F.elsBolBiasCh1 : Fld := { part := .dbx, base := 0xa010c, lo := 16, width := 16, acc := .rw, stride := 0x20, count := 8 }
def F.elsBolPwrCh0 : Fld := { part := .dbx, base := 0xa0110, lo := 0, width := 16, acc := .rw, stride := 0x20, count := 8 }
def F.elsBolPwrCh1 : Fld := { part := .dbx, base := 0xa0110, lo := 16, width := 16, acc := .rw, stride := 0x20, count := 8 }

/-! 05_rhizoid_link.md R117: BAR0 0xA_0200: DBX_ELS_LIMITS -/
def F.elsLimitsBiasWarn : Fld := { part := .dbx, base := 0xa0200, lo := 0, width := 8, acc := .rw, reset := 20 }
def F.elsLimitsBiasAlarm : Fld := { part := .dbx, base := 0xa0200, lo := 8, width := 8, acc := .rw, reset := 50 }
def F.elsLimitsPwrWarn : Fld := { part := .dbx, base := 0xa0200, lo := 16, width := 8, acc := .rw, reset := 10 }
def F.elsLimitsPwrAlarm : Fld := { part := .dbx, base := 0xa0200, lo := 24, width := 8, acc := .rw, reset := 20 }

/-! 06_croziers_and_launch.md R143: TSU 0x5800: TSU_ARM_CFG -/
def F.armCfgGuard : Fld := { part := .tsu, base := 0x5800, lo := 0, width := 8, acc := .rwl, reset := 0x10 }
def F.armCfgMaxLeadLog2 : Fld := { part := .tsu, base := 0x5800, lo := 8, width := 5, acc := .rwl, reset := 16 }
def F.armCfgClrMargin : Fld := { part := .tsu, base := 0x5800, lo := 31, width := 1, acc := .wo }

/-! 06_croziers_and_launch.md R143: TSU 0x5804: TSU_ARM_STATUS -/
def F.armStatusInUse : Fld := { part := .tsu, base := 0x5804, lo := 0, width := 11, acc := .ro }
def F.armStatusHighWater : Fld := { part := .tsu, base := 0x5804, lo := 16, width := 11, acc := .rw1c }

/-! 06_croziers_and_launch.md R143: TSU 0x5808: TSU_ARM_MARGIN -/
def F.armMarginMinMargin : Fld := { part := .tsu, base := 0x5808, lo := 0, width := 32, acc := .ro, reset := 0xFFFFFFFF }

/-! 06_croziers_and_launch.md R143: TSU 0x5810–0x5834: TSU_CZ_ARMED, _DUP, _DIVERGE, _SINGLE, _LATE_COPY, _MISSED, _CANCELLED, _STALE, _FAULT, _COLLIDE -/
def F.czArmedCount : Fld := { part := .tsu, base := 0x5810, lo := 0, width := 32, acc := .rw1c }
def F.czDupCount : Fld := { part := .tsu, base := 0x5814, lo := 0, width := 32, acc := .rw1c }
def F.czDivergeCount : Fld := { part := .tsu, base := 0x5818, lo := 0, width := 32, acc := .rw1c }
def F.czSingleCount : Fld := { part := .tsu, base := 0x581c, lo := 0, width := 32, acc := .rw1c }
def F.czLateCopyCount : Fld := { part := .tsu, base := 0x5820, lo := 0, width := 32, acc := .rw1c }
def F.czMissedCount : Fld := { part := .tsu, base := 0x5824, lo := 0, width := 32, acc := .rw1c }
def F.czCancelledCount : Fld := { part := .tsu, base := 0x5828, lo := 0, width := 32, acc := .rw1c }
def F.czStaleCount : Fld := { part := .tsu, base := 0x582c, lo := 0, width := 32, acc := .rw1c }
def F.czFaultCount : Fld := { part := .tsu, base := 0x5830, lo := 0, width := 32, acc := .rw1c }
def F.czCollideCount : Fld := { part := .tsu, base := 0x5834, lo := 0, width := 32, acc := .rw1c }

/-! 06_croziers_and_launch.md R143: TSU 0x5840: TSU_MISS_LOG0 -/
def F.missLog0Handle : Fld := { part := .tsu, base := 0x5840, lo := 0, width := 32, acc := .ro }

/-! 06_croziers_and_launch.md R143: TSU 0x5844: TSU_MISS_LOG1 -/
def F.missLog1StepLo : Fld := { part := .tsu, base := 0x5844, lo := 0, width := 32, acc := .ro }

/-! 06_croziers_and_launch.md R143: TSU 0x5848: TSU_MISS_LOG2 -/
def F.missLog2StepHi : Fld := { part := .tsu, base := 0x5848, lo := 0, width := 16, acc := .ro }
def F.missLog2Cause : Fld := { part := .tsu, base := 0x5848, lo := 16, width := 4, acc := .ro }
def F.missLog2Type : Fld := { part := .tsu, base := 0x5848, lo := 20, width := 3, acc := .ro }

/-! 06_croziers_and_launch.md R143: TSU 0x584C: TSU_MISS_LOG3 -/
def F.missLog3FireLfn : Fld := { part := .tsu, base := 0x584c, lo := 0, width := 32, acc := .ro }

/-! 06_croziers_and_launch.md R143: TSU 0x5850, 0x5854: TSU_DIV_LOG0, TSU_DIV_LOG1 -/
def F.divLog0Handle : Fld := { part := .tsu, base := 0x5850, lo := 0, width := 32, acc := .ro }
def F.divLog1StepLo : Fld := { part := .tsu, base := 0x5854, lo := 0, width := 32, acc := .ro }

/-! 06_croziers_and_launch.md R143: TSU 0x5858: TSU_DIV_LOG2 -/
def F.divLog2Byte : Fld := { part := .tsu, base := 0x5858, lo := 0, width := 5, acc := .ro }
def F.divLog2FirstPort : Fld := { part := .tsu, base := 0x5858, lo := 5, width := 1, acc := .ro }

/-! 06_croziers_and_launch.md R143: TSU 0x5900: TSU_ROLE -/
def F.roleRole : Fld := { part := .tsu, base := 0x5900, lo := 0, width := 21, acc := .ro }
def F.roleRoleValid : Fld := { part := .tsu, base := 0x5900, lo := 31, width := 1, acc := .ro }

/-! 06_croziers_and_launch.md R143: TSU 0x5904: TSU_SCOPE_POD -/
def F.scopePodPod : Fld := { part := .tsu, base := 0x5904, lo := 0, width := 14, acc := .ro }

/-! 06_croziers_and_launch.md R143: TSU 0x5908: TSU_SCOPE_PKG_BRD -/
def F.scopePkgBrdPackage : Fld := { part := .tsu, base := 0x5908, lo := 0, width := 16, acc := .ro }
def F.scopePkgBrdBoard : Fld := { part := .tsu, base := 0x5908, lo := 16, width := 16, acc := .ro }

/-! 06_croziers_and_launch.md R143: TSU 0x590C: TSU_SCOPE_CHASSIS -/
def F.scopeChassisChassis : Fld := { part := .tsu, base := 0x590c, lo := 0, width := 16, acc := .ro }
def F.scopeChassisNested : Fld := { part := .tsu, base := 0x590c, lo := 16, width := 1, acc := .ro }

/-! 06_croziers_and_launch.md R143: TSU 0x5A00 + 0x20i + 4w, i = 1–15, w = 0–7: TSU_CORESET(i, w) -/
def F.coresetMask : Fld := { part := .tsu, base := 0x5a20, lo := 0, width := 32, acc := .ro, stride := 0x20, count := 15, words := 8 }

/-! 06_croziers_and_launch.md R143: TSU 0x5980 + 4w, w = 0–7: TSU_PERI_STATE(w) -/
def F.periStateState : Fld := { part := .tsu, base := 0x5980, lo := 0, width := 32, acc := .ro, stride := 0x4, count := 8 }

/-! 06_croziers_and_launch.md R143: TSU 0x5C00 + 4k, k = 0–255: TSU_PERI_CFG(k) -/
def F.periCfgSource : Fld := { part := .tsu, base := 0x5c00, lo := 0, width := 3, acc := .ro, stride := 0x4, count := 256 }
def F.periCfgArg : Fld := { part := .tsu, base := 0x5c00, lo := 4, width := 12, acc := .ro, stride := 0x4, count := 256 }
def F.periCfgForce : Fld := { part := .tsu, base := 0x5c00, lo := 16, width := 1, acc := .rw, stride := 0x4, count := 256 }
def F.periCfgState : Fld := { part := .tsu, base := 0x5c00, lo := 17, width := 1, acc := .ro, stride := 0x4, count := 256 }

/-! 06_croziers_and_launch.md R143: TSU 0x3000: TSU_LVL_CFG -/
def F.lvlCfgLocalEn : Fld := { part := .tsu, base := 0x3000, lo := 0, width := 1, acc := .rwl, reset := 1 }

/-! 06_croziers_and_launch.md R143: TSU 0x3004: TSU_LVL_CAP -/
def F.lvlCapCap : Fld := { part := .tsu, base := 0x3004, lo := 0, width := 4, acc := .ro, reset := 0xF }
def F.lvlCapCapPending : Fld := { part := .tsu, base := 0x3004, lo := 4, width := 1, acc := .ro }

/-! 06_croziers_and_launch.md R143: TSU 0x3010 + 4w, 0x3030 + 4w, w = 0–7: TSU_LVL_CUR(w), TSU_LVL_REQ_SNAP(w) -/
def F.lvlCurLevels : Fld := { part := .tsu, base := 0x3010, lo := 0, width := 32, acc := .ro, stride := 0x4, count := 8 }
def F.lvlReqSnapLevels : Fld := { part := .tsu, base := 0x3030, lo := 0, width := 32, acc := .ro, stride := 0x4, count := 8 }

/-! 06_croziers_and_launch.md R143: TSU 0x3050: TSU_LVL_COMMITS -/
def F.lvlCommitsCount : Fld := { part := .tsu, base := 0x3050, lo := 0, width := 32, acc := .rw1c }

/-! 06_croziers_and_launch.md R143: BAR0 0x5_8000: DBX_CZ_CFG -/
def F.czCfgWindow : Fld := { part := .dbx, base := 0x58000, lo := 0, width := 12, acc := .rwl, reset := 0x200 }

/-! 06_croziers_and_launch.md R143: BAR0 0x5_8010–0x5_8024: DBX_CZ_FWD, _DUP, _DIVERGE, _SINGLE, _EVICT, _FAULT -/
def F.dczFwdCount : Fld := { part := .dbx, base := 0x58010, lo := 0, width := 32, acc := .rw1c }
def F.dczDupCount : Fld := { part := .dbx, base := 0x58014, lo := 0, width := 32, acc := .rw1c }
def F.dczDivergeCount : Fld := { part := .dbx, base := 0x58018, lo := 0, width := 32, acc := .rw1c }
def F.dczSingleCount : Fld := { part := .dbx, base := 0x5801c, lo := 0, width := 32, acc := .rw1c }
def F.dczEvictCount : Fld := { part := .dbx, base := 0x58020, lo := 0, width := 32, acc := .rw1c }
def F.dczFaultCount : Fld := { part := .dbx, base := 0x58024, lo := 0, width := 32, acc := .rw1c }

/-! 06_croziers_and_launch.md R143: BAR0 0x5_8040: DBX_CZ_DIV_LOG0 -/
def F.dczDivLog0Handle : Fld := { part := .dbx, base := 0x58040, lo := 0, width := 32, acc := .ro }

/-! 06_croziers_and_launch.md R143: BAR0 0x5_8044: DBX_CZ_DIV_LOG1 -/
def F.dczDivLog1StepLo : Fld := { part := .dbx, base := 0x58044, lo := 0, width := 32, acc := .ro }

/-! 06_croziers_and_launch.md R143: BAR0 0x5_8048: DBX_CZ_DIV_LOG2 -/
def F.dczDivLog2FirstPort : Fld := { part := .dbx, base := 0x58048, lo := 0, width := 8, acc := .ro }
def F.dczDivLog2SecondPort : Fld := { part := .dbx, base := 0x58048, lo := 8, width := 8, acc := .ro }
def F.dczDivLog2Byte : Fld := { part := .dbx, base := 0x58048, lo := 16, width := 5, acc := .ro }

/-! 06_croziers_and_launch.md R143: BAR0 0x5_8080: DBX_TBL_SEL -/
def F.tblSelIndex : Fld := { part := .dbx, base := 0x58080, lo := 0, width := 16, acc := .rw }
def F.tblSelTable : Fld := { part := .dbx, base := 0x58080, lo := 16, width := 2, acc := .rw }
def F.tblSelWrite : Fld := { part := .dbx, base := 0x58080, lo := 18, width := 1, acc := .wo }
def F.tblSelRefused : Fld := { part := .dbx, base := 0x58080, lo := 19, width := 1, acc := .rw1c }

/-! 06_croziers_and_launch.md R143: BAR0 0x5_8084 + 4w, w = 0–3: DBX_TBL_DATA(w) -/
def F.tblDataData : Fld := { part := .dbx, base := 0x58084, lo := 0, width := 32, acc := .rw, stride := 0x4, count := 4 }

/-! 06_croziers_and_launch.md R143: BAR0 0x5_8100: DBX_PERI_SEL -/
def F.periSelIndex : Fld := { part := .dbx, base := 0x58100, lo := 0, width := 12, acc := .rw }

/-! 06_croziers_and_launch.md R143: BAR0 0x5_8104: DBX_PERI_VIEW -/
def F.periViewState : Fld := { part := .dbx, base := 0x58104, lo := 0, width := 2, acc := .ro }
def F.periViewTsuIndex : Fld := { part := .dbx, base := 0x58104, lo := 2, width := 8, acc := .ro }
def F.periViewOp : Fld := { part := .dbx, base := 0x58104, lo := 10, width := 1, acc := .ro }
def F.periViewHeld : Fld := { part := .dbx, base := 0x58104, lo := 12, width := 20, acc := .ro }

/-! 06_croziers_and_launch.md R143: BAR0 0x5_8108: DBX_PERI_TMO -/
def F.periTmoCount : Fld := { part := .dbx, base := 0x58108, lo := 0, width := 32, acc := .rw1c }

/-! 07_conductor.md R168: BAR0 0x5_0000: DBX_COND_CTRL -/
def F.condCtrlHandback : Fld := { part := .dbx, base := 0x50000, lo := 0, width := 1, acc := .wo }

/-! 07_conductor.md R168: BAR0 0x5_0004: DBX_COND_STATUS -/
def F.condStatusRole : Fld := { part := .dbx, base := 0x50004, lo := 0, width := 2, acc := .ro }
def F.condStatusInStep : Fld := { part := .dbx, base := 0x50004, lo := 2, width := 1, acc := .ro }
def F.condStatusResyncBusy : Fld := { part := .dbx, base := 0x50004, lo := 3, width := 1, acc := .ro }
def F.condStatusTakeoverEvt : Fld := { part := .dbx, base := 0x50004, lo := 4, width := 1, acc := .rw1c }
def F.condStatusMismatchEvt : Fld := { part := .dbx, base := 0x50004, lo := 5, width := 1, acc := .rw1c }
def F.condStatusHandbackRefused : Fld := { part := .dbx, base := 0x50004, lo := 6, width := 1, acc := .rw1c }
def F.condStatusCfgRefused : Fld := { part := .dbx, base := 0x50004, lo := 7, width := 1, acc := .rw1c }

/-! 07_conductor.md R168: BAR0 0x5_0008: DBX_COND_LOAD -/
def F.condLoadWordsLf : Fld := { part := .dbx, base := 0x50008, lo := 0, width := 12, acc := .ro }
def F.condLoadPages : Fld := { part := .dbx, base := 0x50008, lo := 12, width := 14, acc := .ro }

/-! 07_conductor.md R168: BAR0 0x5_0010–0x5_0030: DBX_COND_STEPS, _REPLAYS, _MISMATCH, _DIVERGE, _TAKEOVER, _METER_WAIT, _LATE_DISC, _MISSING, _RING_WAIT -/
def F.condStepsCount : Fld := { part := .dbx, base := 0x50010, lo := 0, width := 32, acc := .rw1c }
def F.condReplaysCount : Fld := { part := .dbx, base := 0x50014, lo := 0, width := 32, acc := .rw1c }
def F.condMismatchCount : Fld := { part := .dbx, base := 0x50018, lo := 0, width := 32, acc := .rw1c }
def F.condDivergeCount : Fld := { part := .dbx, base := 0x5001c, lo := 0, width := 32, acc := .rw1c }
def F.condTakeoverCount : Fld := { part := .dbx, base := 0x50020, lo := 0, width := 32, acc := .rw1c }
def F.condMeterWaitCount : Fld := { part := .dbx, base := 0x50024, lo := 0, width := 32, acc := .rw1c }
def F.condLateDiscCount : Fld := { part := .dbx, base := 0x50028, lo := 0, width := 32, acc := .rw1c }
def F.condMissingCount : Fld := { part := .dbx, base := 0x5002c, lo := 0, width := 32, acc := .rw1c }
def F.condRingWaitCount : Fld := { part := .dbx, base := 0x50030, lo := 0, width := 32, acc := .rw1c }

/-! 07_conductor.md R168: BAR0 0x5_0040: DBX_COND_MISMATCH_LOG -/
def F.condMismatchLogGroup : Fld := { part := .dbx, base := 0x50040, lo := 0, width := 6, acc := .ro }
def F.condMismatchLogReplayed : Fld := { part := .dbx, base := 0x50040, lo := 16, width := 16, acc := .ro }

/-! 07_conductor.md R168: BAR0 0x5_1000 + 0x20s, s = 0–255: DBX_COND_PART(s) -/
def F.condPartPartition : Fld := { part := .dbx, base := 0x51000, lo := 0, width := 16, acc := .rw, stride := 0x20, count := 256 }
def F.condPartValid : Fld := { part := .dbx, base := 0x51000, lo := 16, width := 1, acc := .rw, stride := 0x20, count := 256 }
def F.condPartNested : Fld := { part := .dbx, base := 0x51000, lo := 17, width := 1, acc := .rw, stride := 0x20, count := 256 }
def F.condPartApex : Fld := { part := .dbx, base := 0x51000, lo := 18, width := 1, acc := .rw, stride := 0x20, count := 256 }

/-! 07_conductor.md R168: BAR0 0x5_1004 + 0x20s: DBX_COND_TIMING(s) -/
def F.condTimingLeadLf : Fld := { part := .dbx, base := 0x51004, lo := 0, width := 12, acc := .rw, stride := 0x20, count := 256, reset := 0x187 }
def F.condTimingCommitLf : Fld := { part := .dbx, base := 0x51004, lo := 12, width := 8, acc := .rw, stride := 0x20, count := 256, reset := 0x08 }
def F.condTimingGraceLf : Fld := { part := .dbx, base := 0x51004, lo := 20, width := 8, acc := .rw, stride := 0x20, count := 256, reset := 0x10 }

/-! 07_conductor.md R168: BAR0 0x5_1008 + 0x20s: DBX_COND_SHARE_CH(s) -/
def F.condShareChChannels : Fld := { part := .dbx, base := 0x51008, lo := 0, width := 19, acc := .rw, stride := 0x20, count := 256 }

/-! 07_conductor.md R168: BAR0 0x5_100C + 0x20s: DBX_COND_SHARE_MEM(s) -/
def F.condShareMemPages : Fld := { part := .dbx, base := 0x5100c, lo := 0, width := 14, acc := .rw, stride := 0x20, count := 256 }

/-! 07_conductor.md R168: BAR0 0x5_1010 + 0x20s: DBX_COND_SHARE_PERI(s) -/
def F.condSharePeriBase : Fld := { part := .dbx, base := 0x51010, lo := 0, width := 12, acc := .rw, stride := 0x20, count := 256 }
def F.condSharePeriCount : Fld := { part := .dbx, base := 0x51010, lo := 12, width := 13, acc := .rw, stride := 0x20, count := 256 }

/-! 07_conductor.md R168: BAR0 0x5_1014 + 0x20s: DBX_COND_SHARE_RATE(s) -/
def F.condShareRateWordsLf : Fld := { part := .dbx, base := 0x51014, lo := 0, width := 12, acc := .rw, stride := 0x20, count := 256 }
def F.condShareRateCzPos : Fld := { part := .dbx, base := 0x51014, lo := 12, width := 3, acc := .rw, stride := 0x20, count := 256 }

/-! 07_conductor.md R168: BAR0 0x5_1018 + 0x20s: DBX_COND_PART_STAT(s) -/
def F.condPartStatBound : Fld := { part := .dbx, base := 0x51018, lo := 0, width := 19, acc := .ro, stride := 0x20, count := 256 }
def F.condPartStatDegraded : Fld := { part := .dbx, base := 0x51018, lo := 19, width := 1, acc := .ro, stride := 0x20, count := 256 }
def F.condPartStatSwapActive : Fld := { part := .dbx, base := 0x51018, lo := 20, width := 1, acc := .ro, stride := 0x20, count := 256 }

/-! 07_conductor.md R168: BAR0 0x5_101C + 0x20s: DBX_COND_PART_PAGES(s) -/
def F.condPartPagesPages : Fld := { part := .dbx, base := 0x5101c, lo := 0, width := 14, acc := .ro, stride := 0x20, count := 256 }
def F.condPartPagesPlans : Fld := { part := .dbx, base := 0x5101c, lo := 14, width := 13, acc := .ro, stride := 0x20, count := 256 }

/-! 07_conductor.md R168: BAR0 0x5_3000 + 0x10g, g = 0–1,023: DBX_COND_GRID(g) -/
def F.condGridFLog2 : Fld := { part := .dbx, base := 0x53000, lo := 0, width := 5, acc := .rw, stride := 0x10, count := 1024 }
def F.condGridSlot : Fld := { part := .dbx, base := 0x53000, lo := 5, width := 8, acc := .rw, stride := 0x10, count := 1024 }
def F.condGridValid : Fld := { part := .dbx, base := 0x53000, lo := 13, width := 1, acc := .rw, stride := 0x10, count := 1024 }

/-! 07_conductor.md R168: BAR0 0x5_3004 + 0x10g, 0x5_3008 + 0x10g: DBX_COND_GRID_ORIGIN_LO(g), _HI(g) -/
def F.condGridOriginLoOrigin : Fld := { part := .dbx, base := 0x53004, lo := 0, width := 32, acc := .rw, stride := 0x10, count := 1024 }
def F.condGridOriginHiOrigin : Fld := { part := .dbx, base := 0x53008, lo := 0, width := 32, acc := .rw, stride := 0x10, count := 1024 }

/-! 07_conductor.md R168: BAR0 0x5_7000: DBX_COND_CH_SEL -/
def F.condChSelIndex : Fld := { part := .dbx, base := 0x57000, lo := 0, width := 18, acc := .own }

/-! 07_conductor.md R168: BAR0 0x5_7100 + 4w, w = 0–63: DBX_COND_CH_DATA(w) -/
def F.condChDataData : Fld := { part := .dbx, base := 0x57100, lo := 0, width := 32, acc := .ro, stride := 0x4, count := 64 }

/-! 07_conductor.md R168: BAR0 0x5_7400: DBX_COND_PLAN_SEL -/
def F.condPlanSelPlan : Fld := { part := .dbx, base := 0x57400, lo := 0, width := 12, acc := .rw }

/-! 07_conductor.md R168: BAR0 0x5_7404: DBX_COND_PLAN_INFO0 -/
def F.condPlanInfo0Slot : Fld := { part := .dbx, base := 0x57404, lo := 0, width := 8, acc := .ro }
def F.condPlanInfo0Valid : Fld := { part := .dbx, base := 0x57404, lo := 8, width := 1, acc := .ro }
def F.condPlanInfo0Retiring : Fld := { part := .dbx, base := 0x57404, lo := 9, width := 1, acc := .ro }
def F.condPlanInfo0VariantsM1 : Fld := { part := .dbx, base := 0x57404, lo := 10, width := 8, acc := .ro }

/-! 07_conductor.md R168: BAR0 0x5_7408: DBX_COND_PLAN_INFO1 -/
def F.condPlanInfo1FirstPage : Fld := { part := .dbx, base := 0x57408, lo := 0, width := 13, acc := .ro }
def F.condPlanInfo1Pages : Fld := { part := .dbx, base := 0x57408, lo := 13, width := 14, acc := .ro }

/-! 08_tree_arithmetic.md R194: TSU 0x6000: TSU_RFE_STATUS -/
def F.rfeStatusOpen : Fld := { part := .tsu, base := 0x6000, lo := 0, width := 11, acc := .ro }
def F.rfeStatusHeld : Fld := { part := .tsu, base := 0x6000, lo := 11, width := 17, acc := .ro }

/-! 08_tree_arithmetic.md R194: TSU 0x6010–0x6020: TSU_RFE_SENT, _CONTRIB_ERR, _NO_BUFFER, _DIVERGE, _RELEASED -/
def F.rfeSentCount : Fld := { part := .tsu, base := 0x6010, lo := 0, width := 32, acc := .rw1c }
def F.rfeContribErrCount : Fld := { part := .tsu, base := 0x6014, lo := 0, width := 32, acc := .rw1c }
def F.rfeNoBufferCount : Fld := { part := .tsu, base := 0x6018, lo := 0, width := 32, acc := .rw1c }
def F.rfeDivergeCount : Fld := { part := .tsu, base := 0x601c, lo := 0, width := 32, acc := .rw1c }
def F.rfeReleasedCount : Fld := { part := .tsu, base := 0x6020, lo := 0, width := 32, acc := .rw1c }

/-! 08_tree_arithmetic.md R194: BAR0 0x6_0000: DBX_TAU_CFG -/
def F.tauCfgFlushLf : Fld := { part := .dbx, base := 0x60000, lo := 0, width := 12, acc := .rwl, reset := 0x080 }

/-! 08_tree_arithmetic.md R194: BAR0 0x6_0004: DBX_TAU_STATUS -/
def F.tauStatusOpen : Fld := { part := .dbx, base := 0x60004, lo := 0, width := 11, acc := .ro }
def F.tauStatusSpace : Fld := { part := .dbx, base := 0x60004, lo := 11, width := 15, acc := .ro }

/-! 08_tree_arithmetic.md R194: BAR0 0x6_0010–0x6_0030: DBX_TAU_IN, _OUT, _RESULTS, _INCOMPLETE, _LATE_DISC, _CONTRIB_ERR, _NO_SPACE, _PASSTHROUGH, _DIVERGE -/
def F.tauInCount : Fld := { part := .dbx, base := 0x60010, lo := 0, width := 32, acc := .rw1c }
def F.tauOutCount : Fld := { part := .dbx, base := 0x60014, lo := 0, width := 32, acc := .rw1c }
def F.tauResultsCount : Fld := { part := .dbx, base := 0x60018, lo := 0, width := 32, acc := .rw1c }
def F.tauIncompleteCount : Fld := { part := .dbx, base := 0x6001c, lo := 0, width := 32, acc := .rw1c }
def F.tauLateDiscCount : Fld := { part := .dbx, base := 0x60020, lo := 0, width := 32, acc := .rw1c }
def F.tauContribErrCount : Fld := { part := .dbx, base := 0x60024, lo := 0, width := 32, acc := .rw1c }
def F.tauNoSpaceCount : Fld := { part := .dbx, base := 0x60028, lo := 0, width := 32, acc := .rw1c }
def F.tauPassthroughCount : Fld := { part := .dbx, base := 0x6002c, lo := 0, width := 32, acc := .rw1c }
def F.tauDivergeCount : Fld := { part := .dbx, base := 0x60030, lo := 0, width := 32, acc := .rw1c }

/-! 08_tree_arithmetic.md R194: BAR0 0x6_0100, 0x6_0104: DBX_KCG_TEST_SEED_LO, _HI -/
def F.kcgSeedLoSeed : Fld := { part := .dbx, base := 0x60100, lo := 0, width := 32, acc := .rw }
def F.kcgSeedHiSeed : Fld := { part := .dbx, base := 0x60104, lo := 0, width := 32, acc := .rw }

/-! 08_tree_arithmetic.md R194: BAR0 0x6_0108, 0x6_010C: DBX_KCG_TEST_STEP_LO, _HI -/
def F.kcgStepLoStep : Fld := { part := .dbx, base := 0x60108, lo := 0, width := 32, acc := .rw }
def F.kcgStepHiStep : Fld := { part := .dbx, base := 0x6010c, lo := 0, width := 16, acc := .rw }

/-! 08_tree_arithmetic.md R194: BAR0 0x6_0110: DBX_KCG_TEST_CTRL -/
def F.kcgCtrlDraw : Fld := { part := .dbx, base := 0x60110, lo := 0, width := 16, acc := .rw }
def F.kcgCtrlGo : Fld := { part := .dbx, base := 0x60110, lo := 16, width := 1, acc := .wo }
def F.kcgCtrlDone : Fld := { part := .dbx, base := 0x60110, lo := 17, width := 1, acc := .rw1c }

/-! 08_tree_arithmetic.md R194: BAR0 0x6_0114, 0x6_0118: DBX_KCG_TEST_OUT_LO, _HI -/
def F.kcgOutLoOut : Fld := { part := .dbx, base := 0x60114, lo := 0, width := 32, acc := .ro }
def F.kcgOutHiOut : Fld := { part := .dbx, base := 0x60118, lo := 0, width := 32, acc := .ro }

/-! 09_channels_and_rings.md R220: Ring + 0x00, + 0x04: _RING_SQ_BASE_LO, _RING_SQ_BASE_HI -/
def F.ringSqBaseLoBase (p : Part) : Fld := match p with
  | .tsu => { part := .tsu, base := 0x4000, lo := 12, width := 20, acc := .rw, stride := 0x40, count := 64 }
  | .dbx => { part := .dbx, base := 0x70000, lo := 12, width := 20, acc := .rw, stride := 0x40, count := 256 }
def F.ringSqBaseHiBase (p : Part) : Fld := match p with
  | .tsu => { part := .tsu, base := 0x4004, lo := 0, width := 32, acc := .rw, stride := 0x40, count := 64 }
  | .dbx => { part := .dbx, base := 0x70004, lo := 0, width := 32, acc := .rw, stride := 0x40, count := 256 }

/-! 09_channels_and_rings.md R220: Ring + 0x08, + 0x0C: _RING_CQ_BASE_LO, _RING_CQ_BASE_HI -/
def F.ringCqBaseLoBase (p : Part) : Fld := match p with
  | .tsu => { part := .tsu, base := 0x4008, lo := 12, width := 20, acc := .rw, stride := 0x40, count := 64 }
  | .dbx => { part := .dbx, base := 0x70008, lo := 12, width := 20, acc := .rw, stride := 0x40, count := 256 }
def F.ringCqBaseHiBase (p : Part) : Fld := match p with
  | .tsu => { part := .tsu, base := 0x400c, lo := 0, width := 32, acc := .rw, stride := 0x40, count := 64 }
  | .dbx => { part := .dbx, base := 0x7000c, lo := 0, width := 32, acc := .rw, stride := 0x40, count := 256 }

/-! 09_channels_and_rings.md R220: Ring + 0x10: TSU_RING_CFG(r), DBX_RING_CFG(r) -/
def F.ringCfgEnable (p : Part) : Fld := match p with
  | .tsu => { part := .tsu, base := 0x4010, lo := 0, width := 1, acc := .own, stride := 0x40, count := 64 }
  | .dbx => { part := .dbx, base := 0x70010, lo := 0, width := 1, acc := .own, stride := 0x40, count := 256 }
def F.ringCfgSqLog2 (p : Part) : Fld := match p with
  | .tsu => { part := .tsu, base := 0x4010, lo := 1, width := 5, acc := .rw, stride := 0x40, count := 64, reset := 6 }
  | .dbx => { part := .dbx, base := 0x70010, lo := 1, width := 5, acc := .rw, stride := 0x40, count := 256, reset := 6 }
def F.ringCfgCqLog2 (p : Part) : Fld := match p with
  | .tsu => { part := .tsu, base := 0x4010, lo := 6, width := 5, acc := .rw, stride := 0x40, count := 64, reset := 6 }
  | .dbx => { part := .dbx, base := 0x70010, lo := 6, width := 5, acc := .rw, stride := 0x40, count := 256, reset := 6 }
def F.ringCfgVector (p : Part) : Fld := match p with
  | .tsu => { part := .tsu, base := 0x4010, lo := 11, width := 9, acc := .rw, stride := 0x40, count := 64, idx := true }
  | .dbx => { part := .dbx, base := 0x70010, lo := 11, width := 9, acc := .rw, stride := 0x40, count := 256, idx := true }

/-! 09_channels_and_rings.md R220: Ring + 0x14: TSU_RING_MOD(r), DBX_RING_MOD(r) -/
def F.ringModModCount (p : Part) : Fld := match p with
  | .tsu => { part := .tsu, base := 0x4014, lo := 0, width := 8, acc := .rw, stride := 0x40, count := 64, reset := 1 }
  | .dbx => { part := .dbx, base := 0x70014, lo := 0, width := 8, acc := .rw, stride := 0x40, count := 256, reset := 1 }
def F.ringModModTime (p : Part) : Fld := match p with
  | .tsu => { part := .tsu, base := 0x4014, lo := 8, width := 10, acc := .rw, stride := 0x40, count := 64 }
  | .dbx => { part := .dbx, base := 0x70014, lo := 8, width := 10, acc := .rw, stride := 0x40, count := 256 }

/-! 09_channels_and_rings.md R220: Ring + 0x18: TSU_RING_STATUS(r), DBX_RING_STATUS(r) -/
def F.ringStatusRunning (p : Part) : Fld := match p with
  | .tsu => { part := .tsu, base := 0x4018, lo := 0, width := 1, acc := .ro, stride := 0x40, count := 64 }
  | .dbx => { part := .dbx, base := 0x70018, lo := 0, width := 1, acc := .ro, stride := 0x40, count := 256 }
def F.ringStatusKind (p : Part) : Fld := match p with
  | .tsu => { part := .tsu, base := 0x4018, lo := 1, width := 2, acc := .ro, stride := 0x40, count := 64, resets := [1] }
  | .dbx => { part := .dbx, base := 0x70018, lo := 1, width := 2, acc := .ro, stride := 0x40, count := 256, resets := [1] }
def F.ringStatusErr (p : Part) : Fld := match p with
  | .tsu => { part := .tsu, base := 0x4018, lo := 3, width := 3, acc := .ro, stride := 0x40, count := 64 }
  | .dbx => { part := .dbx, base := 0x70018, lo := 3, width := 3, acc := .ro, stride := 0x40, count := 256 }
def F.ringStatusCfgRefused (p : Part) : Fld := match p with
  | .tsu => { part := .tsu, base := 0x4018, lo := 6, width := 1, acc := .rw1c, stride := 0x40, count := 64 }
  | .dbx => { part := .dbx, base := 0x70018, lo := 6, width := 1, acc := .rw1c, stride := 0x40, count := 256 }

/-! 09_channels_and_rings.md R220: Ring + 0x1C, + 0x20: _RING_SEQ_LO, _RING_SEQ_HI -/
def F.ringSeqLoSeq (p : Part) : Fld := match p with
  | .tsu => { part := .tsu, base := 0x401c, lo := 0, width := 32, acc := .ro, stride := 0x40, count := 64 }
  | .dbx => { part := .dbx, base := 0x7001c, lo := 0, width := 32, acc := .ro, stride := 0x40, count := 256 }
def F.ringSeqHiSeq (p : Part) : Fld := match p with
  | .tsu => { part := .tsu, base := 0x4020, lo := 0, width := 32, acc := .ro, stride := 0x40, count := 64 }
  | .dbx => { part := .dbx, base := 0x70020, lo := 0, width := 32, acc := .ro, stride := 0x40, count := 256 }

/-! 09_channels_and_rings.md R220: Ring + 0x24: TSU_RING_SQ_HEAD(r), DBX_RING_SQ_HEAD(r) -/
def F.ringSqHeadConsumed (p : Part) : Fld := match p with
  | .tsu => { part := .tsu, base := 0x4024, lo := 0, width := 32, acc := .ro, stride := 0x40, count := 64 }
  | .dbx => { part := .dbx, base := 0x70024, lo := 0, width := 32, acc := .ro, stride := 0x40, count := 256 }

/-! 09_channels_and_rings.md R220: Ring + 0x28: TSU_RING_CQ_TAIL(r), DBX_RING_CQ_TAIL(r) -/
def F.ringCqTailWritten (p : Part) : Fld := match p with
  | .tsu => { part := .tsu, base := 0x4028, lo := 0, width := 32, acc := .ro, stride := 0x40, count := 64 }
  | .dbx => { part := .dbx, base := 0x70028, lo := 0, width := 32, acc := .ro, stride := 0x40, count := 256 }

/-! 09_channels_and_rings.md R220: Ring + 0x2C, + 0x30: _RING_BAD_TAG, _RING_CQ_WAIT -/
def F.ringBadTagCount (p : Part) : Fld := match p with
  | .tsu => { part := .tsu, base := 0x402c, lo := 0, width := 32, acc := .rw1c, stride := 0x40, count := 64 }
  | .dbx => { part := .dbx, base := 0x7002c, lo := 0, width := 32, acc := .rw1c, stride := 0x40, count := 256 }
def F.ringCqWaitCount (p : Part) : Fld := match p with
  | .tsu => { part := .tsu, base := 0x4030, lo := 0, width := 32, acc := .rw1c, stride := 0x40, count := 64 }
  | .dbx => { part := .dbx, base := 0x70030, lo := 0, width := 32, acc := .rw1c, stride := 0x40, count := 256 }

/-! 09_channels_and_rings.md R220: Doorbell page + 0x00: sq_tail; + 0x04: cq_head -/
def F.dbSqTailCount (p : Part) : Fld := match p with
  | .tsu => { part := .tsu, base := 0xf000, lo := 0, width := 32, acc := .wo, stride := 0x40, count := 64 }
  | .dbx => { part := .dbx, base := 0xf0000, lo := 0, width := 32, acc := .wo, stride := 0x40, count := 256 }
def F.dbCqHeadCount (p : Part) : Fld := match p with
  | .tsu => { part := .tsu, base := 0xf004, lo := 0, width := 32, acc := .wo, stride := 0x40, count := 64 }
  | .dbx => { part := .dbx, base := 0xf0004, lo := 0, width := 32, acc := .wo, stride := 0x40, count := 256 }

/-! 09_channels_and_rings.md R220: TSU 0x5000, BAR0 0x7_4000: TSU_CH_CFG, DBX_CH_CFG -/
def F.chCfgMaxLife (p : Part) : Fld := match p with
  | .tsu => { part := .tsu, base := 0x5000, lo := 0, width := 16, acc := .rwl, reset := 200 }
  | .dbx => { part := .dbx, base := 0x74000, lo := 0, width := 16, acc := .rwl, reset := 200 }

/-! 09_channels_and_rings.md R220: TSU 0x5004, BAR0 0x7_4004: TSU_CH_COUNT, DBX_CH_COUNT -/
def F.chCountInUse (p : Part) : Fld := match p with
  | .tsu => { part := .tsu, base := 0x5004, lo := 0, width := 19, acc := .ro }
  | .dbx => { part := .dbx, base := 0x74004, lo := 0, width := 19, acc := .ro }

/-! 09_channels_and_rings.md R220: TSU 0x5008, BAR0 0x7_4008: TSU_CH_QUAR, DBX_CH_QUAR -/
def F.chQuarQuarantined (p : Part) : Fld := match p with
  | .tsu => { part := .tsu, base := 0x5008, lo := 0, width := 19, acc := .ro }
  | .dbx => { part := .dbx, base := 0x74008, lo := 0, width := 19, acc := .ro }

/-! 09_channels_and_rings.md R220: TSU 0x5010–0x5018, BAR0 0x7_4010–0x7_4018: _CH_CREATED, _CH_DESTROYED, _DESC_REFUSED -/
def F.chCreatedCount (p : Part) : Fld := match p with
  | .tsu => { part := .tsu, base := 0x5010, lo := 0, width := 32, acc := .rw1c }
  | .dbx => { part := .dbx, base := 0x74010, lo := 0, width := 32, acc := .rw1c }
def F.chDestroyedCount (p : Part) : Fld := match p with
  | .tsu => { part := .tsu, base := 0x5014, lo := 0, width := 32, acc := .rw1c }
  | .dbx => { part := .dbx, base := 0x74014, lo := 0, width := 32, acc := .rw1c }
def F.descRefusedCount (p : Part) : Fld := match p with
  | .tsu => { part := .tsu, base := 0x5018, lo := 0, width := 32, acc := .rw1c }
  | .dbx => { part := .dbx, base := 0x74018, lo := 0, width := 32, acc := .rw1c }

/-! 09_channels_and_rings.md R220: TSU 0x501C: TSU_CH_CACHE_MISS -/
def F.chCacheMissCount : Fld := { part := .tsu, base := 0x501c, lo := 0, width := 32, acc := .rw1c }

/-! 10_digests_and_weights.md R237: TSU 0x7000: TSU_DIG_CFG -/
def F.digCfgEnable : Fld := { part := .tsu, base := 0x7000, lo := 0, width := 1, acc := .rwl, reset := 1 }
def F.digCfgFreeze : Fld := { part := .tsu, base := 0x7000, lo := 1, width := 1, acc := .rw }

/-! 10_digests_and_weights.md R237: TSU 0x7004: TSU_DIG_STATUS -/
def F.digStatusSteps : Fld := { part := .tsu, base := 0x7004, lo := 0, width := 13, acc := .ro }
def F.digStatusLayers : Fld := { part := .tsu, base := 0x7004, lo := 13, width := 17, acc := .ro }

/-! 10_digests_and_weights.md R237: TSU 0x7010–0x701C: TSU_DIG_SENT, _DISCARDED, _LATE_WRITE, _LOST -/
def F.digSentCount : Fld := { part := .tsu, base := 0x7010, lo := 0, width := 32, acc := .rw1c }
def F.digDiscardedCount : Fld := { part := .tsu, base := 0x7014, lo := 0, width := 32, acc := .rw1c }
def F.digLateWriteCount : Fld := { part := .tsu, base := 0x7018, lo := 0, width := 32, acc := .rw1c }
def F.digLostCount : Fld := { part := .tsu, base := 0x701c, lo := 0, width := 32, acc := .rw1c }

/-! 10_digests_and_weights.md R237: TSU 0x7040: TSU_WG_STATUS -/
def F.wgStatusManifests : Fld := { part := .tsu, base := 0x7040, lo := 0, width := 2, acc := .ro }
def F.wgStatusEntries : Fld := { part := .tsu, base := 0x7040, lo := 2, width := 15, acc := .ro }
def F.wgStatusOpen : Fld := { part := .tsu, base := 0x7040, lo := 17, width := 9, acc := .ro }
def F.wgStatusInValid : Fld := { part := .tsu, base := 0x7040, lo := 26, width := 1, acc := .ro }
def F.wgStatusSwapIn : Fld := { part := .tsu, base := 0x7040, lo := 27, width := 1, acc := .ro }

/-! 10_digests_and_weights.md R237: TSU 0x7044, 0x7048: TSU_WG_EPOCH_CUR, TSU_WG_EPOCH_IN -/
def F.wgEpochCurEpoch : Fld := { part := .tsu, base := 0x7044, lo := 0, width := 32, acc := .ro }
def F.wgEpochInEpoch : Fld := { part := .tsu, base := 0x7048, lo := 0, width := 32, acc := .ro }

/-! 10_digests_and_weights.md R237: TSU 0x704C: TSU_WG_BITMAP -/
def F.wgBitmapBlocks : Fld := { part := .tsu, base := 0x704c, lo := 0, width := 22, acc := .ro }

/-! 10_digests_and_weights.md R237: TSU 0x7050–0x7060: TSU_WG_VERIFIED, _BAD, _MISSING, _UNLISTED, _UNOPENED -/
def F.wgVerifiedCount : Fld := { part := .tsu, base := 0x7050, lo := 0, width := 32, acc := .rw1c }
def F.wgBadCount : Fld := { part := .tsu, base := 0x7054, lo := 0, width := 32, acc := .rw1c }
def F.wgMissingCount : Fld := { part := .tsu, base := 0x7058, lo := 0, width := 32, acc := .rw1c }
def F.wgUnlistedCount : Fld := { part := .tsu, base := 0x705c, lo := 0, width := 32, acc := .rw1c }
def F.wgUnopenedCount : Fld := { part := .tsu, base := 0x7060, lo := 0, width := 32, acc := .rw1c }

/-! 10_digests_and_weights.md R237: TSU 0x7070: TSU_WG_LAST0 -/
def F.wgLast0Shard : Fld := { part := .tsu, base := 0x7070, lo := 0, width := 16, acc := .ro }
def F.wgLast0Layer : Fld := { part := .tsu, base := 0x7070, lo := 16, width := 10, acc := .ro }
def F.wgLast0Cause : Fld := { part := .tsu, base := 0x7070, lo := 26, width := 4, acc := .ro }

/-! 10_digests_and_weights.md R237: TSU 0x7074: TSU_WG_LAST1 -/
def F.wgLast1Epoch : Fld := { part := .tsu, base := 0x7074, lo := 0, width := 32, acc := .ro }

/-! 10_digests_and_weights.md R237: TSU 0x7100 + 4w, w = 0–31: TSU_WG_READY(w) -/
def F.wgReadyReady : Fld := { part := .tsu, base := 0x7100, lo := 0, width := 32, acc := .ro, stride := 0x4, count := 32 }

/-! 10_digests_and_weights.md R237: BAR0 0x6_0200: DBX_SOR_CFG -/
def F.sorCfgFreeze : Fld := { part := .dbx, base := 0x60200, lo := 0, width := 1, acc := .rw }

/-! 10_digests_and_weights.md R237: BAR0 0x6_0204: DBX_SOR_STATUS -/
def F.sorStatusRecords : Fld := { part := .dbx, base := 0x60204, lo := 0, width := 17, acc := .ro }
def F.sorStatusOpen : Fld := { part := .dbx, base := 0x60204, lo := 17, width := 13, acc := .ro }

/-! 10_digests_and_weights.md R237: BAR0 0x6_0210–0x6_0220: DBX_SOR_IN, _OUT, _LATE_DISC, _PASSTHROUGH, _LOST -/
def F.sorInCount : Fld := { part := .dbx, base := 0x60210, lo := 0, width := 32, acc := .rw1c }
def F.sorOutCount : Fld := { part := .dbx, base := 0x60214, lo := 0, width := 32, acc := .rw1c }
def F.sorLateDiscCount : Fld := { part := .dbx, base := 0x60218, lo := 0, width := 32, acc := .rw1c }
def F.sorPassthroughCount : Fld := { part := .dbx, base := 0x6021c, lo := 0, width := 32, acc := .rw1c }
def F.sorLostCount : Fld := { part := .dbx, base := 0x60220, lo := 0, width := 32, acc := .rw1c }

/-! 11_hangs_resets_aborts.md R260: TSU 0x8000: TSU_FLT_CFG -/
def F.fltCfgHangAge : Fld := { part := .tsu, base := 0x8000, lo := 0, width := 8, acc := .rw, reset := 0x10 }
def F.fltCfgKillTmo : Fld := { part := .tsu, base := 0x8000, lo := 8, width := 8, acc := .rw, reset := 0x0F }
def F.fltCfgEscCount : Fld := { part := .tsu, base := 0x8000, lo := 16, width := 4, acc := .rw, reset := 4 }
def F.fltCfgEscWindow : Fld := { part := .tsu, base := 0x8000, lo := 20, width := 12, acc := .rw, reset := 0x384 }

/-! 11_hangs_resets_aborts.md R260: TSU 0x8004: TSU_FLT_CFG2 -/
def F.fltCfg2XferGuard : Fld := { part := .tsu, base := 0x8004, lo := 0, width := 8, acc := .rw, reset := 0x02 }

/-! 11_hangs_resets_aborts.md R260: TSU 0x8008: TSU_FLT_CTRL -/
def F.fltCtrlCmpReset : Fld := { part := .tsu, base := 0x8008, lo := 0, width := 1, acc := .wo }

/-! 11_hangs_resets_aborts.md R260: TSU 0x800C: TSU_FLT_STATUS -/
def F.fltStatusCmpState : Fld := { part := .tsu, base := 0x800c, lo := 0, width := 2, acc := .ro }
def F.fltStatusOosReq : Fld := { part := .tsu, base := 0x800c, lo := 2, width := 1, acc := .ro }
def F.fltStatusEscSeen : Fld := { part := .tsu, base := 0x800c, lo := 3, width := 4, acc := .ro }
def F.fltStatusNodes : Fld := { part := .tsu, base := 0x800c, lo := 7, width := 13, acc := .ro }

/-! 11_hangs_resets_aborts.md R260: TSU 0x8010–0x8030: TSU_FLT_KILL, _KILL_TMO, _CMP_RESET, _LOCAL_HANG, _WAIT_LATE, _SUSPECT, _TRANSIENT, _FIRED_AFTER, _WAIT_FULL -/
def F.fltKillCount : Fld := { part := .tsu, base := 0x8010, lo := 0, width := 32, acc := .rw1c }
def F.fltKillTmoCount : Fld := { part := .tsu, base := 0x8014, lo := 0, width := 32, acc := .rw1c }
def F.fltCmpResetCount : Fld := { part := .tsu, base := 0x8018, lo := 0, width := 32, acc := .rw1c }
def F.fltLocalHangCount : Fld := { part := .tsu, base := 0x801c, lo := 0, width := 32, acc := .rw1c }
def F.fltWaitLateCount : Fld := { part := .tsu, base := 0x8020, lo := 0, width := 32, acc := .rw1c }
def F.fltSuspectCount : Fld := { part := .tsu, base := 0x8024, lo := 0, width := 32, acc := .rw1c }
def F.fltTransientCount : Fld := { part := .tsu, base := 0x8028, lo := 0, width := 32, acc := .rw1c }
def F.fltFiredAfterCount : Fld := { part := .tsu, base := 0x802c, lo := 0, width := 32, acc := .rw1c }
def F.fltWaitFullCount : Fld := { part := .tsu, base := 0x8030, lo := 0, width := 32, acc := .rw1c }

/-! 11_hangs_resets_aborts.md R260: TSU 0x8040: TSU_FLT_LOG0 -/
def F.fltLog0Handle : Fld := { part := .tsu, base := 0x8040, lo := 0, width := 32, acc := .ro }

/-! 11_hangs_resets_aborts.md R260: TSU 0x8044: TSU_FLT_LOG1 -/
def F.fltLog1StepLo : Fld := { part := .tsu, base := 0x8044, lo := 0, width := 32, acc := .ro }

/-! 11_hangs_resets_aborts.md R260: TSU 0x8048: TSU_FLT_LOG2 -/
def F.fltLog2StepHi : Fld := { part := .tsu, base := 0x8048, lo := 0, width := 16, acc := .ro }
def F.fltLog2Code : Fld := { part := .tsu, base := 0x8048, lo := 16, width := 12, acc := .ro }
def F.fltLog2IsAbort : Fld := { part := .tsu, base := 0x8048, lo := 28, width := 1, acc := .ro }

/-! 11_hangs_resets_aborts.md R260: TSU 0x804C: TSU_FLT_LOG3 -/
def F.fltLog3Lfn : Fld := { part := .tsu, base := 0x804c, lo := 0, width := 32, acc := .ro }

/-! 11_hangs_resets_aborts.md R260: BAR0 0x8_0000: DBX_FLT_CFG -/
def F.dfltCfgHangEn : Fld := { part := .dbx, base := 0x80000, lo := 0, width := 1, acc := .rw, reset := 1 }
def F.dfltCfgSuspectEn : Fld := { part := .dbx, base := 0x80000, lo := 1, width := 1, acc := .rw, reset := 1 }

/-! 11_hangs_resets_aborts.md R260: BAR0 0x8_0010–0x8_0030: DBX_FLT_ABORTS, _ABORT_LATE, _HANG, _SLOW, _ISOLATE, _NAMED, _TRANSIENT, _UNRESOLVED, _RESTORE_TMO -/
def F.dfltAbortsCount : Fld := { part := .dbx, base := 0x80010, lo := 0, width := 32, acc := .rw1c }
def F.dfltAbortLateCount : Fld := { part := .dbx, base := 0x80014, lo := 0, width := 32, acc := .rw1c }
def F.dfltHangCount : Fld := { part := .dbx, base := 0x80018, lo := 0, width := 32, acc := .rw1c }
def F.dfltSlowCount : Fld := { part := .dbx, base := 0x8001c, lo := 0, width := 32, acc := .rw1c }
def F.dfltIsolateCount : Fld := { part := .dbx, base := 0x80020, lo := 0, width := 32, acc := .rw1c }
def F.dfltNamedCount : Fld := { part := .dbx, base := 0x80024, lo := 0, width := 32, acc := .rw1c }
def F.dfltTransientCount : Fld := { part := .dbx, base := 0x80028, lo := 0, width := 32, acc := .rw1c }
def F.dfltUnresolvedCount : Fld := { part := .dbx, base := 0x8002c, lo := 0, width := 32, acc := .rw1c }
def F.dfltRestoreTmoCount : Fld := { part := .dbx, base := 0x80030, lo := 0, width := 32, acc := .rw1c }

/-! 11_hangs_resets_aborts.md R260: BAR0 0x8_0040: DBX_FLT_LOG0 -/
def F.dfltLog0Handle : Fld := { part := .dbx, base := 0x80040, lo := 0, width := 32, acc := .ro }

/-! 11_hangs_resets_aborts.md R260: BAR0 0x8_0044: DBX_FLT_LOG1 -/
def F.dfltLog1StepLo : Fld := { part := .dbx, base := 0x80044, lo := 0, width := 32, acc := .ro }

/-! 11_hangs_resets_aborts.md R260: BAR0 0x8_0048: DBX_FLT_LOG2 -/
def F.dfltLog2Status : Fld := { part := .dbx, base := 0x80048, lo := 0, width := 16, acc := .ro }
def F.dfltLog2Outcome : Fld := { part := .dbx, base := 0x80048, lo := 16, width := 3, acc := .ro }

/-! 11_hangs_resets_aborts.md R260: BAR0 0x8_004C: DBX_FLT_LOG3 -/
def F.dfltLog3Shortfall : Fld := { part := .dbx, base := 0x8004c, lo := 0, width := 22, acc := .ro }

/-! 11_hangs_resets_aborts.md R260: BAR0 0x8_1000 + 4s, s = 0–255: DBX_FLT_POLICY(s) -/
def F.fltPolicyMode : Fld := { part := .dbx, base := 0x81000, lo := 0, width := 2, acc := .rw, stride := 0x4, count := 256, reset := 1 }
def F.fltPolicyRestoreMs : Fld := { part := .dbx, base := 0x81000, lo := 2, width := 12, acc := .rw, stride := 0x4, count := 256, reset := 0x3E8 }

/-! 12_spares_health_service.md R283: TSU 0x8100: TSU_HEALTH -/
def F.thealthScore : Fld := { part := .tsu, base := 0x8100, lo := 0, width := 10, acc := .ro, reset := 0x3FF }
def F.thealthExpelReq : Fld := { part := .tsu, base := 0x8100, lo := 10, width := 1, acc := .ro }
def F.thealthExpelGranted : Fld := { part := .tsu, base := 0x8100, lo := 11, width := 1, acc := .ro }
def F.thealthRetained : Fld := { part := .tsu, base := 0x8100, lo := 12, width := 1, acc := .ro }
def F.thealthRolePending : Fld := { part := .tsu, base := 0x8100, lo := 13, width := 1, acc := .ro }

/-! 12_spares_health_service.md R283: TSU 0x8104: TSU_HEALTH_CFG -/
def F.thealthCfgExpelScore : Fld := { part := .tsu, base := 0x8104, lo := 0, width := 10, acc := .ro, reset := 0x100 }

/-! 12_spares_health_service.md R283: BAR0 0x8_0200: DBX_HEALTH -/
def F.dhealthScore : Fld := { part := .dbx, base := 0x80200, lo := 0, width := 10, acc := .ro, reset := 0x3FF }
def F.dhealthSramFail : Fld := { part := .dbx, base := 0x80200, lo := 10, width := 1, acc := .ro }
def F.dhealthLogHalf : Fld := { part := .dbx, base := 0x80200, lo := 11, width := 1, acc := .ro }

/-! 12_spares_health_service.md R283: BAR0 0x8_0204: DBX_EXPEL_CFG -/
def F.expelCfgPodLimit : Fld := { part := .dbx, base := 0x80204, lo := 0, width := 8, acc := .ro, reset := 2 }
def F.expelCfgPartLimit : Fld := { part := .dbx, base := 0x80204, lo := 8, width := 8, acc := .ro, reset := 64 }
def F.expelCfgWindowS : Fld := { part := .dbx, base := 0x80204, lo := 16, width := 12, acc := .ro, reset := 0xE10 }

/-! 12_spares_health_service.md R283: BAR0 0x8_0210–0x8_0218: DBX_EXPEL_GRANT, _RETAIN, _RETAIN_FULL -/
def F.expelGrantCount : Fld := { part := .dbx, base := 0x80210, lo := 0, width := 32, acc := .rw1c }
def F.expelRetainCount : Fld := { part := .dbx, base := 0x80214, lo := 0, width := 32, acc := .rw1c }
def F.expelRetainFullCount : Fld := { part := .dbx, base := 0x80218, lo := 0, width := 32, acc := .rw1c }

/-! 12_spares_health_service.md R283: BAR0 0x8_021C: DBX_STATE_LOST -/
def F.stateLostCount : Fld := { part := .dbx, base := 0x8021c, lo := 0, width := 32, acc := .rw1c }

/-! 12_spares_health_service.md R283: BAR0 0x8_0300 + 0x20i, i = 0–63: DBX_INSERT(i) -/
def F.insertRole : Fld := { part := .dbx, base := 0x80300, lo := 0, width := 21, acc := .ro, stride := 0x20, count := 64 }
def F.insertState : Fld := { part := .dbx, base := 0x80300, lo := 21, width := 2, acc := .ro, stride := 0x20, count := 64 }
def F.insertSlot : Fld := { part := .dbx, base := 0x80300, lo := 23, width := 8, acc := .ro, stride := 0x20, count := 64 }

/-! 12_spares_health_service.md R283: BAR0 0x8_0304 + 0x20i: DBX_INSERT_PARTNER(i) -/
def F.insertPartnerPartner : Fld := { part := .dbx, base := 0x80304, lo := 0, width := 21, acc := .ro, stride := 0x20, count := 64 }

/-! 12_spares_health_service.md R283: BAR0 0x8_0308, 0x8_030C, 0x8_0310, 0x8_0314 + 0x20i: DBX_INSERT_UID(i, w) -/
def F.insertUidUid : Fld := { part := .dbx, base := 0x80308, lo := 0, width := 32, acc := .ro, stride := 0x20, count := 64, words := 4 }

/-! 12_spares_health_service.md R283: BAR0 0x8_0318 + 0x20i: DBX_INSERT_DEADLINE(i) -/
def F.insertDeadlineLfn : Fld := { part := .dbx, base := 0x80318, lo := 0, width := 32, acc := .ro, stride := 0x20, count := 64 }

/-! 12_spares_health_service.md R283: BAR0 0x8_0C00 + 4i, i = 0–63: DBX_RETAINED(i) -/
def F.retainedRole : Fld := { part := .dbx, base := 0x80c00, lo := 0, width := 21, acc := .ro, stride := 0x4, count := 64 }
def F.retainedSlot : Fld := { part := .dbx, base := 0x80c00, lo := 21, width := 8, acc := .ro, stride := 0x4, count := 64 }
def F.retainedValid : Fld := { part := .dbx, base := 0x80c00, lo := 31, width := 1, acc := .ro, stride := 0x4, count := 64 }

/-! 12_spares_health_service.md R283: Port + 0x118: DBX_PORT_HEALTH(n) -/
def F.portHealthScore : Fld := { part := .dbx, base := 0x10118, lo := 0, width := 10, acc := .ro, stride := 0x400, count := 132, reset := 0x3FF }
def F.portHealthFlags : Fld := { part := .dbx, base := 0x10118, lo := 10, width := 6, acc := .ro, stride := 0x400, count := 132 }

/-! 12_spares_health_service.md R283: Port 131 + 0x038: DBX_X1_CFG -/
def F.x1CfgAsX0 : Fld := { part := .dbx, base := 0x30c38, lo := 0, width := 1, acc := .rw }
def F.x1CfgActive : Fld := { part := .dbx, base := 0x30c38, lo := 1, width := 1, acc := .ro }
def F.x1CfgX1Refused : Fld := { part := .dbx, base := 0x30c38, lo := 2, width := 1, acc := .rw1c }

/-! 12_spares_health_service.md R283: Port 131 + 0x03C, + 0x040: DBX_X1_SWITCH_LO, _HI -/
def F.x1SwitchLoLfn : Fld := { part := .dbx, base := 0x30c3c, lo := 0, width := 32, acc := .rw }
def F.x1SwitchHiLfn : Fld := { part := .dbx, base := 0x30c40, lo := 0, width := 32, acc := .rw }

/-! 12_spares_health_service.md R283: BAR0 0xA_0204: DBX_ELS_CTRL -/
def F.elsCtrlEn : Fld := { part := .dbx, base := 0xa0204, lo := 0, width := 8, acc := .own }

/-! 12_spares_health_service.md R283: BAR0 0xA_0300: DBX_SRAM_TEST -/
def F.sramTestBank : Fld := { part := .dbx, base := 0xa0300, lo := 0, width := 10, acc := .ro }
def F.sramTestSparesUsed : Fld := { part := .dbx, base := 0xa0300, lo := 10, width := 4, acc := .ro }
def F.sramTestFail : Fld := { part := .dbx, base := 0xa0300, lo := 14, width := 1, acc := .ro }
def F.sramTestEvt : Fld := { part := .dbx, base := 0xa0300, lo := 15, width := 1, acc := .rw1c }

/-! 13_trust_and_tenancy.md R302: TSU 0x9000: TSU_MB_REQ -/
def F.mbReqLen : Fld := { part := .tsu, base := 0x9000, lo := 0, width := 11, acc := .ro }
def F.mbReqFirst : Fld := { part := .tsu, base := 0x9000, lo := 11, width := 1, acc := .ro }
def F.mbReqLast : Fld := { part := .tsu, base := 0x9000, lo := 12, width := 1, acc := .ro }
def F.mbReqKind : Fld := { part := .tsu, base := 0x9000, lo := 13, width := 3, acc := .ro }
def F.mbReqRing : Fld := { part := .tsu, base := 0x9000, lo := 16, width := 8, acc := .ro }
def F.mbReqValid : Fld := { part := .tsu, base := 0x9000, lo := 31, width := 1, acc := .rw1c }

/-! 13_trust_and_tenancy.md R302: TSU 0x9004: TSU_MB_RSP -/
def F.mbRspLen : Fld := { part := .tsu, base := 0x9004, lo := 0, width := 11, acc := .rot }
def F.mbRspFirst : Fld := { part := .tsu, base := 0x9004, lo := 11, width := 1, acc := .rot }
def F.mbRspLast : Fld := { part := .tsu, base := 0x9004, lo := 12, width := 1, acc := .rot }
def F.mbRspKind : Fld := { part := .tsu, base := 0x9004, lo := 13, width := 3, acc := .rot }
def F.mbRspRing : Fld := { part := .tsu, base := 0x9004, lo := 16, width := 8, acc := .rot }
def F.mbRspVerdict : Fld := { part := .tsu, base := 0x9004, lo := 24, width := 1, acc := .rot }
def F.mbRspGo : Fld := { part := .tsu, base := 0x9004, lo := 31, width := 1, acc := .wo }

/-! 13_trust_and_tenancy.md R302: TSU 0x9008, 0x900C: TSU_MB_REQ_TAG, TSU_MB_RSP_TAG -/
def F.mbReqTagTag : Fld := { part := .tsu, base := 0x9008, lo := 0, width := 32, acc := .ro }
def F.mbRspTagTag : Fld := { part := .tsu, base := 0x900c, lo := 0, width := 32, acc := .rot }

/-! 13_trust_and_tenancy.md R302: TSU 0x9010: TSU_KEY_SEL -/
def F.keySelTarget : Fld := { part := .tsu, base := 0x9010, lo := 0, width := 3, acc := .rot }
def F.keySelNext : Fld := { part := .tsu, base := 0x9010, lo := 3, width := 1, acc := .rot }
def F.keySelRing : Fld := { part := .tsu, base := 0x9010, lo := 4, width := 6, acc := .rot }
def F.keySelInstall : Fld := { part := .tsu, base := 0x9010, lo := 31, width := 1, acc := .wo }

/-! 13_trust_and_tenancy.md R302: TSU 0x9014 + 4w, w = 0–7: TSU_KEY_DATA(w) -/
def F.keyDataKey : Fld := { part := .tsu, base := 0x9014, lo := 0, width := 32, acc := .wo, stride := 0x4, count := 8 }

/-! 13_trust_and_tenancy.md R302: TSU 0x9040: TSU_SEC_STATUS -/
def F.tsecStatusScrub : Fld := { part := .tsu, base := 0x9040, lo := 0, width := 1, acc := .ro }
def F.tsecStatusTenant : Fld := { part := .tsu, base := 0x9040, lo := 1, width := 1, acc := .ro }

/-! 13_trust_and_tenancy.md R302: TSU 0x9044: TSU_SEC_CERT_FAIL -/
def F.tsecCertFailCount : Fld := { part := .tsu, base := 0x9044, lo := 0, width := 32, acc := .rw1c }

/-! 13_trust_and_tenancy.md R302: BAR0 0x9_0000: DBX_SEC_STATUS -/
def F.dsecStatusState : Fld := { part := .dbx, base := 0x90000, lo := 0, width := 7, acc := .ro }
def F.dsecStatusSessions : Fld := { part := .dbx, base := 0x90000, lo := 7, width := 8, acc := .ro }
def F.dsecStatusScrubSlotValid : Fld := { part := .dbx, base := 0x90000, lo := 15, width := 1, acc := .ro }
def F.dsecStatusScrubSlot : Fld := { part := .dbx, base := 0x90000, lo := 16, width := 8, acc := .ro }

/-! 13_trust_and_tenancy.md R302: BAR0 0x9_0004: DBX_SEC_STAGE_CTRL -/
def F.stageCtrlImage : Fld := { part := .dbx, base := 0x90004, lo := 0, width := 3, acc := .rw }
def F.stageCtrlOffset : Fld := { part := .dbx, base := 0x90004, lo := 3, width := 15, acc := .rw }
def F.stageCtrlCommit : Fld := { part := .dbx, base := 0x90004, lo := 18, width := 1, acc := .wo }
def F.stageCtrlClear : Fld := { part := .dbx, base := 0x90004, lo := 19, width := 1, acc := .wo }
def F.stageCtrlDone : Fld := { part := .dbx, base := 0x90004, lo := 20, width := 1, acc := .rw1c }
def F.stageCtrlRejected : Fld := { part := .dbx, base := 0x90004, lo := 21, width := 1, acc := .ro }

/-! 13_trust_and_tenancy.md R302: BAR0 0x9_0008: DBX_SEC_SVN -/
def F.secSvnFusedMin : Fld := { part := .dbx, base := 0x90008, lo := 0, width := 16, acc := .ro }
def F.secSvnRunning : Fld := { part := .dbx, base := 0x90008, lo := 16, width := 16, acc := .ro }

/-! 13_trust_and_tenancy.md R302: BAR0 0x9_0010, 0x9_0014: DBX_SEC_FW_REJECT, DBX_SEC_CERT_FAIL -/
def F.fwRejectCount : Fld := { part := .dbx, base := 0x90010, lo := 0, width := 32, acc := .rw1c }
def F.dsecCertFailCount : Fld := { part := .dbx, base := 0x90014, lo := 0, width := 32, acc := .rw1c }

/-! 14_bring_up.md R316: BAR0 0x0_0400: DBX_NODE_CFG -/
def F.nodeCfgLevel : Fld := { part := .dbx, base := 0x400, lo := 0, width := 3, acc := .rwl }
def F.nodeCfgSide : Fld := { part := .dbx, base := 0x400, lo := 3, width := 1, acc := .rwl }
def F.nodeCfgRoot : Fld := { part := .dbx, base := 0x400, lo := 4, width := 1, acc := .rwl }
def F.nodeCfgValid : Fld := { part := .dbx, base := 0x400, lo := 5, width := 1, acc := .rwl }

/-! 14_bring_up.md R316: TSU 0x0400: TSU_BOOT_CFG -/
def F.bootCfgCfgDone : Fld := { part := .tsu, base := 0x400, lo := 0, width := 1, acc := .own }

/-! 14_bring_up.md R316: TSU 0x0404, BAR0 0x0_0404: TSU_BOOT_STATUS, DBX_BOOT_STATUS -/
def F.bootStatusStep (p : Part) : Fld := match p with
  | .tsu => { part := .tsu, base := 0x404, lo := 0, width := 5, acc := .ro }
  | .dbx => { part := .dbx, base := 0x404, lo := 0, width := 5, acc := .ro }
def F.bootStatusHalted (p : Part) : Fld := match p with
  | .tsu => { part := .tsu, base := 0x404, lo := 5, width := 1, acc := .ro }
  | .dbx => { part := .dbx, base := 0x404, lo := 5, width := 1, acc := .ro }
def F.bootStatusSkipped (p : Part) : Fld := match p with
  | .tsu => { part := .tsu, base := 0x404, lo := 6, width := 1, acc := .ro }
  | .dbx => { part := .dbx, base := 0x404, lo := 6, width := 1, acc := .ro }
def F.bootStatusAlt (p : Part) : Fld := match p with
  | .tsu => { part := .tsu, base := 0x404, lo := 7, width := 1, acc := .ro }
  | .dbx => { part := .dbx, base := 0x404, lo := 7, width := 1, acc := .ro }
def F.bootStatusNoRecord (p : Part) : Fld := match p with
  | .tsu => { part := .tsu, base := 0x404, lo := 8, width := 1, acc := .ro }
  | .dbx => { part := .dbx, base := 0x404, lo := 8, width := 1, acc := .ro }
def F.bootStatusBootEvt (p : Part) : Fld := match p with
  | .tsu => { part := .tsu, base := 0x404, lo := 9, width := 1, acc := .rw1c }
  | .dbx => { part := .dbx, base := 0x404, lo := 9, width := 1, acc := .rw1c }
def F.bootStatusChildrenValid (p : Part) : Fld := match p with
  | .tsu => { part := .tsu, base := 0x404, lo := 16, width := 8, acc := .ro }
  | .dbx => { part := .dbx, base := 0x404, lo := 16, width := 8, acc := .ro }

/-! 14_bring_up.md R316: TSU 0x0408, BAR0 0x0_0408: TSU_BOOT_START, DBX_BOOT_START -/
def F.bootStartStarts (p : Part) : Fld := match p with
  | .tsu => { part := .tsu, base := 0x408, lo := 0, width := 16, acc := .rot }
  | .dbx => { part := .dbx, base := 0x408, lo := 0, width := 16, acc := .ro }

/-! 14_bring_up.md R316: TSU 0x0440 + 8i, BAR0 0x0_0440 + 8i, i = 0–15: TSU_BOOT_REC(i), DBX_BOOT_REC(i) -/
def F.bootRecAttempts (p : Part) : Fld := match p with
  | .tsu => { part := .tsu, base := 0x440, lo := 0, width := 8, acc := .rot, stride := 0x8, count := 16 }
  | .dbx => { part := .dbx, base := 0x440, lo := 0, width := 8, acc := .ro, stride := 0x8, count := 16 }
def F.bootRecConsecFail (p : Part) : Fld := match p with
  | .tsu => { part := .tsu, base := 0x440, lo := 8, width := 8, acc := .rot, stride := 0x8, count := 16 }
  | .dbx => { part := .dbx, base := 0x440, lo := 8, width := 8, acc := .ro, stride := 0x8, count := 16 }
def F.bootRecLastCode (p : Part) : Fld := match p with
  | .tsu => { part := .tsu, base := 0x440, lo := 16, width := 16, acc := .rot, stride := 0x8, count := 16 }
  | .dbx => { part := .dbx, base := 0x440, lo := 16, width := 16, acc := .ro, stride := 0x8, count := 16 }

/-! 14_bring_up.md R316: TSU 0x0444 + 8i, BAR0 0x0_0444 + 8i: TSU_BOOT_REC_STAT(i), DBX_BOOT_REC_STAT(i) -/
def F.bootRecStatAction (p : Part) : Fld := match p with
  | .tsu => { part := .tsu, base := 0x444, lo := 0, width := 2, acc := .ro, stride := 0x8, count := 16 }
  | .dbx => { part := .dbx, base := 0x444, lo := 0, width := 2, acc := .ro, stride := 0x8, count := 16 }
def F.bootRecStatFailed (p : Part) : Fld := match p with
  | .tsu => { part := .tsu, base := 0x444, lo := 2, width := 1, acc := .ro, stride := 0x8, count := 16 }
  | .dbx => { part := .dbx, base := 0x444, lo := 2, width := 1, acc := .ro, stride := 0x8, count := 16 }
def F.bootRecStatClear (p : Part) : Fld := match p with
  | .tsu => { part := .tsu, base := 0x444, lo := 3, width := 1, acc := .wo, stride := 0x8, count := 16 }
  | .dbx => { part := .dbx, base := 0x444, lo := 3, width := 1, acc := .wo, stride := 0x8, count := 16 }
def F.bootRecStatDoneMs (p : Part) : Fld := match p with
  | .tsu => { part := .tsu, base := 0x444, lo := 8, width := 24, acc := .ro, stride := 0x8, count := 16 }
  | .dbx => { part := .dbx, base := 0x444, lo := 8, width := 24, acc := .ro, stride := 0x8, count := 16 }

/-! 14_bring_up.md R316: TSU 0x0500 + 4i, BAR0 0x0_0500 + 4i, i = 0–15: TSU_BOOT_POLICY(i), DBX_BOOT_POLICY(i) -/
def F.bootPolicyThreshold (p : Part) : Fld := match p with
  | .tsu => { part := .tsu, base := 0x500, lo := 0, width := 4, acc := .rot, stride := 0x4, count := 16, resets := [0, 1, 1, 0, 1, 1, 2, 0, 0, 1, 0, 0, 1, 0, 0, 0] }
  | .dbx => { part := .dbx, base := 0x500, lo := 0, width := 4, acc := .rw, stride := 0x4, count := 16, resets := [0, 1, 1, 0, 1, 1, 2, 0, 0, 1, 0, 0, 1, 0, 0, 0] }
def F.bootPolicyAction (p : Part) : Fld := match p with
  | .tsu => { part := .tsu, base := 0x500, lo := 4, width := 2, acc := .rot, stride := 0x4, count := 16, resets := [0, 2, 2, 0, 2, 1, 2, 0, 0, 2, 0, 0, 2, 0, 0, 0] }
  | .dbx => { part := .dbx, base := 0x500, lo := 4, width := 2, acc := .rw, stride := 0x4, count := 16, resets := [0, 2, 2, 0, 2, 1, 2, 0, 0, 2, 0, 0, 2, 0, 0, 0] }

/-! 14_bring_up.md R316: TSU 0x0580 + 4p, BAR0 port + 0x120: TSU_BOOT_PORT(p), DBX_BOOT_PORT(n) -/
def F.bootPortTrainFail (p : Part) : Fld := match p with
  | .tsu => { part := .tsu, base := 0x580, lo := 0, width := 8, acc := .rot, stride := 0x4, count := 2 }
  | .dbx => { part := .dbx, base := 0x10120, lo := 0, width := 8, acc := .ro, stride := 0x400, count := 132 }
def F.bootPortOneLane (p : Part) : Fld := match p with
  | .tsu => { part := .tsu, base := 0x580, lo := 8, width := 1, acc := .ro, stride := 0x4, count := 2 }
  | .dbx => { part := .dbx, base := 0x10120, lo := 8, width := 1, acc := .ro, stride := 0x400, count := 132 }
def F.bootPortLane (p : Part) : Fld := match p with
  | .tsu => { part := .tsu, base := 0x580, lo := 9, width := 1, acc := .ro, stride := 0x4, count := 2 }
  | .dbx => { part := .dbx, base := 0x10120, lo := 9, width := 1, acc := .ro, stride := 0x400, count := 132 }
def F.bootPortKeyFail (p : Part) : Fld := match p with
  | .tsu => { part := .tsu, base := 0x580, lo := 16, width := 8, acc := .rot, stride := 0x4, count := 2 }
  | .dbx => { part := .dbx, base := 0x10120, lo := 16, width := 8, acc := .ro, stride := 0x400, count := 132 }

/-! 15_tsu_boundary.md R337: TSU 0x2410: TSU_OE_STATUS -/
def F.oeStatusReady : Fld := { part := .tsu, base := 0x2410, lo := 0, width := 1, acc := .ro }
def F.oeStatusFault : Fld := { part := .tsu, base := 0x2410, lo := 1, width := 1, acc := .ro }
def F.oeStatusNack : Fld := { part := .tsu, base := 0x2410, lo := 2, width := 1, acc := .rw1c }

/-! 15_tsu_boundary.md R337: TSU 0x3300: TSU_STRAP_SNAP -/
def F.tstrapSnapLvl : Fld := { part := .tsu, base := 0x3300, lo := 0, width := 4, acc := .ro }
def F.tstrapSnapOe : Fld := { part := .tsu, base := 0x3300, lo := 4, width := 2, acc := .ro }
def F.tstrapSnapPort : Fld := { part := .tsu, base := 0x3300, lo := 6, width := 2, acc := .ro, reset := 3 }

/-! 15_tsu_boundary.md R337: TSU 0x3304–0x330C: TSU_BUS_LW_NOACK, _CB_STALE, _RESULT_WAIT -/
def F.busLwNoackCount : Fld := { part := .tsu, base := 0x3304, lo := 0, width := 32, acc := .rw1c }
def F.busCbStaleCount : Fld := { part := .tsu, base := 0x3308, lo := 0, width := 32, acc := .rw1c }
def F.busResultWaitCount : Fld := { part := .tsu, base := 0x330c, lo := 0, width := 32, acc := .rw1c }

/-! 15_tsu_boundary.md R337: TSU 0x5020, 0x5024: TSU_CARVE_BASE_LO, _HI -/
def F.carveBaseLoBase : Fld := { part := .tsu, base := 0x5020, lo := 25, width := 7, acc := .rwl }
def F.carveBaseHiBase : Fld := { part := .tsu, base := 0x5024, lo := 0, width := 32, acc := .rwl }

/-! 15_tsu_boundary.md R337: TSU 0x5100 + 4t, t = 0–255: TSU_TARGET_CFG(t) -/
def F.targetCfgRegion : Fld := { part := .tsu, base := 0x5100, lo := 0, width := 6, acc := .rwl, stride := 0x4, count := 256 }
def F.targetCfgWired : Fld := { part := .tsu, base := 0x5100, lo := 6, width := 1, acc := .rwl, stride := 0x4, count := 256 }

/-! 15_tsu_boundary.md R337: TSU 0x6040, 0x6044: TSU_RESULT_BASE_LO, _HI -/
def F.resultBaseLoBase : Fld := { part := .tsu, base := 0x6040, lo := 22, width := 10, acc := .rwl }
def F.resultBaseHiBase : Fld := { part := .tsu, base := 0x6044, lo := 0, width := 32, acc := .rwl }

/-! 15_tsu_boundary.md R337: TSU 0x6048: TSU_RESULT_STATUS -/
def F.resultStatusInUse : Fld := { part := .tsu, base := 0x6048, lo := 0, width := 7, acc := .ro }

/-! 16_distributor_package.md R350: BAR0 0xA_0000: DBX_THERM_CFG -/
def F.thermCfgThermWarn : Fld := { part := .dbx, base := 0xa0000, lo := 0, width := 8, acc := .rw, reset := 0x64 }

/-! 16_distributor_package.md R350: BAR0 0xA_0004: DBX_THERM_STATUS -/
def F.thermStatusTj : Fld := { part := .dbx, base := 0xa0004, lo := 0, width := 12, acc := .ro }
def F.thermStatusSensor : Fld := { part := .dbx, base := 0xa0004, lo := 12, width := 4, acc := .ro }
def F.thermStatusTherm : Fld := { part := .dbx, base := 0xa0004, lo := 16, width := 1, acc := .ro }
def F.thermStatusTripEvt : Fld := { part := .dbx, base := 0xa0004, lo := 17, width := 1, acc := .rw1c }

/-! 16_distributor_package.md R350: BAR0 0xA_0010 + 4i, i = 0–15: DBX_THERM_SENSOR(i) -/
def F.thermSensorTj : Fld := { part := .dbx, base := 0xa0010, lo := 0, width := 12, acc := .ro, stride := 0x4, count := 16 }

/-! 16_distributor_package.md R350: BAR0 0xA_0050: DBX_RAIL_STATUS -/
def F.railStatusInTol : Fld := { part := .dbx, base := 0xa0050, lo := 0, width := 8, acc := .ro }
def F.railStatusRailEvt : Fld := { part := .dbx, base := 0xa0050, lo := 8, width := 1, acc := .rw1c }

/-! 16_distributor_package.md R350: BAR0 0xA_0054: DBX_STRAP_SNAP -/
def F.dstrapSnapBootSrc : Fld := { part := .dbx, base := 0xa0054, lo := 0, width := 2, acc := .ro }
def F.dstrapSnapSmbAddr : Fld := { part := .dbx, base := 0xa0054, lo := 2, width := 2, acc := .ro }

/-! 16_distributor_package.md R350: BAR0 0xA_0060: DBX_PCIE_STATUS -/
def F.pcieStatusWidth : Fld := { part := .dbx, base := 0xa0060, lo := 0, width := 4, acc := .ro }
def F.pcieStatusSpeed : Fld := { part := .dbx, base := 0xa0060, lo := 4, width := 3, acc := .ro }
def F.pcieStatusResetEvt : Fld := { part := .dbx, base := 0xa0060, lo := 7, width := 1, acc := .rw1c }

/-! 16_distributor_package.md R350: BAR0 0xA_0070: DBX_SGMII_STATUS -/
def F.sgmiiStatusSync : Fld := { part := .dbx, base := 0xa0070, lo := 0, width := 1, acc := .ro }
def F.sgmiiStatusAnDone : Fld := { part := .dbx, base := 0xa0070, lo := 1, width := 1, acc := .ro }

/-! 16_distributor_package.md R350: BAR0 0xA_0080: DBX_ELS_BUS -/
def F.elsBusNack : Fld := { part := .dbx, base := 0xa0080, lo := 0, width := 8, acc := .rw1c }

/-! 16_distributor_package.md R350: BAR0 0xA_0084, 0xA_0088: DBX_CNT_TRIP, DBX_CNT_SGMII_ERR -/
def F.cntTripCount : Fld := { part := .dbx, base := 0xa0084, lo := 0, width := 32, acc := .rw1c }
def F.cntSgmiiErrCount : Fld := { part := .dbx, base := 0xa0088, lo := 0, width := 32, acc := .rw1c }

/-! 17_register_maps.md R361: 0x000: _ID -/
def F.idPart (p : Part) : Fld := match p with
  | .tsu => { part := .tsu, base := 0x0, lo := 0, width := 16, acc := .ro, reset := 0x5407 }
  | .dbx => { part := .dbx, base := 0x0, lo := 0, width := 16, acc := .ro, reset := 0xD784 }
def F.idGeneration (p : Part) : Fld := match p with
  | .tsu => { part := .tsu, base := 0x0, lo := 16, width := 4, acc := .ro, reset := 7 }
  | .dbx => { part := .dbx, base := 0x0, lo := 16, width := 4, acc := .ro, reset := 7 }
def F.idRevision (p : Part) : Fld := match p with
  | .tsu => { part := .tsu, base := 0x0, lo := 20, width := 8, acc := .ro, reset := Config.fuseRevision }
  | .dbx => { part := .dbx, base := 0x0, lo := 20, width := 8, acc := .ro, reset := Config.fuseRevision }

/-! 17_register_maps.md R361: 0x004, 0x008: _UID_LO, _UID_HI -/
def F.uidLoUid (p : Part) : Fld := match p with
  | .tsu => { part := .tsu, base := 0x4, lo := 0, width := 32, acc := .rwlRot }
  | .dbx => { part := .dbx, base := 0x4, lo := 0, width := 32, acc := .ro, reset := Config.fuseUidLo }
def F.uidHiUid (p : Part) : Fld := match p with
  | .tsu => { part := .tsu, base := 0x8, lo := 0, width := 32, acc := .rwlRot }
  | .dbx => { part := .dbx, base := 0x8, lo := 0, width := 32, acc := .ro, reset := Config.fuseUidHi }

/-! 17_register_maps.md R361: 0x00C: _CAP0 -/
def F.cap0RingPairs (p : Part) : Fld := match p with
  | .tsu => { part := .tsu, base := 0xc, lo := 0, width := 9, acc := .ro, reset := 64 }
  | .dbx => { part := .dbx, base := 0xc, lo := 0, width := 9, acc := .ro, reset := 256 }
def F.cap0Msix (p : Part) : Fld := match p with
  | .tsu => { part := .tsu, base := 0xc, lo := 9, width := 9, acc := .ro, reset := 72 }
  | .dbx => { part := .dbx, base := 0xc, lo := 9, width := 9, acc := .ro, reset := 264 }
def F.cap0Ports (p : Part) : Fld := match p with
  | .tsu => { part := .tsu, base := 0xc, lo := 18, width := 8, acc := .ro, reset := 2 }
  | .dbx => { part := .dbx, base := 0xc, lo := 18, width := 8, acc := .ro, reset := 132 }

/-! 17_register_maps.md R361: 0x010: _CAP1 -/
def F.cap1Regions (p : Part) : Fld := match p with
  | .tsu => { part := .tsu, base := 0x10, lo := 0, width := 7, acc := .ro, reset := 64 }
  | .dbx => { part := .dbx, base := 0x10, lo := 0, width := 7, acc := .ro }
def F.cap1Conductor (p : Part) : Fld := match p with
  | .tsu => { part := .tsu, base := 0x10, lo := 7, width := 1, acc := .ro }
  | .dbx => { part := .dbx, base := 0x10, lo := 7, width := 1, acc := .ro, reset := 1 }
def F.cap1Formats (p : Part) : Fld := match p with
  | .tsu => { part := .tsu, base := 0x10, lo := 8, width := 15, acc := .ro, reset := 0x7FFF }
  | .dbx => { part := .dbx, base := 0x10, lo := 8, width := 15, acc := .ro, reset := 0x7FFF }

/-! 17_register_maps.md R361: 0x020: _SETUP_LOCK -/
def F.setupLockLock (p : Part) : Fld := match p with
  | .tsu => { part := .tsu, base := 0x20, lo := 0, width := 1, acc := .ro }
  | .dbx => { part := .dbx, base := 0x20, lo := 0, width := 1, acc := .ro }
def F.setupLockSet (p : Part) : Fld := match p with
  | .tsu => { part := .tsu, base := 0x20, lo := 1, width := 1, acc := .wo }
  | .dbx => { part := .dbx, base := 0x20, lo := 1, width := 1, acc := .wo }
def F.setupLockLockRefused (p : Part) : Fld := match p with
  | .tsu => { part := .tsu, base := 0x20, lo := 2, width := 1, acc := .rw1c }
  | .dbx => { part := .dbx, base := 0x20, lo := 2, width := 1, acc := .rw1c }
def F.setupLockRefuseCause (p : Part) : Fld := match p with
  | .tsu => { part := .tsu, base := 0x20, lo := 3, width := 3, acc := .ro }
  | .dbx => { part := .dbx, base := 0x20, lo := 3, width := 3, acc := .ro }

/-! 17_register_maps.md R361: 0x030: _INT_STATUS -/
def F.intStatusStatus (p : Part) : Fld := match p with
  | .tsu => { part := .tsu, base := 0x30, lo := 0, width := 8, acc := .rw1c }
  | .dbx => { part := .dbx, base := 0x30, lo := 0, width := 8, acc := .rw1c }

/-! 17_register_maps.md R361: 0x034: _INT_ENABLE -/
def F.intEnableEnable (p : Part) : Fld := match p with
  | .tsu => { part := .tsu, base := 0x34, lo := 0, width := 8, acc := .rw }
  | .dbx => { part := .dbx, base := 0x34, lo := 0, width := 8, acc := .rw }

/-! 17_register_maps.md R361: 0x040: _ERRLOG_STATUS -/
def F.errlogStatusHeld (p : Part) : Fld := match p with
  | .tsu => { part := .tsu, base := 0x40, lo := 0, width := 7, acc := .ro }
  | .dbx => { part := .dbx, base := 0x40, lo := 0, width := 7, acc := .ro }
def F.errlogStatusLost (p : Part) : Fld := match p with
  | .tsu => { part := .tsu, base := 0x40, lo := 16, width := 16, acc := .rw1c }
  | .dbx => { part := .dbx, base := 0x40, lo := 16, width := 16, acc := .rw1c }

/-! 17_register_maps.md R361: 0x044: _ERRLOG_CTRL -/
def F.errlogCtrlPop (p : Part) : Fld := match p with
  | .tsu => { part := .tsu, base := 0x44, lo := 0, width := 1, acc := .wo }
  | .dbx => { part := .dbx, base := 0x44, lo := 0, width := 1, acc := .wo }

/-! 17_register_maps.md R361: 0x050 + 4w, w = 0–3: _ERRLOG_HEAD(w) -/
def F.errlogHeadEntry (p : Part) : Fld := match p with
  | .tsu => { part := .tsu, base := 0x50, lo := 0, width := 32, acc := .ro, stride := 0x4, count := 4 }
  | .dbx => { part := .dbx, base := 0x50, lo := 0, width := 32, acc := .ro, stride := 0x4, count := 4 }

/-! 13_trust_and_tenancy.md R302: the mailbox buffers and the staging window, one word at each index -/
def F.mbReqBufData : Fld := { part := .tsu, base := 0x9100, lo := 0, width := 32, acc := .ro, stride := 4, count := 448 }
def F.mbRspBufData : Fld := { part := .tsu, base := 0x9800, lo := 0, width := 32, acc := .rot, stride := 4, count := 512 }
def F.stageWinData : Fld := { part := .dbx, base := 0x98000, lo := 0, width := 32, acc := .rw, stride := 4, count := 8192 }

def tsuFields0 : List Fld :=
  [F.timeStatusTimeValid .tsu, F.timeStatusTimeState .tsu, F.timeStatusProvisional .tsu, F.timeStatusRefStep .tsu,
   F.timeStatusCivilState .tsu, F.timeStatusTimePort .tsu, F.timeStatusGridValid .tsu, F.timeStatusReloadEvt .tsu,
   F.timeStatusCivilStepEvt .tsu, F.lfnLoLfnLo .tsu, F.lfnHiLfnHi .tsu, F.subSnapFrac .tsu,
   F.subSnapSub .tsu, F.frameCfgFLog2, F.frameOriginLoOrigin, F.frameOriginHiOrigin,
   F.overrunCountCount, F.regionCfgParent, F.regionCfgFromTsu, F.regionCfgEnable,
   F.regionStatRegionValid, F.regionStatFineDelay, F.regionStatWholeCycles, F.regionStatDepth]

def tsuFields1 : List Fld :=
  [F.regionStatCountErr, F.tdcCtrlPort .tsu, F.tdcCtrlMode .tsu, F.tdcCtrlNM1 .tsu,
   F.tdcCtrlStart .tsu, F.tdcTmoTmo .tsu, F.tdcStatusBusy .tsu, F.tdcStatusDone .tsu,
   F.tdcStatusNoData .tsu, F.tdcStatusRefused .tsu, F.tdcCountCount .tsu, F.tdcTimeoutsTimeouts .tsu,
   F.tdcMeanValue .tsu, F.tdcSdValue .tsu, F.tdcMinValue .tsu, F.tdcMaxValue .tsu,
   F.trackCfgTrackN .tsu, F.trackCfgAcqLimit .tsu, F.trackCfgSigmaLimit .tsu, F.portAsymCable .tsu,
   F.portAsymPkg .tsu, F.portRttRtt .tsu, F.portOffsetTheta .tsu, F.portTstatTimePort .tsu]

def tsuFields2 : List Fld :=
  [F.portTstatSetValid .tsu, F.portTstatAsymMismatch .tsu, F.portTstatBadCable .tsu, F.portTstatTdcFault .tsu,
   F.portTstatAlignErr .tsu, F.portTstatAcqFail .tsu, F.portCtrlEnable .tsu, F.portCtrlExpected .tsu,
   F.portCtrlIsolate .tsu, F.portCtrlLoop .tsu, F.portCtrlDropL0 .tsu, F.portCtrlDropL1 .tsu,
   F.portCtrlUnpin .tsu, F.portCtrlTxTmpl .tsu, F.portCtrlRxTmpl .tsu, F.portStateState .tsu,
   F.portStateTxLanes .tsu, F.portStateRxLanes .tsu, F.portStatePinnedL0 .tsu, F.portStatePinnedL1 .tsu,
   F.portStateRatchets .tsu, F.portSlotErrCount .tsu, F.portTagFailCount .tsu, F.portNakTxCount .tsu]

def tsuFields3 : List Fld :=
  [F.portReplayTxCount .tsu, F.portLostCount .tsu, F.portDropCount .tsu, F.portFlapFlapL0 .tsu,
   F.portFlapFlapL1 .tsu, F.portRxpwrRxL0 .tsu, F.portRxpwrRxL1 .tsu, F.portPeerLoUid .tsu,
   F.portPeerHiUid .tsu, F.portPeerInfoInfo .tsu, F.portEvtDark .tsu, F.portEvtDegraded .tsu,
   F.portEvtRestored .tsu, F.portEvtTrainFail .tsu, F.portEvtAuthDown .tsu, F.portEvtRatchet .tsu,
   F.portEvtRxpwrWarn .tsu, F.portEvtRephase .tsu, F.portEvtIsolateRefused .tsu, F.portEvtLoopRefused .tsu,
   F.linkCfgRxpwrWarn .tsu, F.linkCfgFlapPin .tsu, F.linkCfgNakMax .tsu, F.linkCfgTagLimit .tsu]

def tsuFields4 : List Fld :=
  [F.s7RateRate .tsu, F.slotTmplEntries .tsu, F.armCfgGuard, F.armCfgMaxLeadLog2,
   F.armCfgClrMargin, F.armStatusInUse, F.armStatusHighWater, F.armMarginMinMargin,
   F.czArmedCount, F.czDupCount, F.czDivergeCount, F.czSingleCount,
   F.czLateCopyCount, F.czMissedCount, F.czCancelledCount, F.czStaleCount,
   F.czFaultCount, F.czCollideCount, F.missLog0Handle, F.missLog1StepLo,
   F.missLog2StepHi, F.missLog2Cause, F.missLog2Type, F.missLog3FireLfn]

def tsuFields5 : List Fld :=
  [F.divLog0Handle, F.divLog1StepLo, F.divLog2Byte, F.divLog2FirstPort,
   F.roleRole, F.roleRoleValid, F.scopePodPod, F.scopePkgBrdPackage,
   F.scopePkgBrdBoard, F.scopeChassisChassis, F.scopeChassisNested, F.coresetMask,
   F.periStateState, F.periCfgSource, F.periCfgArg, F.periCfgForce,
   F.periCfgState, F.lvlCfgLocalEn, F.lvlCapCap, F.lvlCapCapPending,
   F.lvlCurLevels, F.lvlReqSnapLevels, F.lvlCommitsCount, F.rfeStatusOpen]

def tsuFields6 : List Fld :=
  [F.rfeStatusHeld, F.rfeSentCount, F.rfeContribErrCount, F.rfeNoBufferCount,
   F.rfeDivergeCount, F.rfeReleasedCount, F.ringSqBaseLoBase .tsu, F.ringSqBaseHiBase .tsu,
   F.ringCqBaseLoBase .tsu, F.ringCqBaseHiBase .tsu, F.ringCfgEnable .tsu, F.ringCfgSqLog2 .tsu,
   F.ringCfgCqLog2 .tsu, F.ringCfgVector .tsu, F.ringModModCount .tsu, F.ringModModTime .tsu,
   F.ringStatusRunning .tsu, F.ringStatusKind .tsu, F.ringStatusErr .tsu, F.ringStatusCfgRefused .tsu,
   F.ringSeqLoSeq .tsu, F.ringSeqHiSeq .tsu, F.ringSqHeadConsumed .tsu, F.ringCqTailWritten .tsu]

def tsuFields7 : List Fld :=
  [F.ringBadTagCount .tsu, F.ringCqWaitCount .tsu, F.dbSqTailCount .tsu, F.dbCqHeadCount .tsu,
   F.chCfgMaxLife .tsu, F.chCountInUse .tsu, F.chQuarQuarantined .tsu, F.chCreatedCount .tsu,
   F.chDestroyedCount .tsu, F.descRefusedCount .tsu, F.chCacheMissCount, F.digCfgEnable,
   F.digCfgFreeze, F.digStatusSteps, F.digStatusLayers, F.digSentCount,
   F.digDiscardedCount, F.digLateWriteCount, F.digLostCount, F.wgStatusManifests,
   F.wgStatusEntries, F.wgStatusOpen, F.wgStatusInValid, F.wgStatusSwapIn]

def tsuFields8 : List Fld :=
  [F.wgEpochCurEpoch, F.wgEpochInEpoch, F.wgBitmapBlocks, F.wgVerifiedCount,
   F.wgBadCount, F.wgMissingCount, F.wgUnlistedCount, F.wgUnopenedCount,
   F.wgLast0Shard, F.wgLast0Layer, F.wgLast0Cause, F.wgLast1Epoch,
   F.wgReadyReady, F.fltCfgHangAge, F.fltCfgKillTmo, F.fltCfgEscCount,
   F.fltCfgEscWindow, F.fltCfg2XferGuard, F.fltCtrlCmpReset, F.fltStatusCmpState,
   F.fltStatusOosReq, F.fltStatusEscSeen, F.fltStatusNodes, F.fltKillCount]

def tsuFields9 : List Fld :=
  [F.fltKillTmoCount, F.fltCmpResetCount, F.fltLocalHangCount, F.fltWaitLateCount,
   F.fltSuspectCount, F.fltTransientCount, F.fltFiredAfterCount, F.fltWaitFullCount,
   F.fltLog0Handle, F.fltLog1StepLo, F.fltLog2StepHi, F.fltLog2Code,
   F.fltLog2IsAbort, F.fltLog3Lfn, F.thealthScore, F.thealthExpelReq,
   F.thealthExpelGranted, F.thealthRetained, F.thealthRolePending, F.thealthCfgExpelScore,
   F.mbReqLen, F.mbReqFirst, F.mbReqLast, F.mbReqKind]

def tsuFields10 : List Fld :=
  [F.mbReqRing, F.mbReqValid, F.mbRspLen, F.mbRspFirst,
   F.mbRspLast, F.mbRspKind, F.mbRspRing, F.mbRspVerdict,
   F.mbRspGo, F.mbReqTagTag, F.mbRspTagTag, F.keySelTarget,
   F.keySelNext, F.keySelRing, F.keySelInstall, F.keyDataKey,
   F.tsecStatusScrub, F.tsecStatusTenant, F.tsecCertFailCount, F.bootCfgCfgDone,
   F.bootStatusStep .tsu, F.bootStatusHalted .tsu, F.bootStatusSkipped .tsu, F.bootStatusAlt .tsu]

def tsuFields11 : List Fld :=
  [F.bootStatusNoRecord .tsu, F.bootStatusBootEvt .tsu, F.bootStatusChildrenValid .tsu, F.bootStartStarts .tsu,
   F.bootRecAttempts .tsu, F.bootRecConsecFail .tsu, F.bootRecLastCode .tsu, F.bootRecStatAction .tsu,
   F.bootRecStatFailed .tsu, F.bootRecStatClear .tsu, F.bootRecStatDoneMs .tsu, F.bootPolicyThreshold .tsu,
   F.bootPolicyAction .tsu, F.bootPortTrainFail .tsu, F.bootPortOneLane .tsu, F.bootPortLane .tsu,
   F.bootPortKeyFail .tsu, F.oeStatusReady, F.oeStatusFault, F.oeStatusNack,
   F.tstrapSnapLvl, F.tstrapSnapOe, F.tstrapSnapPort, F.busLwNoackCount]

def tsuFields12 : List Fld :=
  [F.busCbStaleCount, F.busResultWaitCount, F.carveBaseLoBase, F.carveBaseHiBase,
   F.targetCfgRegion, F.targetCfgWired, F.resultBaseLoBase, F.resultBaseHiBase,
   F.resultStatusInUse, F.idPart .tsu, F.idGeneration .tsu, F.idRevision .tsu,
   F.uidLoUid .tsu, F.uidHiUid .tsu, F.cap0RingPairs .tsu, F.cap0Msix .tsu,
   F.cap0Ports .tsu, F.cap1Regions .tsu, F.cap1Conductor .tsu, F.cap1Formats .tsu,
   F.setupLockLock .tsu, F.setupLockSet .tsu, F.setupLockLockRefused .tsu, F.setupLockRefuseCause .tsu]

def tsuFields13 : List Fld :=
  [F.intStatusStatus .tsu, F.intEnableEnable .tsu, F.errlogStatusHeld .tsu, F.errlogStatusLost .tsu,
   F.errlogCtrlPop .tsu, F.errlogHeadEntry .tsu, F.mbReqBufData, F.mbRspBufData]

/-- Every field of the TSU window (R362). -/
def tsuFields : List Fld :=
  tsuFields0 ++ tsuFields1 ++ tsuFields2 ++ tsuFields3 ++ tsuFields4 ++ tsuFields5 ++ tsuFields6 ++ tsuFields7 ++ tsuFields8 ++ tsuFields9 ++ tsuFields10 ++ tsuFields11 ++ tsuFields12 ++ tsuFields13

def dbxFields0 : List Fld :=
  [F.timeStatusTimeValid .dbx, F.timeStatusTimeState .dbx, F.timeStatusProvisional .dbx, F.timeStatusRefStep .dbx,
   F.timeStatusCivilState .dbx, F.timeStatusTimePort .dbx, F.timeStatusGridValid .dbx, F.timeStatusReloadEvt .dbx,
   F.timeStatusCivilStepEvt .dbx, F.lfnLoLfnLo .dbx, F.lfnHiLfnHi .dbx, F.subSnapFrac .dbx,
   F.subSnapSub .dbx, F.civilIncLoInc, F.civilIncHiInc, F.tdcCtrlPort .dbx,
   F.tdcCtrlMode .dbx, F.tdcCtrlNM1 .dbx, F.tdcCtrlStart .dbx, F.tdcTmoTmo .dbx,
   F.tdcStatusBusy .dbx, F.tdcStatusDone .dbx, F.tdcStatusNoData .dbx, F.tdcStatusRefused .dbx]

def dbxFields1 : List Fld :=
  [F.tdcCountCount .dbx, F.tdcTimeoutsTimeouts .dbx, F.tdcMeanValue .dbx, F.tdcSdValue .dbx,
   F.tdcMinValue .dbx, F.tdcMaxValue .dbx, F.trackCfgTrackN .dbx, F.trackCfgAcqLimit .dbx,
   F.trackCfgSigmaLimit .dbx, F.portAsymCable .dbx, F.portAsymPkg .dbx, F.portRttRtt .dbx,
   F.portOffsetTheta .dbx, F.portTstatTimePort .dbx, F.portTstatSetValid .dbx, F.portTstatAsymMismatch .dbx,
   F.portTstatBadCable .dbx, F.portTstatTdcFault .dbx, F.portTstatAlignErr .dbx, F.portTstatAcqFail .dbx,
   F.portCloseClose, F.closeCtrlRun, F.closeCtrlPeriodic, F.closeLimitLimit]

def dbxFields2 : List Fld :=
  [F.closeStatusBusy, F.closeStatusDone, F.closeStatusX0Bad, F.closeStatusX0Unjudged,
   F.closeStatusLoops, F.closeStatusFlagged, F.closeMedianMedian, F.refCtrlPref,
   F.refCtrlPrio0, F.refCtrlPrio1, F.refCtrlPrio2, F.refCtrlEn,
   F.refCtrlForceFree, F.refCtrlPrefRefused, F.refQlcfgQlMin0, F.refQlcfgQlMin1,
   F.refQlcfgOcxoQlc, F.refStatState, F.refStatSsm, F.refStatEsmcTmo,
   F.refStatFreqErr, F.refStatFreqOff, F.selStatusSelState, F.selStatusSelected]

def dbxFields3 : List Fld :=
  [F.selStatusTreeQl, F.selStatusOcxoWarm, F.selStatusMaster, F.selStatusStepPending,
   F.selStatusSwitchEvt, F.selStatusHoldEvt, F.selStatusWarmEvt, F.stepDeltaDelta,
   F.stepStartLoStart, F.stepStartHiStart, F.stepInfoFrom, F.stepInfoTo,
   F.stepInfoCause, F.stepInfoCount, F.outCfgMode, F.outCfgSrc,
   F.outCfgFLog2, F.outCfgWidth, F.outCfgAnchorStale, F.outOffsetOffset,
   F.outArgLoArg, F.outArgHiArg, F.ref10mCtrlEn, F.portCtrlEnable .dbx]

def dbxFields4 : List Fld :=
  [F.portCtrlExpected .dbx, F.portCtrlIsolate .dbx, F.portCtrlLoop .dbx, F.portCtrlDropL0 .dbx,
   F.portCtrlDropL1 .dbx, F.portCtrlUnpin .dbx, F.portCtrlTxTmpl .dbx, F.portCtrlRxTmpl .dbx,
   F.portStateState .dbx, F.portStateTxLanes .dbx, F.portStateRxLanes .dbx, F.portStatePinnedL0 .dbx,
   F.portStatePinnedL1 .dbx, F.portStateRatchets .dbx, F.portSlotErrCount .dbx, F.portTagFailCount .dbx,
   F.portNakTxCount .dbx, F.portReplayTxCount .dbx, F.portLostCount .dbx, F.portDropCount .dbx,
   F.portFlapFlapL0 .dbx, F.portFlapFlapL1 .dbx, F.portRxpwrRxL0 .dbx, F.portRxpwrRxL1 .dbx]

def dbxFields5 : List Fld :=
  [F.portPeerLoUid .dbx, F.portPeerHiUid .dbx, F.portPeerInfoInfo .dbx, F.portEvtDark .dbx,
   F.portEvtDegraded .dbx, F.portEvtRestored .dbx, F.portEvtTrainFail .dbx, F.portEvtAuthDown .dbx,
   F.portEvtRatchet .dbx, F.portEvtRxpwrWarn .dbx, F.portEvtRephase .dbx, F.portEvtIsolateRefused .dbx,
   F.portEvtLoopRefused .dbx, F.linkCfgRxpwrWarn .dbx, F.linkCfgFlapPin .dbx, F.linkCfgNakMax .dbx,
   F.linkCfgTagLimit .dbx, F.s7RateRate .dbx, F.slotTmplEntries .dbx, F.sharePartition,
   F.shareValid, F.elsStatPresent, F.elsStatWarn, F.elsStatAlarm]

def dbxFields6 : List Fld :=
  [F.elsStatBolSet, F.elsStatEvt, F.elsBiasCh0, F.elsBiasCh1,
   F.elsPwrCh0, F.elsPwrCh1, F.elsBolBiasCh0, F.elsBolBiasCh1,
   F.elsBolPwrCh0, F.elsBolPwrCh1, F.elsLimitsBiasWarn, F.elsLimitsBiasAlarm,
   F.elsLimitsPwrWarn, F.elsLimitsPwrAlarm, F.czCfgWindow, F.dczFwdCount,
   F.dczDupCount, F.dczDivergeCount, F.dczSingleCount, F.dczEvictCount,
   F.dczFaultCount, F.dczDivLog0Handle, F.dczDivLog1StepLo, F.dczDivLog2FirstPort]

def dbxFields7 : List Fld :=
  [F.dczDivLog2SecondPort, F.dczDivLog2Byte, F.tblSelIndex, F.tblSelTable,
   F.tblSelWrite, F.tblSelRefused, F.tblDataData, F.periSelIndex,
   F.periViewState, F.periViewTsuIndex, F.periViewOp, F.periViewHeld,
   F.periTmoCount, F.condCtrlHandback, F.condStatusRole, F.condStatusInStep,
   F.condStatusResyncBusy, F.condStatusTakeoverEvt, F.condStatusMismatchEvt, F.condStatusHandbackRefused,
   F.condStatusCfgRefused, F.condLoadWordsLf, F.condLoadPages, F.condStepsCount]

def dbxFields8 : List Fld :=
  [F.condReplaysCount, F.condMismatchCount, F.condDivergeCount, F.condTakeoverCount,
   F.condMeterWaitCount, F.condLateDiscCount, F.condMissingCount, F.condRingWaitCount,
   F.condMismatchLogGroup, F.condMismatchLogReplayed, F.condPartPartition, F.condPartValid,
   F.condPartNested, F.condPartApex, F.condTimingLeadLf, F.condTimingCommitLf,
   F.condTimingGraceLf, F.condShareChChannels, F.condShareMemPages, F.condSharePeriBase,
   F.condSharePeriCount, F.condShareRateWordsLf, F.condShareRateCzPos, F.condPartStatBound]

def dbxFields9 : List Fld :=
  [F.condPartStatDegraded, F.condPartStatSwapActive, F.condPartPagesPages, F.condPartPagesPlans,
   F.condGridFLog2, F.condGridSlot, F.condGridValid, F.condGridOriginLoOrigin,
   F.condGridOriginHiOrigin, F.condChSelIndex, F.condChDataData, F.condPlanSelPlan,
   F.condPlanInfo0Slot, F.condPlanInfo0Valid, F.condPlanInfo0Retiring, F.condPlanInfo0VariantsM1,
   F.condPlanInfo1FirstPage, F.condPlanInfo1Pages, F.tauCfgFlushLf, F.tauStatusOpen,
   F.tauStatusSpace, F.tauInCount, F.tauOutCount, F.tauResultsCount]

def dbxFields10 : List Fld :=
  [F.tauIncompleteCount, F.tauLateDiscCount, F.tauContribErrCount, F.tauNoSpaceCount,
   F.tauPassthroughCount, F.tauDivergeCount, F.kcgSeedLoSeed, F.kcgSeedHiSeed,
   F.kcgStepLoStep, F.kcgStepHiStep, F.kcgCtrlDraw, F.kcgCtrlGo,
   F.kcgCtrlDone, F.kcgOutLoOut, F.kcgOutHiOut, F.ringSqBaseLoBase .dbx,
   F.ringSqBaseHiBase .dbx, F.ringCqBaseLoBase .dbx, F.ringCqBaseHiBase .dbx, F.ringCfgEnable .dbx,
   F.ringCfgSqLog2 .dbx, F.ringCfgCqLog2 .dbx, F.ringCfgVector .dbx, F.ringModModCount .dbx]

def dbxFields11 : List Fld :=
  [F.ringModModTime .dbx, F.ringStatusRunning .dbx, F.ringStatusKind .dbx, F.ringStatusErr .dbx,
   F.ringStatusCfgRefused .dbx, F.ringSeqLoSeq .dbx, F.ringSeqHiSeq .dbx, F.ringSqHeadConsumed .dbx,
   F.ringCqTailWritten .dbx, F.ringBadTagCount .dbx, F.ringCqWaitCount .dbx, F.dbSqTailCount .dbx,
   F.dbCqHeadCount .dbx, F.chCfgMaxLife .dbx, F.chCountInUse .dbx, F.chQuarQuarantined .dbx,
   F.chCreatedCount .dbx, F.chDestroyedCount .dbx, F.descRefusedCount .dbx, F.sorCfgFreeze,
   F.sorStatusRecords, F.sorStatusOpen, F.sorInCount, F.sorOutCount]

def dbxFields12 : List Fld :=
  [F.sorLateDiscCount, F.sorPassthroughCount, F.sorLostCount, F.dfltCfgHangEn,
   F.dfltCfgSuspectEn, F.dfltAbortsCount, F.dfltAbortLateCount, F.dfltHangCount,
   F.dfltSlowCount, F.dfltIsolateCount, F.dfltNamedCount, F.dfltTransientCount,
   F.dfltUnresolvedCount, F.dfltRestoreTmoCount, F.dfltLog0Handle, F.dfltLog1StepLo,
   F.dfltLog2Status, F.dfltLog2Outcome, F.dfltLog3Shortfall, F.fltPolicyMode,
   F.fltPolicyRestoreMs, F.dhealthScore, F.dhealthSramFail, F.dhealthLogHalf]

def dbxFields13 : List Fld :=
  [F.expelCfgPodLimit, F.expelCfgPartLimit, F.expelCfgWindowS, F.expelGrantCount,
   F.expelRetainCount, F.expelRetainFullCount, F.stateLostCount, F.insertRole,
   F.insertState, F.insertSlot, F.insertPartnerPartner, F.insertUidUid,
   F.insertDeadlineLfn, F.retainedRole, F.retainedSlot, F.retainedValid,
   F.portHealthScore, F.portHealthFlags, F.x1CfgAsX0, F.x1CfgActive,
   F.x1CfgX1Refused, F.x1SwitchLoLfn, F.x1SwitchHiLfn, F.elsCtrlEn]

def dbxFields14 : List Fld :=
  [F.sramTestBank, F.sramTestSparesUsed, F.sramTestFail, F.sramTestEvt,
   F.dsecStatusState, F.dsecStatusSessions, F.dsecStatusScrubSlotValid, F.dsecStatusScrubSlot,
   F.stageCtrlImage, F.stageCtrlOffset, F.stageCtrlCommit, F.stageCtrlClear,
   F.stageCtrlDone, F.stageCtrlRejected, F.secSvnFusedMin, F.secSvnRunning,
   F.fwRejectCount, F.dsecCertFailCount, F.nodeCfgLevel, F.nodeCfgSide,
   F.nodeCfgRoot, F.nodeCfgValid, F.bootStatusStep .dbx, F.bootStatusHalted .dbx]

def dbxFields15 : List Fld :=
  [F.bootStatusSkipped .dbx, F.bootStatusAlt .dbx, F.bootStatusNoRecord .dbx, F.bootStatusBootEvt .dbx,
   F.bootStatusChildrenValid .dbx, F.bootStartStarts .dbx, F.bootRecAttempts .dbx, F.bootRecConsecFail .dbx,
   F.bootRecLastCode .dbx, F.bootRecStatAction .dbx, F.bootRecStatFailed .dbx, F.bootRecStatClear .dbx,
   F.bootRecStatDoneMs .dbx, F.bootPolicyThreshold .dbx, F.bootPolicyAction .dbx, F.bootPortTrainFail .dbx,
   F.bootPortOneLane .dbx, F.bootPortLane .dbx, F.bootPortKeyFail .dbx, F.thermCfgThermWarn,
   F.thermStatusTj, F.thermStatusSensor, F.thermStatusTherm, F.thermStatusTripEvt]

def dbxFields16 : List Fld :=
  [F.thermSensorTj, F.railStatusInTol, F.railStatusRailEvt, F.dstrapSnapBootSrc,
   F.dstrapSnapSmbAddr, F.pcieStatusWidth, F.pcieStatusSpeed, F.pcieStatusResetEvt,
   F.sgmiiStatusSync, F.sgmiiStatusAnDone, F.elsBusNack, F.cntTripCount,
   F.cntSgmiiErrCount, F.idPart .dbx, F.idGeneration .dbx, F.idRevision .dbx,
   F.uidLoUid .dbx, F.uidHiUid .dbx, F.cap0RingPairs .dbx, F.cap0Msix .dbx,
   F.cap0Ports .dbx, F.cap1Regions .dbx, F.cap1Conductor .dbx, F.cap1Formats .dbx]

def dbxFields17 : List Fld :=
  [F.setupLockLock .dbx, F.setupLockSet .dbx, F.setupLockLockRefused .dbx, F.setupLockRefuseCause .dbx,
   F.intStatusStatus .dbx, F.intEnableEnable .dbx, F.errlogStatusHeld .dbx, F.errlogStatusLost .dbx,
   F.errlogCtrlPop .dbx, F.errlogHeadEntry .dbx, F.stageWinData]

/-- Every field of the distributor BAR0 (R362). -/
def dbxFields : List Fld :=
  dbxFields0 ++ dbxFields1 ++ dbxFields2 ++ dbxFields3 ++ dbxFields4 ++ dbxFields5 ++ dbxFields6 ++ dbxFields7 ++ dbxFields8 ++ dbxFields9 ++ dbxFields10 ++ dbxFields11 ++ dbxFields12 ++ dbxFields13 ++ dbxFields14 ++ dbxFields15 ++ dbxFields16 ++ dbxFields17

/-- The fields of a part's window (R362). -/
def fieldsOf : Part → List Fld
  | .tsu => tsuFields
  | .dbx => dbxFields

end Sys2Proof.Machine
end

