-- ==== Sys2Proof/Machine/Ops.lean ====
section
/-! DEFINITION. The named operations over the state that the meanings share: the two nodes and their
registers, machine time, the error log and the interrupts, dynamic records, health, ring completions,
generations and messages. Every operation is total and changes only what its docstring names. -/

namespace Sys2Proof.Machine

/-- The answer of a meaning. -/
abbrev Res := Host.Outcome State Fault Refusal

/-! ### The two nodes -/

/-- The node of a part. -/
def State.node (s : State) : Part → Node
  | .tsu => s.tsu
  | .dbx => s.dbx

/-- `s` with the node of a part changed. -/
def State.modNode (s : State) (p : Part) (f : Node → Node) : State :=
  match p with
  | .tsu => { s with tsu := f s.tsu }
  | .dbx => { s with dbx := f s.dbx }

/-- `s` with the TSU's own state changed. -/
def State.modT (s : State) (f : TsuState → TsuState) : State := { s with t := f s.t }

/-- `s` with the distributor's own state changed. -/
def State.modD (s : State) (f : DbxState → DbxState) : State := { s with d := f s.d }

/-- The answer of a meaning that works only while the part is out of reset (log 3). -/
def onLive (p : Part) (s : State) (f : State → State) : Res :=
  .next (if (s.node p).live then f s else s)

/-- A port's runtime state. -/
def State.port (s : State) (p : Part) (i : Nat) : PortRt := fgetD (s.node p).ports i {}

/-- `s` with a port's runtime state changed. -/
def State.modPort (s : State) (p : Part) (i : Nat) (f : PortRt → PortRt) : State :=
  s.modNode p fun n => { n with ports := fmod n.ports i {} f }

/-- A ring pair's runtime state. -/
def State.ring (s : State) (p : Part) (r : Nat) : RingRt := fgetD (s.node p).rings r {}

/-- `s` with a ring pair's runtime state changed. -/
def State.modRing (s : State) (p : Part) (r : Nat) (f : RingRt → RingRt) : State :=
  s.modNode p fun n => { n with rings := fmod n.rings r {} f }

/-- The part sends or drives `o` (log 10). -/
def State.emit (s : State) (p : Part) (o : Out) : State :=
  s.modNode p fun n => { n with out := o :: n.out }

/-- The number of the next free value, and the state that has drawn it (log 9). -/
def State.draw (s : State) : Nat × State := (Config.freeValue s.fresh, { s with fresh := s.fresh + 1 })

/-! ### Registers -/

/-- Where the field of element `i`, word `w`, is kept: its first bit's number in the window. -/
def Fld.key (f : Fld) (i w : Nat) : Nat := (f.base + f.stride * i + 4 * w) * 32 + f.lo

/-- The reset value of element `i` (R355). -/
def Fld.resetAt (f : Fld) (i : Nat) : Nat :=
  if f.idx then i % 2 ^ f.width else if f.resets.isEmpty then f.reset else f.resets.getD i f.reset

/-- Value of a field: what was written last, or the reset value (R5, R355). -/
def Node.rd (n : Node) (f : Fld) (i w : Nat) : Nat := fgetD n.regs (f.key i w) (f.resetAt i)

/-- A node with a field set, cut to its width. -/
def Node.wr (n : Node) (f : Fld) (v i w : Nat) : Node :=
  { n with regs := fput n.regs (f.key i w) (f.resetAt i) (v % 2 ^ f.width) }

/-- Value of a field of a part. -/
def State.rd (s : State) (f : Fld) (i : Nat := 0) (w : Nat := 0) : Nat := (s.node f.part).rd f i w

/-- `s` with a field set by the part itself. -/
def State.wr (s : State) (f : Fld) (v : Nat) (i : Nat := 0) (w : Nat := 0) : State :=
  s.modNode f.part fun n => n.wr f v i w

/-- A field of one bit is set. -/
def State.is (s : State) (f : Fld) (i : Nat := 0) : Bool := s.rd f i == 1

/-- A field read as two's complement of its width. -/
def State.rdI (s : State) (f : Fld) (i : Nat := 0) : Int := toSigned f.width (s.rd f i)

/-- `s` with a field set to an integer as two's complement, saturated to its width. -/
def State.wrI (s : State) (f : Fld) (v : Int) (i : Nat := 0) : State :=
  s.wr f (ofSigned f.width (satSigned f.width v)) i

/-- `s` with a counter raised by `k`, saturating at its greatest value. -/
def State.bump (s : State) (f : Fld) (i : Nat := 0) (k : Nat := 1) : State :=
  s.wr f (satN f.width (s.rd f i + k)) i

/-- A 64-bit value held by two registers. -/
def State.rd64 (s : State) (lo hi : Fld) (i : Nat := 0) : Nat := s.rd lo i + 2 ^ 32 * s.rd hi i

/-- `s` with a 64-bit value placed in two registers. -/
def State.wr64 (s : State) (lo hi : Fld) (v : Nat) (i : Nat := 0) : State :=
  (s.wr lo (v % 2 ^ 32) i).wr hi (v / 2 ^ 32) i

/-! ### Machine time (R24 to R30) -/

/-- Units of 10 ps in a link frame (R24). -/
def subPerLf : Nat := 8192

/-- `t + d`, d in 10 ps units (counter arithmetic of chapter 2). -/
def mtAdd (t : MTime) (d : Nat) : MTime :=
  let n := t.sub + d % 8192
  ⟨t.lfn + d / 8192 + n / 8192, n % 8192⟩

/-- `a − b` in 10 ps units. -/
def mtDiff (a b : MTime) : Int := ((a.lfn : Int) - b.lfn) * 8192 + ((a.sub : Int) - b.sub)

/-- `a` is earlier than `b`. -/
def mtBefore (a b : MTime) : Bool := a.lfn < b.lfn || (a.lfn == b.lfn && a.sub < b.sub)

/-- The count for a number of 10 ps units. -/
def mtOf (u : Nat) : MTime := ⟨u / 8192, u % 8192⟩

/-- The units of 10 ps of a count. -/
def mtUnits (t : MTime) : Nat := t.lfn * 8192 + t.sub

/-- `t − d`, stopping at 0. -/
def mtSub (t : MTime) (d : Nat) : MTime := mtOf (mtUnits t - d)

/-- A truncated 32-bit count extended against the current LFN `c` (R29). -/
def extend32 (t c : Nat) : Nat :=
  ((c : Int) + toSigned 32 (ofSigned 32 ((t : Int) - (c % 2 ^ 32 : Nat)))).toNat

/-- Link frames in a number of microseconds, rounded up (81.92 ns each). -/
def lfOfUs (us : Nat) : Nat := ceilDiv (us * 100000) 8192

/-- Link frames in a number of milliseconds, rounded up. -/
def lfOfMs (ms : Nat) : Nat := lfOfUs (ms * 1000)

/-- Link frames in a number of seconds, rounded up. -/
def lfOfS (sec : Nat) : Nat := lfOfUs (sec * 1000000)

/-- The time state of a node (Table 2.3). -/
def State.timeState (s : State) (p : Part) : Nat := s.rd (F.timeStatusTimeState p)

/-- The node is in VALID. -/
def State.timeValid (s : State) (p : Part) : Bool := s.timeState p == 2

/-- Enter a time state; time_valid follows it (R30). -/
def State.setTimeState (s : State) (p : Part) (st : Nat) : State :=
  (s.wr (F.timeStatusTimeState p) st).wr (F.timeStatusTimeValid p) (b2n (st == 2))

/-- The LFN of a node's own count. -/
def State.lfn (s : State) (p : Part) : Nat := (s.node p).lfn

/-- A node's own count. -/
def State.now (s : State) (p : Part) : MTime := ⟨(s.node p).lfn, (s.node p).sub⟩

/-- SUB at the latest time-clock edge: it advances by 256 from edge to edge, and values between edges exist only in
measurements and fire offsets (R24). -/
def Node.edgeSub (n : Node) : Nat := n.sub / 256 * 256

/-- A node whose clock has run on to the edge at or before a SUB of the present link frame; the count never moves back
(R24, R26). -/
def Node.runTo (n : Node) (sub : Nat) : Node := { n with sub := max n.sub (sub % 8192 / 256 * 256) }

/-- The count that a node exports (R30): its own in VALID, frozen in HOLD, none in NO_TIME. -/
def State.exported (s : State) (p : Part) : MTime :=
  let n := s.node p
  let st := s.timeState p
  if st = 2 then ⟨n.lfn, n.edgeSub⟩ else if st = 3 || (st = 1 && n.fromHold) then n.frozen else ⟨0, 0⟩

/-! ### Memory requests (R331) -/

/-- The TSU issues a memory request under the lowest free tag of 1,024; with none free it waits for a response. -/
def State.memRequest (s : State) (q : MemReq) : State :=
  match (List.range 1024).find? fun t => (fget? s.t.memReqs t).isNone with
  | some t => s.modT fun x => { x with memReqs := fset x.memReqs t q }
  | none => s.modT fun x => { x with memWait := x.memWait ++ [q] }

/-- A request of a kind is without its response. -/
def State.memOpen (s : State) (q : MemReq) : Bool := (s.t.memReqs.any fun x => x.2 == q) || s.t.memWait.contains q

/-- A write of a part to host memory; a distributor writes over PCI Express. -/
def State.memWrite (s : State) (p : Part) (q : MemReq) : State :=
  match p with
  | .tsu => s.memRequest q
  | .dbx => s

/-! ### Interrupts and error log (R359, R360) -/

/-- A common interrupt source's event: the status bit rises, and a message is sent when it was clear and its
enable is set. -/
def State.interrupt (s : State) (p : Part) (i : Nat) : State :=
  let st := s.rd (F.intStatusStatus p)
  if bit st i then s
  else
    let s1 := s.wr (F.intStatusStatus p) (setBit st i true)
    if bit (s.rd (F.intEnableEnable p)) i then
      match p with
      | .tsu => (s1.memRequest (.msix none)).emit .tsu (.msix (64 + i))
      | .dbx => s1.emit .dbx (.msix (256 + i))
    else s1

/-- The words of an error-log entry, Table 17.5. -/
def errWord (e : ErrEntry) : Nat → Nat
  | 0 => e.code % 2 ^ 16 + 2 ^ 16 * (e.port % 2 ^ 8)
  | 1 => e.arg % 2 ^ 32
  | 2 => e.lfn % 2 ^ 32
  | _ => e.lfn / 2 ^ 32 % 2 ^ 32

/-- The registers that show the error log. -/
def State.showErrlog (s : State) (p : Part) : State :=
  let l := (s.node p).errlog
  let s := s.wr (F.errlogStatusHeld p) l.length
  [0, 1, 2, 3].foldl (fun s w =>
    s.wr (F.errlogHeadEntry p) (match l with | [] => 0 | e :: _ => errWord e w) w) s

/-- Port number of an entry that concerns none. -/
def noPort : Nat := 0xFF

/-- An entry into the error log, or one dropped and counted when it holds 64; source 0 is raised for an entry
that is added. -/
def State.logErr (s : State) (p : Part) (code port : Nat) (arg : Nat) : State :=
  if 64 ≤ (s.node p).errlog.length then s.bump (F.errlogStatusLost p)
  else
    let e : ErrEntry := ⟨code, port, arg % 2 ^ 32, (s.exported p).lfn⟩
    (((s.modNode p fun n => { n with errlog := n.errlog ++ [e] }).showErrlog p).interrupt p 0)

/-- A bit of a _PORT_EVT register is set; its rise raises the link source. -/
def State.portEvent (s : State) (p : Part) (f : Fld) (i : Nat) : State :=
  if s.is f i then s else (s.wr f 1 i).interrupt p 3

/-! ### Dynamic records (R113) -/

/-- The merge of a record into its entry: counts add, saturating, the first source and LFN of the entry are
kept and the last replaced. -/
def dynAdd (e r : DynRec) : DynRec :=
  { e with count := min 65535 (e.count + r.count), lastSrc := r.lastSrc, lastKind := r.lastKind,
           lastLfn := r.lastLfn }

/-- The merge of a record into a list of entries, matched by type, code and source kind. -/
def dynInto (r : DynRec) : List DynRec → Option (List DynRec)
  | [] => none
  | e :: l =>
    if e.type = r.type && e.code = r.code && e.firstKind = r.firstKind then some (dynAdd e r :: l)
    else (dynInto r l).map (e :: ·)

/-- The record as the overflow entry keeps it: type 15, code 0. -/
def dynOverflow (r : DynRec) : DynRec := { r with type := 15, code := 0, firstKind := 0 }

/-- The merge of a record into a table of `cap` entries and one overflow entry. -/
def dynMerge (cap : Nat) (tbl : List DynRec) (r : DynRec) : List DynRec :=
  match dynInto r tbl with
  | some l => l
  | none =>
    if (tbl.filter (fun e => e.type ≠ 15)).length < cap then tbl ++ [r]
    else match dynInto (dynOverflow r) tbl with
      | some l => l
      | none => tbl ++ [dynOverflow r]

/-- The node's name in its own records (Table 5.8): role, UID hash or die slot. -/
def State.recSource (s : State) (p : Part) : Nat × Nat :=
  match p with
  | .dbx => (Config.uidHash (s.rd64 (F.uidLoUid .dbx) (F.uidHiUid .dbx)) % 2 ^ 22, 1)
  | .tsu => if s.is F.roleRoleValid then (s.rd F.roleRole, 0)
            else (bits (s.rd (F.portPeerInfoInfo .tsu)) 4 8, 2)

/-- A record that the node originates: type and code. -/
def State.record (s : State) (p : Part) (type code : Nat) : State :=
  let l := s.lfn p % 2 ^ 16
  let src := s.recSource p
  let r : DynRec := ⟨type, code, 1, src.1, src.2, src.1, src.2, l, l⟩
  s.modNode p fun n => { n with dyn := dynMerge 256 n.dyn r }

/-! ### Health scores (R271, R272, Table 12.5) -/

/-- Weight of input `i`. -/
def healthWeight (i : Nat) : Nat :=
  [128, 64, 64, 96, 32, 8, 4, 32, 32, 32, 128, 256, 256, 128, 32, 128, 512, 16, 512, 32, 8, 256, 256, 16, 256].getD i 0

/-- The inputs that are events. -/
def healthEvents : List Nat := [0, 1, 2, 3, 4, 5, 6, 7, 8, 9, 10, 17, 19, 20, 23]

/-- Number of ports of a part. -/
def portCount : Part → Nat
  | .tsu => 2
  | .dbx => 132

/-- Received power of a lane of a port lies below rxpwr_warn (R116). -/
def State.rxLow (s : State) (p : Part) (i : Nat) : Bool :=
  s.rdI (F.portRxpwrRxL0 p) i < s.rdI (F.linkCfgRxpwrWarn p)
    || s.rdI (F.portRxpwrRxL1 p) i < s.rdI (F.linkCfgRxpwrWarn p)

/-- Weight that the standing inputs 11 to 15 hold at one port. -/
def State.portStanding (s : State) (p : Part) (i : Nat) : Nat :=
  256 * s.rd (F.portTstatTdcFault p) i
    + (if s.is (F.portStatePinnedL0 p) i || s.is (F.portStatePinnedL1 p) i then 256 else 0)
    + (if s.rd (F.portStateState p) i = 1 && s.is (F.portCtrlExpected p) i then 128 else 0)
    + (if s.rxLow p i then 32 else 0)
    + 128 * s.rd (F.portTstatAsymMismatch p) i

/-- The ELS module that feeds a distributor port (R115). -/
def elsOfPort (i : Nat) : Nat :=
  if i < 128 then i / 16 else if i = 128 || i = 130 then 0 else 4

/-- A module is present and its enable is set. -/
def State.elsOn (s : State) (k : Nat) : Bool := s.is F.elsStatPresent k && bit (s.rd F.elsCtrlEn) k

/-- What the ELS warnings feed into the health score (R116): no input of Table 12.5 is theirs, so their weight is an open
value (log 152). -/
def State.elsWarnWeight (s : State) : Nat :=
  let n := ((List.range 8).filter fun k => s.is F.elsStatWarn k).length
  if n = 0 then 0 else Config.elsWarnWeight n

/-- Weight that the standing inputs of a node hold. -/
def State.nodeStanding (s : State) (p : Part) : Nat :=
  sumNat ((List.range (portCount p)).map (s.portStanding p)) +
  match p with
  | .tsu => 512 * s.rd F.fltStatusOosReq
  | .dbx => 512 * s.rd F.dhealthSramFail + (if 1000 < s.rdI F.thermStatusTj then 256 else 0)
      + 256 * ((List.range 132).filter fun i => s.is F.elsStatAlarm (elsOfPort i)).length + s.elsWarnWeight

/-- Key of an input's penalty: of the node, or of one port. -/
def penKey (i : Nat) : Option Nat → Nat
  | none => i
  | some port => 32 * (port + 1) + i

/-- The penalty of an input at the node or at a port. -/
def State.penalty (s : State) (p : Part) (i : Nat) (port : Option Nat := none) : Nat :=
  fgetD (s.node p).pen (penKey i port) 0

/-- The node score (R271). -/
def State.nodeScore (s : State) (p : Part) : Nat :=
  1023 - (sumNat (healthEvents.map fun i => s.penalty p i) + s.nodeStanding p)

/-- The score of a distributor port: inputs 9 to 15 and 24 (R272). -/
def State.portScore (s : State) (i : Nat) : Nat :=
  1023 - (s.penalty .dbx 9 (some i) + s.penalty .dbx 10 (some i) + s.portStanding .dbx i
    + 256 * s.rd (F.portTstatBadCable .dbx) i)

/-- The flags of DBX_PORT_HEALTH (Table 12.10). -/
def State.portHealthBits (s : State) (i : Nat) : Nat :=
  s.rd (F.portTstatBadCable .dbx) i + 2 * b2n (s.rd (F.portStateState .dbx) i == 1)
    + 4 * b2n (s.is (F.portStatePinnedL0 .dbx) i || s.is (F.portStatePinnedL1 .dbx) i)
    + 8 * s.rd (F.portTstatAsymMismatch .dbx) i + 16 * s.rd (F.portTstatTdcFault .dbx) i
    + 32 * b2n (s.is F.elsStatWarn (elsOfPort i) || s.is F.elsStatAlarm (elsOfPort i))

/-- A port is UP (Table 5.7). -/
def State.up (s : State) (p : Part) (i : Nat) : Bool := s.rd (F.portStateState p) i == 4

/-- A port has been UP throughout since a count (R125). -/
def State.upSince (s : State) (p : Part) (i c : Nat) : Bool := s.up p i && (s.port p i).upAt ≤ c

/-- Uplink ports of a part. -/
def uplinks : Part → List Nat
  | .tsu => [0, 1]
  | .dbx => [128, 129]

/-- A message joins a queue of a port's S7 area in segments of 32 bytes (R112): of key messages, kind 3, or of management
messages, kind 1. -/
def State.queueMsg (s : State) (p : Part) (port kind channel : Nat) (bs : List Byte) : State :=
  s.modPort p port fun t =>
    let l := segmentsOf kind channel t.msgSeq bs
    if kind = 3 then { t with keyQ := t.keyQ ++ l, msgSeq := (t.msgSeq + 1) % 256 }
    else { t with mgmtQ := t.mgmtQ ++ l, msgSeq := (t.msgSeq + 1) % 256 }

/-- A key message of a port waits for its S7 (R291). -/
def State.sendKey (s : State) (p : Part) (port type : Nat) (vals : List Nat) : State :=
  s.queueMsg p port 3 0 (keyBytes type vals)

/-- A management message of channel 2 upward (R256): type, the die's or node's partition, values. It climbs both
uplinks. -/
def State.mgmtUp (s : State) (p : Part) (type partition : Nat) (vals : List Nat) : State :=
  (uplinks p).foldl (fun s port => s.queueMsg p port 1 2 (mgmtBytes type partition vals)) s

/-- The TSU sends an expulsion request (R273). -/
def State.expelRequest (s : State) : State :=
  if s.is F.roleRoleValid then
    ((s.mgmtUp .tsu 5 (s.t.partition.getD 0) [s.rd F.roleRole, s.rd F.thealthScore % 256]).wr
      F.thealthExpelReq 1).modT fun t => { t with expelAt := some s.tsu.lfn }
  else s

/-- The scores follow their inputs; a TSU with a role whose score first falls below expel_score asks for
expulsion (R271, R273). -/
def State.scoreTsu (s : State) : State :=
  let old := s.rd F.thealthScore
  let new := s.nodeScore .tsu
  let s := s.wr F.thealthScore new
  if s.rd F.thealthCfgExpelScore ≤ old && new < s.rd F.thealthCfgExpelScore then s.expelRequest else s

/-- A distributor port's score and flags follow their inputs. -/
def State.scorePort (s : State) (i : Nat) : State :=
  (s.wr F.portHealthScore (s.portScore i) i).wr F.portHealthFlags (s.portHealthBits i) i

/-- The scores of a part follow their inputs, with those of one port. -/
def State.score (s : State) (p : Part) (port : Option Nat := none) : State :=
  match p with
  | .tsu => s.scoreTsu
  | .dbx =>
    let s := s.wr F.dhealthScore (s.nodeScore .dbx)
    match port with
    | none => s
    | some i => s.scorePort i

/-- An event input occurs: its weight is added to its penalty, saturating at 1,023, at the node and, for the
inputs 9 and 10 of a distributor, at the port. -/
def State.penalise (s : State) (p : Part) (i : Nat) (port : Option Nat := none) : State :=
  let add := fun (m : FMap Nat) k => fset m k (min 1023 (fgetD m k 0 + healthWeight i))
  let s := s.modNode p fun n => { n with pen := add n.pen (penKey i none) }
  let s := match port with
    | some q => if p == Part.dbx && (i == 9 || i == 10) then
        s.modNode p fun n => { n with pen := add n.pen (penKey i (some q)) } else s
    | none => s
  s.score p port

/-- The channel table's cache of 4,096 entries is looked up (R215): with more channels in use a miss is open (log 9); it
counts, and reads the carve-out. -/
def State.cacheLook (s : State) (idx : Nat) : State :=
  if s.t.chans.length ≤ 4096 then s
  else
    let v := s.draw
    if v.1 % 2 = 0 then v.2 else (v.2.bump F.chCacheMissCount).memRequest (.carve idx false)

/-! ### Rings: completions (R199, R200, R208) -/

/-- Kind of a ring pair: 0 unbound, 1 open, 2 tenant, 3 manager; ring pair 0 reads 1 (Table 9.10). -/
def State.ringKind (s : State) (p : Part) (r : Nat) : Nat := s.rd (F.ringStatusKind p) r

/-- Number of ring pairs (R195). -/
def ringCount : Part → Nat
  | .tsu => 64
  | .dbx => 256

/-- The completion ring has no space. -/
def State.cqFull (s : State) (p : Part) (r : Nat) : Bool :=
  2 ^ s.rd (F.ringCfgCqLog2 p) r
    ≤ (s.rd (F.ringCqTailWritten p) r + 2 ^ 32 - (s.ring p r).cqHead) % 2 ^ 32

/-- The ring pair's message covers every completion written before it; a TSU's waits for the responses to the ring's
writes (R200, R331). -/
def State.message (s : State) (p : Part) (r : Nat) : State :=
  if p == Part.tsu && s.memOpen (.ring r true) then s.modRing p r fun t => { t with unsig := [], irqOwed := true }
  else
    ((s.memWrite p (.msix (some r))).emit p (.msix (s.rd (F.ringCfgVector p) r))).modRing p r fun t =>
      { t with unsig := [], irqOwed := false }

/-- The ring pair's message is sent when its moderation says so (R200). -/
def State.signal (s : State) (p : Part) (r : Nat) : State :=
  let n := (s.ring p r).unsig.length
  if 0 < n && (max 1 (s.rd (F.ringModModCount p) r) ≤ n || s.rd (F.ringModModTime p) r = 0) then s.message p r
  else s

/-- One completion is written into a ring with space: phase 1 on the first pass, inverted on each later one. -/
def State.writeCompletion (s : State) (p : Part) (r : Nat) (c : Completion) : State :=
  let w := s.rd (F.ringCqTailWritten p) r
  let ph := if w / 2 ^ s.rd (F.ringCfgCqLog2 p) r % 2 = 0 then 1 else 0
  let s := ((s.memWrite p (.ring r true)).emit p (.completion r ph c)).wr (F.ringCqTailWritten p) (w + 1) r
  if c.irq then
    (s.modRing p r fun t => { t with unsig := t.unsig ++ [s.lfn p] }).signal p r
  else s

/-- A completion is written, or waits while the ring is full or others wait (R199); the first that waits stops
the submission ring's fetching, which _RING_CQ_WAIT counts. -/
def State.complete (s : State) (p : Part) (r : Nat) (c : Completion) : State :=
  if s.cqFull p r || !(s.ring p r).waiting.isEmpty then
    let s := if (s.ring p r).waiting.isEmpty then s.bump (F.ringCqWaitCount p) r else s
    s.modRing p r fun t => { t with waiting := t.waiting ++ [c] }
  else s.writeCompletion p r c

/-- A completion follows the responses to its descriptor's result writes (R199, R331). -/
def State.completeAfter (s : State) (p : Part) (r seq : Nat) (c : Completion) : State :=
  if p == Part.tsu && s.memOpen (.result r seq) then s.modRing p r fun t => { t with held := t.held ++ [(seq, c)] }
  else s.complete p r c

/-- The tag of a result, use 2, under the key of the descriptor's binding (R202); 0 on the open ring. -/
def State.resultTag (s : State) (p : Part) (r seq : Nat) (bs : List Byte) : Nat :=
  match (s.ring p r).flight.find? fun f => f.seq == seq with
  | some f => if f.kind = 1 then 0 else Config.gcmTag f.key (seq % 2 ^ 64 + 2 * 2 ^ 64) bs
  | none => 0

/-- A result of `len` bytes is written before its completion (R199, R202), filled with 0. -/
def State.result (s : State) (p : Part) (r seq : Nat) (d : Desc) (bs : List Byte) : State :=
  let bytes := bs ++ List.replicate (d.resLen - bs.length) 0
  (s.memWrite p (.result r seq)).emit p (.result d.resAddr bytes (s.resultTag p r seq bytes))

/-- The completion of kind 0 of a descriptor (Table 9.2). -/
def descCompletion (d : Desc) (seq status q2 aux : Nat) : Completion :=
  { kind := 0, q0 := d.cookie, q1 := seq, q2 := q2, aux := aux, status := status, opcode := d.opcode,
    irq := bit d.flags 0 }

/-- The descriptor in flight with a sequence number. -/
def State.inFlight (s : State) (p : Part) (r seq : Nat) : Option InFlight :=
  (s.ring p r).flight.find? fun f => f.seq == seq

/-- A descriptor in flight ends with a status: it leaves the ring's list, a status other than OK counts in
_DESC_REFUSED, and its completion is written or waits, unless it has been discarded (R349). A descriptor forwarded to a
shadow ends without a completion (R167). -/
def State.finish (s : State) (p : Part) (r seq status q2 aux : Nat) : State :=
  match s.inFlight p r seq with
  | none => s
  | some f =>
    let s := s.modRing p r fun t => { t with flight := t.flight.filter fun g => g.seq != seq }
    if ringCount p ≤ r then s
    else
      let s := if status = 0 then s else s.bump (F.descRefusedCount p)
      if f.mute then s else s.completeAfter p r seq (descCompletion f.desc (seq % 2 ^ 64) status q2 aux)

/-- A descriptor that names a channel (Table 9.3): a conductor's CH_CREATE gives the handle itself. -/
def namesChannel (p : Part) (d : Desc) : Bool :=
  (p == Part.tsu && d.opcode == 1) || (2 ≤ d.opcode && d.opcode ≤ 6) || d.opcode == 0x30

/-- Two descriptors name one channel. -/
def sameChannel (p : Part) (a b : Desc) : Bool :=
  namesChannel p a && namesChannel p b && a.handle % 2 ^ 18 == b.handle % 2 ^ 18

/-- A descriptor may take effect (R198): every earlier one of its ring has, and every one of the part that names its
channel and started before it. -/
def State.mayStart (s : State) (p : Part) (r : Nat) (f : InFlight) : Bool :=
  f.begun ||
    (((s.ring p r).flight.takeWhile fun g => g.seq != f.seq).all (·.begun)
      && (s.node p).rings.all fun x => x.2.flight.all fun g =>
        g.begun || !g.committed || f.order ≤ g.order || !sameChannel p f.desc g.desc)

/-- A descriptor in flight takes effect. -/
def State.begin_ (s : State) (p : Part) (r seq : Nat) : State :=
  s.modRing p r fun t => { t with flight := t.flight.map fun g => if g.seq = seq then { g with begun := true } else g }

/-- The meaning of a descriptor row: the part works, the descriptor is in flight with one of the row's
opcodes and, when it is one of the conductor's, has been committed, and none stands before it; else nothing (log 3). -/
def State.withDesc (s : State) (p : Part) (r seq opcode : Nat) (f : InFlight → State → State) : State :=
  match s.inFlight p r seq with
  | none => s
  | some d => if d.desc.opcode = opcode && d.committed && s.mayStart p r d then f d (s.begin_ p r seq) else s

/-- Unsigned operand of a descriptor, by byte offset within the body (Table 9.1: operands are bytes 40–47). -/
def opnd (d : Desc) (byte n : Nat) : Nat := leNat d.ops (byte - 40) n

/-! ### Handles (R210) and messages -/

/-- Index and generation of a handle. -/
def hIndex (h : Nat) : Nat := h % 2 ^ 18
def hGen (h : Nat) : Nat := h / 2 ^ 18 % 2 ^ 14
def mkHandle (gen idx : Nat) : Nat := gen * 2 ^ 18 + idx

/-- Current generation of an index at a part; 1 before any teardown (log 8). -/
def State.gen (s : State) (p : Part) (idx : Nat) : Nat := fgetD (s.node p).gens idx (s.node p).genDef

/-- The generation after `g`: 1 to 16,383, then 1 again (R210). -/
def nextGen (g : Nat) : Nat := if 16383 ≤ g then 1 else g + 1

/-- The index is in quarantine. -/
def State.inQuarantine (s : State) (p : Part) (idx : Nat) : Bool :=
  (fget? (s.node p).quar idx).isSome || (s.node p).quarAll.isSome

/-- Length of a quarantine in link frames, from max_life in 10 µs units, at least 10 (R212). -/
def State.quarantineLf (s : State) (p : Part) : Nat := lfOfUs (10 * max 10 (s.rd (F.chCfgMaxLife p)))

/-- The index takes its next generation and enters quarantine from the count `from_` (R212). -/
def State.teardown (s : State) (p : Part) (idx from_ : Nat) : State :=
  let q := s.quarantineLf p
  let s := s.modNode p fun n => { n with gens := fset n.gens idx (nextGen (fgetD n.gens idx n.genDef)),
                                         quar := fset n.quar idx (from_ + q) }
  ((s.wr (F.chCountInUse p) (s.rd (F.chCountInUse p) - 1)).bump (F.chQuarQuarantined p)).bump
    (F.chDestroyedCount p)

/-- The port of the pair traffic: X0, or X1 while it serves in its place (R278). -/
def State.xPort (s : State) : Nat := if s.is F.x1CfgActive then 131 else 130

/-- The node configuration in force (R22, R316): level, side B and root bit as the end of B3 has latched them, kept
until the next reset; before the end of B3 what DBX_NODE_CFG holds (log 135). -/
def State.nodeConfig (s : State) : Nat × Bool × Bool :=
  s.d.nodeCfg.getD (s.rd F.nodeCfgLevel, s.is F.nodeCfgSide, s.is F.nodeCfgRoot)

/-- The distributor's level (R22). -/
def State.level (s : State) : Nat := s.nodeConfig.1

/-- The distributor is member B of its pair (R22). -/
def State.sideB (s : State) : Bool := s.nodeConfig.2.1

/-- The distributor is a member of the root pair (R22). -/
def State.isRoot (s : State) : Bool := s.nodeConfig.2.2

/-- B3 ends: the node configuration takes effect until the next reset (R22), and member B is the shadow: at reset member A
is active (R166). -/
def State.latchConfig (s : State) : State :=
  let s := s.modD fun d => { d with nodeCfg := some s.nodeConfig }
  if s.sideB then s.wr F.condStatusRole 1 else s

/-- Entry `e` of a template. -/
def State.tmplEntry (s : State) (p : Part) (t e : Nat) : Nat :=
  bits (s.rd (F.slotTmplEntries p) t (e / 2)) (16 * (e % 2)) 14

/-- Class and share of an entry (Table 5.6). -/
def entryClass (e : Nat) : Nat := bits e 0 3
def entryShare (e : Nat) : Nat := bits e 3 11

/-- The templates that a port names; a TSU has 4. -/
def State.txTmpl (s : State) (p : Part) (port : Nat) : Nat :=
  match p with
  | .tsu => s.rd (F.portCtrlTxTmpl p) port % 4
  | .dbx => s.rd (F.portCtrlTxTmpl p) port
def State.rxTmpl (s : State) (p : Part) (port : Nat) : Nat :=
  match p with
  | .tsu => s.rd (F.portCtrlRxTmpl p) port % 4
  | .dbx => s.rd (F.portCtrlRxTmpl p) port

/-- The shares of a partition that have positions of a class in the layout in force of a port's transmit template; a TSU
ignores shares (R95). -/
def State.sharesOf (s : State) (p : Part) (port cls partition : Nat) : List Nat :=
  match p with
  | .tsu => [0]
  | .dbx =>
    let lanes := s.rd (F.portStateTxLanes p) port
    let r := if lanes = 1 || lanes = 2 then (List.range 48).map (96 + ·) else List.range 96
    (r.filterMap fun i =>
      let e := s.tmplEntry .dbx (s.txTmpl .dbx port) i
      let k := entryShare e
      if entryClass e = cls && s.is F.shareValid k && s.rd F.sharePartition k = partition then some k else none).eraseDups

/-- Items that wait in the queue of a share and class (R98). -/
def PortRt.waitingFor (t : PortRt) (cls share : Nat) : Nat :=
  (t.queue.filter fun q => q.cls == cls && q.share == share).length

/-- The queue that an item of a partition joins: that of the partition's share with the fewest items waiting, the first of
several, since the spec does not say which of a partition's shares a message uses (R98, log 147); share 0 where the template
has none. -/
def State.shareFor (s : State) (p : Part) (port cls partition : Nat) : Nat :=
  let t := s.port p port
  let l := s.sharesOf p port cls partition
  l.foldl (fun a k => if t.waitingFor cls k < t.waitingFor cls a then k else a) (l.headD 0)

/-- The far end takes plan content: it has not said that its port is in another state than UP (R107). -/
def State.peerTakes (s : State) (p : Part) (port : Nat) : Bool := ((s.port p port).pState.getD 4) == 4

/-- Plan content is queued, slot by slot, for a port that is UP at both ends (R98, R107, R174); for any other port it is
dropped and counts. -/
def State.enqueue (s : State) (p : Part) (port cls partition : Nat) (c : Content) : State :=
  if s.up p port && s.peerTakes p port then
    let k := s.shareFor p port cls partition
    let n := (s.port p port).stream
    let slots := (contentSlots n c).length
    s.modPort p port fun t =>
      { t with stream := (n + 1) % 2 ^ 16,
               queue := t.queue ++ (List.range slots).map fun i => ⟨cls, partition, k, c, n, i⟩ }
  else s.bump (F.portDropCount p) port

/-- The message is queued on both uplinks (R170). -/
def State.sendUp (s : State) (p : Part) (cls partition : Nat) (c : Content) : State :=
  (uplinks p).foldl (fun s port => s.enqueue p port cls partition c) s

/-! ### The state record (R294, R296) -/

/-- Part code of a part (Table 0.1). -/
def partCode : Part → Nat
  | .tsu => 0x5407
  | .dbx => 0xD784

/-- owner_mode: 0 fused, 1 first-claim, 2 unclaimed. -/
def State.ownerMode (s : State) (p : Part) : Nat :=
  if !(Config.ownerDigests (partCode p)).isEmpty then 0 else if (s.node p).claimed.isSome then 1 else 2

/-- Some role of a layout record is flagged. -/
def State.anyFlagged (s : State) : Bool :=
  !s.d.notReady.isEmpty || !s.d.retPods.isEmpty || (List.range 64).any fun i => s.rd F.insertState i % 2 == 1

/-- PARTIAL_RESET (R296). -/
def State.partialReset (s : State) : Part → Bool
  | .tsu => s.rd F.fltStatusCmpState != 0
  | .dbx => !s.is F.condStatusInStep || !s.up .dbx s.xPort || s.anyFlagged

/-- Bits 6:0 of the state record, Table 13.6. -/
def State.secBits (s : State) (p : Part) : Nat :=
  b2n (!(s.node p).staged.isEmpty) + 2 * b2n (s.partialReset p) + 4 * b2n (s.node p).scrub.isSome
    + 8 * s.rd (F.timeStatusProvisional p) + 16 * (Config.debugEnabled (partCode p) % 2) + 32 * s.ownerMode p

/-- DBX_SEC_STATUS follows what it shows. -/
def State.showSec (s : State) : State :=
  (s.wr F.dsecStatusState (s.secBits .dbx)).wr F.dsecStatusSessions s.dbx.sessions.length

/-- DBX_BOOT_STATUS.children_valid (Table 14.6): downlinks whose child reports time_valid. -/
def State.showChildren (s : State) (p : Part) : State :=
  match p with
  | .tsu => s
  | .dbx => s.wr (F.bootStatusChildrenValid .dbx) (satN 8 ((List.range 128).filter fun i => (s.port .dbx i).cValid).length)

/-! ### The boot record (R309) -/

/-- A field that the boot record holds: node configuration, starts, records, policy, and the counts of the ports. -/
def bootKey (k : Nat) : Bool :=
  let off := k / 32
  let lo := k % 32
  off == 0x400 || off == 0x408 || (0x440 ≤ off && off < 0x4C0 && off % 8 == 0) || (0x500 ≤ off && off < 0x540)
    || (0x10000 ≤ off && off < 0x31000 && (off - 0x10000) % 0x400 == 0x120 && (lo == 0 || lo == 16))

/-- A distributor writes its boot record. -/
def State.saveBoot (s : State) : State := s.modD fun d => { d with store := some (s.dbx.regs.filter fun x => bootKey x.1) }

/-- The store of a part takes the record of a step: a distributor's boot record, or the root of trust's store (R309). -/
def State.storeRec (s : State) (p : Part) (k : Nat) : State :=
  let s := s.emit p (.bootStore k (s.rd (F.bootRecConsecFail p) k) (s.rd (F.bootRecLastCode p) k))
  match p with
  | .tsu => s
  | .dbx => s.saveBoot

/-! ### The part's own clock -/

/-- The count of a part runs on by one core clock period of 2.56 ns within its link frame. -/
def Node.idle (n : Node) : Node :=
  if n.live then { n with sub := if n.sub + 256 ≤ 7936 then n.sub + 256 else n.sub } else n

/-- The counts of both parts run on while no command waits (log 11). -/
def State.idle (s : State) : State := { s with tsu := s.tsu.idle, dbx := s.dbx.idle }

/-! ### The front end's registers (R194) -/

/-- Logits held at the die, and the registers that show the front end. -/
def State.rfeHeld (s : State) : Nat := sumNat (s.t.logits.map fun b => b.logits.length)
def State.showRfe (s : State) : State :=
  (s.wr F.rfeStatusOpen s.t.rfe.length).wr F.rfeStatusHeld s.rfeHeld

/-! ### Views that a select register shows -/

/-- DBX_PERI_VIEW shows the selected peristome (Table 6.12). -/
def State.showPeri (s : State) : State :=
  let k := s.rd F.periSelIndex
  let r := fgetD s.d.peris k ⟨0, 0, 0, 0, none, false, false⟩
  let held := (s.d.chans.filter fun c => c.2.wait == .peri k).length
  (((s.wr F.periViewState r.state).wr F.periViewTsuIndex r.tsuIndex).wr F.periViewOp r.op).wr F.periViewHeld held

/-- DBX_COND_PLAN_INFO shows the selected plan (Table 7.10). -/
def State.showPlan (s : State) : State :=
  let o := fget? s.d.plans (s.rd F.condPlanSelPlan)
  let g := fun (f : Plan → Nat) => match o with | some q => f q | none => 0
  (((((s.wr F.condPlanInfo0Slot (g (·.slot))).wr F.condPlanInfo0Valid (g fun _ => 1)).wr
    F.condPlanInfo0Retiring (g fun q => b2n q.retiring)).wr F.condPlanInfo0VariantsM1
    (g fun q => q.variants.length - 1)).wr F.condPlanInfo1FirstPage (g (·.firstPage))).wr
    F.condPlanInfo1Pages (g (·.pages))

/-- A plan is bound in a partition slot. -/
def State.slotBound (s : State) (slot : Nat) : Bool := s.d.plans.any fun q => q.2.slot == slot

/-- A partition has a bound plan. Its apex knows by its plan store; no message of the spec tells a node below the apex, where
it is an open value (R97, R122, log 149). -/
def State.partitionBound (s : State) (q : Nat) : Bool :=
  (s.d.plans.any fun x => s.rd F.condPartPartition x.2.slot == q)
    || (!((List.range 256).any fun i => s.is F.condPartValid i && s.is F.condPartApex i && s.rd F.condPartPartition i == q)
      && Config.boundBelow q s.dbx.lfn % 2 == 1)

/-! ### Routing tables (R122) -/

/-- The selected entry of a routing table. -/
def State.tblEntry (s : State) (table index : Nat) : Nat :=
  match table with
  | 0 => fgetD s.d.tScope index 0
  | 1 => fgetD s.d.tRoute index 0
  | 2 => fgetD s.d.tExc index 0
  | _ => 0

/-- The data registers show the selected entry. -/
def State.showTbl (s : State) : State :=
  let e := s.tblEntry (s.rd F.tblSelTable) (s.rd F.tblSelIndex)
  (List.range 4).foldl (fun s w => s.wr F.tblDataData (bits e (32 * w) 32) w) s

/-- An entry of a routing table takes a value. -/
def DbxState.putTbl (d : DbxState) (x : Nat × Nat × Nat) : DbxState :=
  match x.1 with
  | 0 => { d with tScope := fput d.tScope x.2.1 0 x.2.2 }
  | 1 => { d with tRoute := fput d.tRoute x.2.1 0 x.2.2 }
  | _ => { d with tExc := fput d.tExc x.2.1 0 x.2.2 }

/-- The table writes of a link frame take effect, each whole, before the next one (R122). -/
def State.applyTables (s : State) : State :=
  if s.d.tblPend.isEmpty then s
  else (s.modD fun d => { d.tblPend.foldl DbxState.putTbl d with tblPend := [] }).showTbl

end Sys2Proof.Machine
end

