-- ==== Sys2Proof/Machine/TimeOps.lean ====
section
/-! DEFINITION. Shared operations of machine time: parents and the time port (R30, R31, R58), the statistics
of a measurement set (R49), echo sets (R52, R56, R57) and the correction of the count. -/

namespace Sys2Proof.Machine

/-! ### Parents -/

/-- The ports from which a node may take time: P0 and P1; U0 and U1, or X0 for a root member (R30). -/
def State.parentPorts (s : State) : Part → List Nat
  | .tsu => [0, 1]
  | .dbx => if s.isRoot then [s.xPort] else [128, 129]

/-- The port is in a state in which the node takes time from it: UNKEYED, UP or SCRUB (R107). -/
def State.servesTime (s : State) (p : Part) (port : Nat) : Bool :=
  [3, 4, 6].contains (s.rd (F.portStateState p) port)

/-- The parent at a port is up and time-valid (R30). -/
def State.parentValid (s : State) (p : Part) (port : Nat) : Bool :=
  (s.parentPorts p).contains port && s.servesTime p port && (s.port p port).pValid

/-- The other parent port, if any. -/
def otherParent : Part → Nat → Option Nat
  | .tsu, 0 => some 1
  | .tsu, 1 => some 0
  | .dbx, 128 => some 129
  | .dbx, 129 => some 128
  | _, _ => none

/-- The code of a port in time_port (Table 2.5). -/
def timePortCode : Part → Nat → Nat
  | .tsu, port => port
  | .dbx, port => min 2 (port - 128)

/-- The port that supplies the node's time; none while it is the node's own reference. -/
def State.timePort (s : State) (p : Part) : Option Nat :=
  let c := s.rd (F.timeStatusTimePort p)
  match p with
  | .tsu => some c
  | .dbx => if c = 3 then none else some (if c = 2 then s.xPort else 128 + c)

/-- A port becomes the time port (R58). -/
def State.takeTimePort (s : State) (p : Part) (port : Nat) : State :=
  let s := (s.parentPorts p).foldl (fun s q => s.wr (F.portTstatTimePort p) (b2n (q == port)) q) s
  s.wr (F.timeStatusTimePort p) (timePortCode p port)

/-- No port supplies the node's time any more (R31, Table 3.3). -/
def State.dropTimePort (s : State) (p : Part) : State :=
  (s.parentPorts p).foldl (fun s q => s.wr (F.portTstatTimePort p) 0 q) s

/-- The port currently supplies the node's time: it is the time port of a node in ACQUIRE or VALID (R30, R58). -/
def State.suppliesTime (s : State) (p : Part) (port : Nat) : Bool :=
  [1, 2].contains (s.timeState p) && s.timePort p == some port

/-- A lane of a port has received power above −16.00 dBm together with block lock (R108). -/
def State.lit (s : State) (p : Part) (port : Nat) : Bool :=
  ((s.port p port).lock0 && -1600 < s.rdI (F.portRxpwrRxL0 p) port)
    || ((s.port p port).lock1 && -1600 < s.rdI (F.portRxpwrRxL1 p) port)

/-- A change of what a port receives; the count at which its last lit lane goes out is kept (R108). -/
def State.withLight (s : State) (p : Part) (port : Nat) (f : State → State) : State :=
  let s1 := f s
  if s.lit p port && !s1.lit p port then s1.modPort p port fun t => { t with darkAt := s1.lfn p } else s1

/-- Neither lane of the port has been lit for 122 link frames (R108). -/
def State.darkLong (s : State) (p : Part) (port : Nat) : Bool :=
  !s.lit p port && (s.port p port).darkAt + 122 ≤ s.lfn p

/-- The port's transmitter drives its fibre: a distributor's ELS module is present and enabled (R115), and the port is not in
internal loopback (R111). -/
def State.drivesFibre (s : State) (p : Part) (port : Nat) : Bool :=
  s.rd (F.portCtrlLoop p) port ≠ 1 && match p with
    | .tsu => true
    | .dbx => s.elsOn (elsOfPort port)

/-- Blocks go through the scrambler of a lane and onto the fibre (R86). -/
def State.sendLane (s : State) (p : Part) (port lane : Nat) (blocks : List (Nat × Nat)) : State :=
  if s.drivesFibre p port then
    let t := s.port p port
    let r := scramble (if lane = 0 then t.scr0 else t.scr1) blocks
    (s.modPort p port fun t => if lane = 0 then { t with scr0 := r.2 } else { t with scr1 := r.2 }).emit p
      (.lane port lane r.1)
  else s

/-- A time-clock period in SUB, which is also the time of one block (R24, R86), and a phase rounded up to a whole one within
the link frame (R88). -/
def ceilEdge (u : Nat) : Nat := (u + 255) / 256 * 256 % 8192

/-- The phase ψ at which content from the time port is released: 117.44 ns after the start of the parent's link frame arrives
at the position `t2`, in 1.25 ps, rounded up to a whole time-clock period (R88, R101). -/
def psiAt (t2 : Nat) : Nat := ceilEdge (t2 % 2 ^ 16 / 8 + 11744)

/-- The downlinks move to the phase ψ: each port that is not DISABLED inserts fill on both lanes alike to reach it, and sets
the rephase event (R88). -/
def State.rephase (s : State) (p : Part) (psi : Nat) : State :=
  match p with
  | .tsu => s
  | .dbx =>
    let n := (8192 + psi - s.dbx.psi % 8192) % 8192 / 256
    if s.dbx.psi = psi then s
    else
      let s := s.modNode .dbx fun n => { n with psi := psi }
      (List.range 128).foldl (fun s i =>
        if s.rd (F.portStateState .dbx) i = 0 then s
        else ((s.sendLane .dbx i 0 (List.replicate n fillBlock)).sendLane .dbx i 1 (List.replicate n fillBlock)).portEvent
          .dbx (F.portEvtRephase .dbx) i) s

/-! ### Region repeaters -/

/-- A region repeater. -/
def State.region (s : State) (r : Nat) : RegionRt := fgetD s.t.regions r {}

/-- `s` with a region repeater changed. -/
def State.modRegion (s : State) (r : Nat) (f : RegionRt → RegionRt) : State :=
  s.modT fun t => { t with regions := fmod t.regions r {} f }

/-! ### Sets (R49) -/

/-- One sample into a set, in 0.625 ps units. -/
def StatAcc.sample (a : StatAcc) (x : Int) (rtt : Int := 0) : StatAcc :=
  { n := a.n + 1, tmo := a.tmo, sum := a.sum + x, sq := a.sq + (x * x).toNat,
    lo := if a.n = 0 || x < a.lo then x else a.lo,
    hi := if a.n = 0 || a.hi < x then x else a.hi, rtt := a.rtt + rtt }

/-- One timeout into a set. -/
def StatAcc.miss (a : StatAcc) : StatAcc := { a with tmo := a.tmo + 1 }

/-- The mean of a set, a tie to even; 0 of an empty set. -/
def StatAcc.mean (a : StatAcc) : Int := if a.n = 0 then 0 else divEven a.sum a.n

/-- √v ÷ n rounded to the nearest integer, a tie to even, exactly: the quotient q is raised to q + 1 where
√v lies beyond (q + ½)·n, or on it with q odd. -/
def nearestRoot (v n : Nat) : Nat :=
  let q := isqrt v / n
  let half := (2 * q + 1) * n
  if half * half < 4 * v then q + 1
  else if half * half = 4 * v && q % 2 = 1 then q + 1 else q

/-- The population deviation of a set. -/
def StatAcc.sd (a : StatAcc) : Nat :=
  if a.n = 0 then 0 else nearestRoot ((a.n * a.sq : Nat) - a.sum * a.sum).toNat a.n

/-- Mean round trip of the exchanges of a set. -/
def StatAcc.meanRtt (a : StatAcc) : Int := if a.n = 0 then 0 else divEven a.rtt a.n

/-- Attempts made. -/
def StatAcc.tried (a : StatAcc) : Nat := a.n + a.tmo

/-! ### Echo sets (R52 to R57) -/

/-- The difference of two echo stamps, counts of 1.25 ps modulo 2^32 (R91). -/
def stampDiff (a b : Nat) : Int := toSigned 32 (ofSigned 32 ((a : Int) - b))

/-- The asymmetry record of a port: the cable field, and on a TSU the package field with it (R54). -/
def State.asymRecord (s : State) (p : Part) (port : Nat) : Int :=
  s.rdI (F.portAsymCable p) port + match p with
    | .tsu => s.rdI (F.portAsymPkg .tsu) port
    | .dbx => 0

/-- The record an exchange of a port applies: the one written, from the first exchange of an echo set on, and
within the set the one it began with (R55). -/
def State.asymApplied (s : State) (p : Part) (port : Nat) : Int :=
  if (s.port p port).acc.tried = 0 then s.asymRecord p port else (s.port p port).asym

/-- A lateral port is the child end of the echo exchange: member B's, and in the root pair that of the member that
is not time master while the other is (R52, R70). -/
def State.lateralChild (s : State) (port : Nat) : Bool :=
  if s.isRoot && s.is F.selStatusMaster then false
  else if s.isRoot && (s.port .dbx port).pMaster then true
  else s.sideB

/-- The port is the child end of its hop's echo exchange: P0, P1, U0, U1, and X0 and X1 on the one member
(R52, R70). -/
def State.childEnd (s : State) (p : Part) (port : Nat) : Bool :=
  match p with
  | .tsu => port < 2
  | .dbx => port == 128 || port == 129 || ((port == 130 || port == 131) && s.lateralChild port)

/-- The length of an echo set (R56). -/
def State.echoSetLen (s : State) (p : Part) : Nat := s.rd (F.trackCfgTrackN p) + 1

/-- The echo set that runs on a port has made all its attempts. -/
def State.echoSetDone (s : State) (p : Part) (port : Nat) : Bool :=
  (s.port p port).acc.tried == s.echoSetLen p

/-- The set that ends now on a port is discarded: one marked by a lane change, and one that overlaps the ramp
of a step (R53, R77). -/
def State.setDiscarded (s : State) (p : Part) (port : Nat) : Bool :=
  (s.port p port).discard || match (s.node p).ramp with
    | some r => r.l0 ≤ s.lfn p
    | none => false

/-- The timeout of an exchange of a set that software started in mode 0 on this port (R48, R53). -/
def State.tdcMiss (s : State) (p : Part) (port : Nat) : State :=
  s.modNode p fun n => match n.tdc with
    | some t => if t.port = port && t.mode = 0 && t.acc.tried < t.req then
        { n with tdc := some { t with acc := t.acc.miss } } else n
    | none => n

/-- An exchange of a port yields a timeout (R53): of its echo set, and of a set that software started in mode 0. -/
def State.exchangeMiss (s : State) (p : Part) (port : Nat) : State :=
  let full := s.echoSetDone p port
  let a := s.asymApplied p port
  (s.modPort p port fun t => if full then t else { t with acc := t.acc.miss, asym := a }).tdcMiss p port

/-- The port exchanges echoes: UNKEYED, UP, ISOLATED or SCRUB (R107). -/
def State.echoing (s : State) (p : Part) (port : Nat) : Bool :=
  [3, 4, 5, 6].contains (s.rd (F.portStateState p) port)

/-- A block or a reply that fails its S0 check is an exchange with no sample (R53). -/
def State.echoMiss (s : State) (p : Part) (port : Nat) : State :=
  if s.echoing p port then s.exchangeMiss p port else s

/-- Every open exchange of a port yields a timeout (R53, a change of lane state). -/
def State.echoMissOpen (s : State) (p : Part) (port : Nat) : State :=
  let s1 := (s.port p port).echo.foldl (fun s _ => s.exchangeMiss p port) s
  s1.modPort p port fun t => { t with echo := [] }

/-- A lane change discards the first set begun after it (R53): the present one where it has made no attempt yet,
else the next. -/
def PortRt.discardBegun (t : PortRt) : PortRt :=
  if t.acc.tried = 0 then { t with discard := true } else { t with discardNext := true }

/-- The results of an echo set appear in the port's registers, and a new set begins (R59). -/
def State.closeEchoSet (s : State) (p : Part) (port : Nat) : State :=
  let a := (s.port p port).acc
  let s := ((s.wrI (F.portOffsetTheta p) a.mean port).wrI (F.portRttRtt p) a.meanRtt port).wr
    (F.portTstatSetValid p) 1 port
  s.modPort p port fun t => { t with acc := {}, discard := t.discardNext, discardNext := false }

/-- A new echo set begins on a port with nothing recorded of the old one. -/
def State.restartEchoSet (s : State) (p : Part) (port : Nat) : State :=
  s.modPort p port fun t => { t with acc := {}, discard := t.discardNext, discardNext := false }

/-- The count of a node in 0.625 ps units. -/
def Node.lin (n : Node) : Int := ((n.lfn * 8192 + n.sub) * 16 + n.frac : Nat)

/-- A node with its count set from 0.625 ps units. -/
def Node.setLin (n : Node) (v : Int) : Node :=
  let u := v.toNat
  { n with lfn := u / 16 / 8192, sub := u / 16 % 8192, frac := u % 16 }

/-- A count that a change has moved forward from `was` into a later key epoch has jumped (R105). -/
def Node.noteJump (n : Node) (was : Nat) : Node :=
  if was / 2 ^ 32 < n.lfn / 2 ^ 32 then { n with jumpTo := some (n.lfn / 2 ^ 32) } else n

/-- The count is corrected by `d` at once where that moves it forward, and slewed where it would move it back
(R26, R27). -/
def State.correct (s : State) (p : Part) (d : Int) : State :=
  s.modNode p fun n => if 0 ≤ d then (n.setLin (n.lin + d)).noteJump n.lfn else { n with slew := n.slew + d }

/-- The correction that makes the node's count the parent's after echo set 1 with the mean `m` (R27, R30, R31): −θ, and
the whole multiples of the 2^16 link frames that the echo stamps span which bring it nearest to the parent's label. -/
def State.acqCorrection (s : State) (p : Part) (port : Nat) (m : Int) : Int :=
  let t := s.port p port
  if t.pLabelled then
    let far := ((t.pLabel : Int) - t.pAt) * (8192 * 16)
    divEven (far + m) (2 ^ 33) * 2 ^ 33 - m
  else -m

/-- The node moves its time to another port and slews the difference of the two offsets (R57, R58). -/
def State.moveTimePort (s : State) (p : Part) (from_ dest : Nat) : State :=
  let d := s.rdI (F.portOffsetTheta p) dest - s.rdI (F.portOffsetTheta p) from_
  (s.takeTimePort p dest).modNode p fun n => { n with slew := n.slew - d }

/-- The node enters ACQUIRE's echo set 1 on a port (R56). -/
def State.acquireFrom (s : State) (p : Part) (port : Nat) : State :=
  ((s.takeTimePort p port).restartEchoSet p port).modNode p fun n =>
    { n with acqPort := port, acqSet := 1, acqFails := 0 }

/-- The node leaves time: HOLD with the count frozen, or NO_TIME (R31). -/
def State.enterHold (s : State) (p : Part) : State :=
  ((s.dropTimePort p).modNode p fun n =>
    { n with frozen := ⟨n.lfn, n.edgeSub⟩, fromHold := false, acqSet := 0, moveTo := none }).setTimeState p 3

/-- The node leaves ACQUIRE with no time-valid parent (R31). -/
def State.leaveAcquire (s : State) (p : Part) : State :=
  let st := if (s.node p).fromHold then 3 else 0
  ((s.dropTimePort p).modNode p fun n => { n with fromHold := false, acqSet := 0, moveTo := none }).setTimeState p st

/-- The node enters VALID; from HOLD it reloads, which is an event with both counts (R30, R31). -/
def State.enterValid (s : State) (p : Part) : State :=
  let n := s.node p
  let s := (s.modNode p fun n => { n with acqSet := 0, acqFails := 0, fromHold := false, labelled := true }).setTimeState
    p 2
  if n.fromHold then
    (((s.wr (F.timeStatusReloadEvt p) 1).interrupt p 2).logErr p 0x10 noPort n.frozen.lfn)
  else s

/-- The ports of a distributor on which pages go downward: its downlinks, and in the root pair the master's lateral
port (R44, R70). -/
def State.downPorts (s : State) : List Nat :=
  List.range 128 ++ (if s.isRoot && !s.childEnd .dbx s.xPort then [s.xPort] else [])

/-- A page is due in the next S0 of each downward port that is not DISABLED (R92). -/
def State.duePage (s : State) (page : Nat) : State :=
  s.downPorts.foldl (fun s i =>
    if s.rd (F.portStateState .dbx) i = 0 then s
    else s.modPort .dbx i fun t => { t with pages := page :: t.pages.erase page }) s

/-! ### Civil time (R42 to R45) -/

/-- The civil time `k` link frames on: seconds and 64-bit fraction. -/
def civilAfter (sec frac inc k : Nat) : Nat × Nat :=
  let v := sec * 2 ^ 64 + frac + inc * k
  (v / 2 ^ 64, v % 2 ^ 64)

/-- The civil time of a node at a SUB within its link frame, as 64.32 (R42): the seconds, and the top 32 bits
of the fraction. -/
def civilAt (n : Node) (sub : Nat) : Nat × Nat :=
  let v := n.civSec * 2 ^ 64 + n.civFrac + n.civInc * sub / 2 ^ 13
  (v / 2 ^ 64, v % 2 ^ 64 / 2 ^ 32)

/-- The nominal increment (R43). -/
def civilNominal : Nat := 1511157274518
/-- The greatest departure from it (R43). -/
def civilRange : Nat := 1511157275

/-- The time record of Table 2.2 of the exported count. -/
def State.timeRecord (s : State) (p : Part) : List Byte :=
  let t := s.exported p
  toLe 8 t.lfn ++ toLe 4 (16 * t.sub) ++
    toLe 4 (b2n (s.timeValid p) + 2 * s.rd (F.timeStatusProvisional p) + 4 * s.rd (F.timeStatusRefStep p)
      + 8 * s.rd (F.timeStatusCivilState p))

end Sys2Proof.Machine
end

