-- ==== Sys2Proof/Machine/LinkOps.lean ====
section
/-! DEFINITION. The rhizoid link (chapter 5): the check word, slot maps, port states, lanes and layout,
keys, and the words of slot S0. -/

namespace Sys2Proof.Machine

/-! ### The check word (R89) -/

/-- Number of ones of a 32-bit word, modulo 2. -/
def parity32 (w : Nat) : Nat := sumNat ((List.range 32).map fun i => bits w i 1) % 2

/-- One byte into CRC-16 with polynomial 0x1021, most significant bit first. -/
def crcByte (c b : Nat) : Nat :=
  (List.range 8).foldl (fun c _ => if bit c 15 then Nat.xor (2 * c % 65536) 0x1021 else 2 * c % 65536)
    (Nat.xor c (256 * (b % 256)))

/-- CRC of the data bytes in transmission order, from 0xFFFF. -/
def crc16 (bs : List Byte) : Nat := bs.foldl crcByte 0xFFFF

/-- Parity bits of the data words. -/
def parityBits (ws : List Nat) : Nat :=
  sumNat ((List.range 15).map fun i => parity32 (ws.getD i 0) * 2 ^ i)

/-- Check word of 15 data words with the replay bit. -/
def checkWord (ws : List Nat) (replay : Bool) : Nat :=
  parityBits ws + 2 ^ 15 * crc16 (wordsToBytes ws) + 2 ^ 31 * b2n replay

/-- A slot passes its check: every parity bit and the CRC agree. -/
def slotOk (x : Slot) : Bool := x.words.length == 15 && bits x.check 0 31 == checkWord x.words false

/-- The slot is a replayed copy. -/
def slotReplayed (x : Slot) : Bool := bit x.check 31

/-! ### Slot maps (R95) -/

/-- The entries of a link frame in slot order: six of the full layout, or three of the degraded one. -/
def State.frameEntries (s : State) (p : Part) (t l : Nat) (deg : Bool) : List Nat :=
  if deg then (List.range 3).map fun d => s.tmplEntry p t (96 + l % 16 * 3 + d)
  else (List.range 6).map fun k => s.tmplEntry p t (l % 16 * 6 + k)

/-- The partition whose scrub is in progress on the distributor (R298). -/
def State.scrubbed (s : State) : Option Nat := s.dbx.scrub.map fun r => s.rd F.condPartPartition r.slot

/-- A queued item may take a position: class, and the position's valid share; a TSU ignores the share (R95). While a
partition is scrubbed its positions carry idle (R299). -/
def State.itemFits (s : State) (p : Part) (e : Nat) (q : QItem) : Bool :=
  entryClass e == q.cls && match p with
    | .tsu => true
    | .dbx => s.is F.shareValid (entryShare e) && entryShare e == q.share
        && s.rd F.sharePartition (entryShare e) == q.partition && s.scrubbed != some q.partition

/-- The first item of a queue that may take a position, and the rest. -/
def takeFirst {α : Type} (f : α → Bool) : List α → Option (α × List α)
  | [] => none
  | x :: l => if f x then some (x, l) else (takeFirst f l).map fun r => (r.1, x :: r.2)

/-- Items that one position takes: a crozier position holds two, and a soredia slot carries two (R95, R224). -/
def State.fillPosition (s : State) (p : Part) (e : Nat) (q : List QItem) : List QItem × List QItem :=
  match takeFirst (s.itemFits p e) q with
  | none => ([], q)
  | some (x, q1) =>
    if entryClass e = 1 || entryClass e = 5 then
      match takeFirst (s.itemFits p e) q1 with
      | none => ([x], q1)
      | some (y, q2) => ([x, y], q2)
    else ([x], q1)

/-- Partitions that hold a valid share in a template (R109). -/
def State.tmplPartitions (s : State) (t : Nat) : List Nat :=
  ((List.range 144).filterMap fun i =>
    let e := s.tmplEntry .dbx t i
    if entryClass e ≠ 0 && s.is F.shareValid (entryShare e) then some (s.rd F.sharePartition (entryShare e))
    else none).eraseDups

/-! ### Port states (R107) -/

/-- ALERT_N is asserted for a reason (R62, R108, R116). -/
def State.raiseAlert (s : State) (p : Part) (source : Nat) : State :=
  let s := s.emit p (.alert source)
  match p with
  | .tsu => s
  | .dbx => s.emit .dbx (.pin .alertN 0)

/-- The port is the parent end of its link (R102, R109): a downlink, and the lateral ports of member A. -/
def State.parentEnd (s : State) (p : Part) (port : Nat) : Bool :=
  match p with
  | .tsu => false
  | .dbx => port < 128 || (130 ≤ port && !s.sideB)

/-- The lateral port has left UP: an active member goes on solo (R166). -/
def State.twinAway (s : State) : State := (if s.rd F.condStatusRole = 0 then s.wr F.condStatusRole 2 else s).showSec

/-- A port enters a state. Leaving UP drops the queued content, counted, and the retry buffer with what it waits to replay or
to ask for (R107); DISABLED uses no lane and DARK receives on none (Table 5.9); a state whose S0 serves no time clears
set_valid at once (R59); TRAINING, UNKEYED and UP count their time from here. -/
def State.setPort (s : State) (p : Part) (port st : Nat) : State :=
  let old := s.rd (F.portStateState p) port
  let now := s.lfn p
  let age := (s.node p).age
  let s1 :=
    if old = 4 && st ≠ 4 then
      let n := (s.port p port).queue.length
      (s.bump (F.portDropCount p) port n).modPort p port fun t =>
        { t with queue := [], retry := [], replayQ := [], nakQ := [], rdwNext := [] }
    else s
  let s2 := if [0, 1, 2, 7].contains st then
      (s1.wr (F.portTstatSetValid p) 0 port).modPort p port fun t => { t with acc := {}, echo := [], echoGap := none }
    else s1
  let s3 := if st = 0 then (s2.wr (F.portStateTxLanes p) 0 port).wr (F.portStateRxLanes p) 0 port
    else if st = 1 then s2.wr (F.portStateRxLanes p) 0 port
    else if st = 2 then s2.modPort p port fun t => { t with trainAt := now }
    else if st = 3 then s2.modPort p port fun t => { t with keyAge := age }
    else if st = 4 && old ≠ 4 then s2.modPort p port fun t => { t with upAt := now }
    else s2
  let s4 := (s3.wr (F.portStateState p) st port).score p (some port)
  if p == Part.dbx && port == s.xPort then (if old = 4 && st ≠ 4 then s4.twinAway else s4.showSec) else s4

/-- The port loses its peer: nothing of the far end is known (R108, R58). -/
def State.forgetPeer (s : State) (p : Part) (port : Nat) : State :=
  (s.modPort p port fun t =>
    { t with ident := false, pValid := false, pLabelled := false, pWas := false, pMaster := false, cValid := false, keyed := false,
             exch := false, certSent := false, cert := none, shared := false, sigOk := false, nextOk := false,
             nextRat := false, missing := [], lastSlots := [], pState := none, rxWin := [], rxHigh := none,
             newEpochAt := none }).showChildren p

/-! ### Layout and lanes (R109, R110) -/

/-- The lane that is left when one is not wanted: 1 lane 0, 2 lane 1. -/
def otherLane (lane : Nat) : Nat := if lane = 0 then 2 else 1

/-- Lane that carries a slot, by layout and index (Table 5.1). -/
def slotLane (layout i : Nat) : Nat :=
  if layout = 0 then (if i < 4 then 0 else 1) else layout - 1

/-- Pinned bit and flap count of a lane. -/
def pinnedF (p : Part) (lane : Nat) : Fld := if lane = 0 then F.portStatePinnedL0 p else F.portStatePinnedL1 p
def flapF (p : Part) (lane : Nat) : Fld := if lane = 0 then F.portFlapFlapL0 p else F.portFlapFlapL1 p
def dropF (p : Part) (lane : Nat) : Fld := if lane = 0 then F.portCtrlDropL0 p else F.portCtrlDropL1 p

/-- Link frames in the full layout that wait for a slot on a lane this end gives up count as given up (R109). -/
def State.giveUpLanes (s : State) (p : Part) (port want : Nat) : State :=
  let lost := fun (m : Missing) => want ≠ 3 && m.layout = 0 &&
    (List.range 8).any fun i => bit m.mask i && slotLane 0 i ≠ want - 1
  (s.bump (F.portLostCount p) port ((s.port p port).missing.filter lost).length).modPort p port fun t =>
    { t with missing := t.missing.filter fun m => !lost m }

/-- This end wants to receive on the lanes `w`, and says so in S7 w2; no NAK is sent any more for slots on a lane it does not
want (R109). -/
def State.setWant (s : State) (p : Part) (port w : Nat) : State :=
  (s.modPort p port fun t => { t with want := w }).giveUpLanes p port w

/-- A flap of a lane; flap_pin of them within 2^30 link frames pin it (R110). -/
def State.flap (s : State) (p : Part) (port lane : Nat) : State :=
  let now := s.lfn p
  let s := s.bump (flapF p lane) port
  let s := s.modPort p port fun t =>
    if lane = 0 then { t with flaps0 := (t.flaps0.filter fun c => now < c + 2 ^ 30) ++ [now] }
    else { t with flaps1 := (t.flaps1.filter fun c => now < c + 2 ^ 30) ++ [now] }
  let n := if lane = 0 then (s.port p port).flaps0.length else (s.port p port).flaps1.length
  let s := s.penalise p 9 (some port)
  if s.rd (F.linkCfgFlapPin p) ≤ n && 0 < n then (s.wr (pinnedF p lane) 1 port).score p (some port) else s

/-- The clean time of a dropped lane runs from its drop where it holds block lock (R110, log 132). -/
def PortRt.startClean (t : PortRt) (lane now : Nat) : PortRt :=
  if lane = 0 then { t with clean0 := if t.lock0 then some now else none }
  else { t with clean1 := if t.lock1 then some now else none }

/-- A receiver gives up a lane: it asks for the other one and counts a flap (R109). -/
def State.degradeLane (s : State) (p : Part) (port lane : Nat) : State :=
  if (s.port p port).want = 3 then
    ((s.setWant p port (otherLane lane)).flap p port lane).modPort p port fun t => t.startClean lane (s.lfn p)
  else s

/-- Layout of a port's direction by its lanes: 0 full, 1 or 2 degraded. -/
def layoutOf (lanes : Nat) : Nat := if lanes = 3 then 0 else lanes

/-- The parent end reports a change of layout for each partition with a valid share in the link's templates
(R109): `dir` 0 from the parent end, 1 toward it. A member that is the partition's apex takes the report by
its own row (log 14). -/
def State.reportLayout (s : State) (port dir : Nat) (degraded : Bool) : State :=
  let parts := (s.tmplPartitions (s.txTmpl .dbx port) ++ s.tmplPartitions (s.rxTmpl .dbx port)).eraseDups
  parts.foldl (fun s q => s.mgmtUp .dbx 7 q
    [port, dir, b2n degraded, s.rd64 (F.uidLoUid .dbx) (F.uidHiUid .dbx)]) s

/-- A direction has changed its lanes (R53, R109): a timeout for the open exchange,
the discard of the next set, the event, the report. -/
def State.layoutChanged (s : State) (p : Part) (port dir : Nat) (degraded : Bool) : State :=
  let s := (s.echoMissOpen p port).modPort p port PortRt.discardBegun
  let s := s.portEvent p (if degraded then F.portEvtDegraded p else F.portEvtRestored p) port
  match p with
  | .tsu => s
  | .dbx => if s.parentEnd .dbx port then s.reportLayout port dir degraded else s

/-! ### Link keys (R103, R104, R291) -/

/-- "KX7-LINK" and "KX7-RATCHET". -/
def infoLink : List Byte := [75, 88, 55, 45, 76, 73, 78, 75]
def infoRatchet : List Byte := [75, 88, 55, 45, 82, 65, 84, 67, 72, 69, 84]

/-- The number of an exchange among all that the part has started: by port, and by count at the port. -/
def exchIndex (p : Part) (port n : Nat) : Nat := (2 * n + (match p with | .tsu => 0 | .dbx => 1)) * 256 + port

/-- The bytes of a SHARE message (Table 13.4). -/
def shareBytes (epoch nonce pub : Nat) : List Byte :=
  toLe 8 2 ++ toLe 8 epoch ++ toLe 32 nonce ++ toLe 97 pub

/-- The two direction keys, parent to child first, after a ratchet to an epoch. -/
def ratchet (p2c c2p epoch : Nat) : Nat × Nat :=
  let k := Config.hkdf [] (toLe 32 p2c ++ toLe 32 c2p) (infoRatchet ++ toLe 8 epoch) 64
  (leNat k 0 32, leNat k 32 32)

/-- This end's transmit and receive key from the two direction keys, and back. -/
def dirKeys (parent : Bool) (k : Nat × Nat) : Nat × Nat := if parent then k else (k.2, k.1)

/-- Next keys by a ratchet to an epoch, with the ratchet event (R104, R105). -/
def State.ratchetTo (s : State) (p : Part) (port epoch : Nat) : State :=
  let t := s.port p port
  let par := s.parentEnd p port
  let d := dirKeys par (t.txKey, t.rxKey)
  let k := dirKeys par (ratchet d.1 d.2 epoch)
  ((s.modPort p port fun t =>
    { t with nextEpoch := epoch, nextTx := k.1, nextRx := k.2, nextOk := false, nextRat := true }).portEvent p
      (F.portEvtRatchet p) port).penalise p 23

/-- The port enters AUTH_DOWN: its keys end, the event and the alert are raised (R104, R106, Table 13.1). -/
def State.authDown (s : State) (p : Part) (port : Nat) : State :=
  let s := (s.setPort p port 7).modPort p port fun t =>
    { t with keyed := false, exch := false, nextOk := false, nextRat := false, tagFails := [], missing := [] }
  ((s.portEvent p (F.portEvtAuthDown p) port).penalise p 10 (some port)).raiseAlert p 0x106

/-- A key exchange for an epoch starts (R103, R291): CERT once after TRAINING, and SHARE. On a TSU the root of
trust runs the exchange and the port only passes its messages. -/
def State.startExchange (s : State) (p : Part) (port epoch : Nat) : State :=
  let n := (s.port p port).exCount
  let ix := exchIndex p port n
  let first := !(s.port p port).certSent
  let s := s.modPort p port fun t =>
    { t with exch := true, exCount := n + 1, exEpoch := epoch, certSent := true, shared := false, sigOk := false }
  match p with
  | .tsu => s
  | .dbx =>
    let s := if first then s.sendKey p port 1 [] else s
    s.sendKey p port 2 [epoch, Config.ephemeralNonce ix, Config.ephemeralPub ix]

/-! ### The words of S0 (R91) -/

/-- The tree QL code that a node sends (R69): its own as time master, else the one its time port carries. -/
def State.sentQl (s : State) (p : Part) : Nat :=
  if !s.timeValid p then 0
  else match p, s.timePort p with
    | .dbx, none => s.rd F.selStatusTreeQl
    | _, some q => (s.port p q).pQl
    | _, none => 0

/-- Service code of a port state (Table 5.3). -/
def serviceOf (st : Nat) : Nat := if st = 6 then 1 else if st = 5 then 2 else if st = 7 then 3 else 0

/-- The label that a node sends (R105): 0 before it has a label count. -/
def State.label (s : State) (p : Part) : Nat := if (s.node p).labelled then s.lfn p else 0

/-- Page words of page 1, 2 or 3 (R91). -/
def State.pageWords (s : State) (p : Part) (port page : Nat) : List Nat :=
  let cable := ofSigned 32 (s.rdI (F.portAsymCable p) port)
  let master := 16 * b2n (match p with | .tsu => false | .dbx => s.rd F.selStatusMaster == 1)
  let w := match page with
    | 1 => match (s.node p).civHold with
      | some c => [c.sec % 2 ^ 32, c.sec / 2 ^ 32, c.frac % 2 ^ 32, c.frac / 2 ^ 32, c.inc % 2 ^ 32, c.inc / 2 ^ 32]
      | none => []
    | 2 =>
      if 130 ≤ port then
        [if s.childEnd p port then s.rd (F.portOffsetTheta p) port else 0, 0, cable,
         (if s.childEnd p port then s.rd (F.portTstatSetValid p) port + 8 * b2n (s.timeValid p) else 0) + master]
      else if s.parentEnd p port then [0, 0, cable]
      else
        let a := (s.parentPorts p).getD 0 0
        let b := (s.parentPorts p).getD 1 0
        [s.rd (F.portOffsetTheta p) a, s.rd (F.portOffsetTheta p) b, cable,
         s.rd (F.portTstatSetValid p) a + 2 * s.rd (F.portTstatSetValid p) b
          + 4 * b2n (s.timePort p == some b) + 8 * b2n (s.timeValid p)]
    | 3 =>
      let uid := [s.rd (F.uidLoUid p), s.rd (F.uidHiUid p)]
      let lvl := match p with | .tsu => 0 | .dbx => s.level
      let side := match p with | .tsu => 0 | .dbx => b2n s.sideB
      uid ++ [lvl % 8 + 8 * side + 16 * (port % 256) + 2 ^ 12 * 7]
    | _ => []
  w ++ List.replicate (6 - w.length) 0

/-- The civil_state that an S0 carries: that of the page where it carries a civil page, which a master may send as
tracking before its own apply LFN (R44, R45); else the node's. -/
def State.civilStateSent (s : State) (p : Part) (page : Nat) : Nat :=
  match (s.node p).civHold with
  | some c => if page = 1 then c.civilState else s.rd (F.timeStatusCivilState p)
  | none => s.rd (F.timeStatusCivilState p)

/-- The 15 words of S0 on a port with a page, a link control word and a replay descriptor word (Table 5.3). -/
def State.s0Words (s : State) (p : Part) (port page lcw rdw : Nat) : List Nat :=
  let n := s.node p
  let t := s.port p port
  let up := s.childEnd p port
  let deg := s.rd (F.portStateTxLanes p) port == 1 || s.rd (F.portStateTxLanes p) port == 2
  let notice := match n.ramp with | some r => n.lfn < r.l0 + 1536 | none => false
  let w0 := s.sentQl p + 16 * s.timeState p + 2 ^ 7 * s.rd (F.timeStatusProvisional p)
    + 2 ^ 8 * serviceOf (s.rd (F.portStateState p) port) + 2 ^ 10 * b2n notice + 2 ^ 11 * b2n deg
    + 2 ^ 12 * page + 2 ^ 14 * s.civilStateSent p page + 2 ^ 16 * b2n up
    + 2 ^ 17 * (if page = 1 then (match n.civHold with | some c => c.apply / 1024 % 256 | none => 0) else 0)
    + 2 ^ 25 * b2n n.labelled
  let psi := match p with | .dbx => if port < 128 then n.psi else 0 | .tsu => 0
  let e := t.answer
  let w1 := if up then ofSigned 32 (stampDiff e.2.2 e.2.1) else psi * 8 + 2 ^ 16 * (n.lfn % 2 ^ 16)
  let w2 := if up then e.1 else t.retT4
  let l := s.label p
  let d := match n.ramp with
    | some r => if notice then [ofSigned 32 r.delta, r.l0 % 2 ^ 32] else [0, 0]
    | none => [0, 0]
  [w0, w1, w2, l % 2 ^ 32, lcw, rdw] ++ d ++ [l / 2 ^ 32] ++ s.pageWords p port page

/-- The page due at a link frame on a port: the close page at LFN ≡ 1 and the ident page at LFN ≡ 2 (mod 1,024) (R92). -/
def pageDueAt (lfn : Nat) : List Nat := if lfn % 1024 = 1 then [2] else if lfn % 1024 = 2 then [3] else []

/-- The pages that wait on a port at this link frame, those due now among them, in the order of their codes: civil, close,
ident (R92). -/
def State.pagesDue (s : State) (p : Part) (port : Nat) : List Nat :=
  let l := (s.port p port).pages ++ pageDueAt (s.lfn p)
  [1, 2, 3].filter fun k => l.contains k

/-- The page of this link frame on a port (R92): the first one due; in TRAINING the ident page. -/
def State.pageOf (s : State) (p : Part) (port : Nat) : Nat :=
  if s.rd (F.portStateState p) port = 2 then 3 else (s.pagesDue p port).headD 0

/-- The S0 of this link frame has carried its page; one that it displaced waits for the next (R92). -/
def State.pageSent (s : State) (p : Part) (port : Nat) : State :=
  let k := s.pageOf p port
  let rest := (s.pagesDue p port).filter (· ≠ k)
  if (s.port p port).pages = rest then s else s.modPort p port fun t => { t with pages := rest }

end Sys2Proof.Machine
end

