-- ==== Sys2Proof/Machine/StepOps.lean ====
section
/-! DEFINITION. What a TSU's meanings share about steps: its grid, the faults it records, the step's contribution
and its soredium (R32 to R37, R154, R223, R224, R227, R235, R243). -/

namespace Sys2Proof.Machine

/-! ### The grid (R32) -/

/-- The die holds a grid. -/
def State.gridValid (s : State) : Bool := s.is (F.timeStatusGridValid .tsu)

/-- Frame length. -/
def State.frameLen (s : State) : Nat := 2 ^ s.rd F.frameCfgFLog2

/-- Frame origin. -/
def State.gridOrigin (s : State) : Nat := s.rd64 F.frameOriginLoOrigin F.frameOriginHiOrigin

/-- A frame tick falls at the link frame. -/
def State.isTick (s : State) (l : Nat) : Bool :=
  s.gridValid && s.gridOrigin ≤ l && (l - s.gridOrigin) % s.frameLen == 0

/-- The frame tick that opens the frame of a link frame; the link frame itself where there is no grid (log 18). -/
def State.tickOf (s : State) (l : Nat) : Nat :=
  if s.gridValid && s.gridOrigin ≤ l then l - (l - s.gridOrigin) % s.frameLen else l

/-! ### Faults -/

/-- A fault record of Table 11.9 with its entry in the fault log. -/
def State.faultRecord (s : State) (code handle step : Nat) : State :=
  (((((s.record .tsu 3 code).wr F.fltLog0Handle handle).wr F.fltLog1StepLo (step % 2 ^ 32)).wr F.fltLog2StepHi
    (step / 2 ^ 32)).wr F.fltLog2Code code).wr F.fltLog2IsAbort 0 |>.wr F.fltLog3Lfn (s.tsu.lfn % 2 ^ 32)

/-- An abort in the fault log (R245). -/
def State.logAbort (s : State) (handle step code : Nat) : State :=
  (((((s.wr F.fltLog0Handle handle).wr F.fltLog1StepLo (step % 2 ^ 32)).wr F.fltLog2StepHi
    (step / 2 ^ 32)).wr F.fltLog2Code (code % 2 ^ 12)).wr F.fltLog2IsAbort 1).wr F.fltLog3Lfn (s.tsu.lfn % 2 ^ 32)

/-! ### Channels and launch words -/

/-- The channel entry of an index, when it is bound with the current generation of its handle. -/
def State.chanOf (s : State) (handle : Nat) : Option TsuChan :=
  (fget? s.t.chans (hIndex handle)).filter fun c => c.gen == hGen handle

/-- The attempt count of an index (R250). -/
def State.attempt (s : State) (idx : Nat) : Nat := fgetD s.t.attempts idx 0

/-- `s` with the channel entry of a handle changed. -/
def State.modChan (s : State) (handle : Nat) (f : TsuChan → TsuChan) : State :=
  match s.chanOf handle with
  | some c => s.modT fun t => { t with chans := fset t.chans (hIndex handle) (f c) }
  | none => s

/-- The region of a target. -/
def State.regionOf (s : State) (target : Nat) : Nat := s.rd F.targetCfgRegion target

/-- A target is wired on the die. -/
def State.wired (s : State) (target : Nat) : Bool := s.is F.targetCfgWired target

/-- The targets that are wired. -/
def State.wiredTargets (s : State) : List Nat := (List.range 256).filter s.wired

/-- A region is valid (R40). -/
def State.regionValid (s : State) (r : Nat) : Bool := s.is F.regionStatRegionValid r

/-- A generation-bus update of an index (R325). -/
def State.genUpdate (s : State) (idx : Nat) : State :=
  s.emit .tsu (.gen (genWord idx (s.gen .tsu idx) (s.attempt idx)))

/-- The updates of every channel index (R325). -/
def State.genWords (s : State) : List Nat := (List.range (2 ^ 18)).map fun i => genWord i (s.gen .tsu i) (s.attempt i)

/-! ### Core-clock edges of a region (R133, R134, R324) -/

/-- The fire edge of a fire count: rounded up to 64 SUB units (R133). -/
def fireEdge (t : MTime) : MTime := mtOf ((mtUnits t + 63) / 64 * 64)

/-- One core-clock edge of a region, by its number: how many entries it fires, and the words: handle and target. -/
structure Edge where
  at_     : Nat
  entries : Nat
  words   : List (Nat × Nat)
deriving DecidableEq, Repr

/-- Number of the core-clock edge of a fire count. -/
def edgeNo (t : MTime) : Nat := (mtUnits t + 63) / 64

/-- An edge can fire another entry: four entries at most, and one word for any one target (R134). -/
def Edge.takes (g : Edge) (ts : List Nat) : Bool := g.entries < 4 && !ts.any (g.words.map (·.2)).contains

/-- What an edge fires so far. -/
def edgeAt (l : List Edge) (k : Nat) : Edge := (l.find? fun g => g.at_ == k).getD ⟨k, 0, []⟩

/-- The first edge from `k` on that can fire an entry with these targets; `fuel` edges at most are looked at. -/
def firstEdge (l : List Edge) (ts : List Nat) : Nat → Nat → Nat
  | 0, k => k
  | fuel + 1, k => if (edgeAt l k).takes ts then k else firstEdge l ts fuel (k + 1)

/-- An entry put on the first edge that can fire it. -/
def putOnEdge (l : List Edge) (handle : Nat) (ts : List Nat) (k : Nat) : Nat × List Edge :=
  let e := firstEdge l ts (l.length + 1) k
  let g := edgeAt l e
  (e, ⟨e, g.entries + 1, g.words ++ ts.map fun t => (handle, t)⟩ :: l.filter fun x => x.at_ != e)

/-- Pairs in ascending order of their number, those of one number in the order they stand. -/
def byEdge {α : Type} (x : Nat × α) : List (Nat × α) → List (Nat × α)
  | [] => [x]
  | y :: l => if x.1 < y.1 then x :: y :: l else y :: byEdge x l

/-- The edges and lanes on which a region fires its entries (R134): its edges, and the entries with the edge and the lane of
each. The entries take their edges in the order of those edges, and of their indices on one edge: a word moved from an
earlier edge counts against the edge that it comes to, ahead of that edge's own words (log 154). -/
def State.regionEdges (s : State) (r : Nat) : List Edge × List (Nat × Nat × Nat) :=
  let near := s.t.arm.filter fun x =>
    (x.2.state == 3 || x.2.state == 4) && !x.2.void && [1, 5, 6].contains x.2.cz.ctype
      && x.2.targets.any fun t => s.regionOf t == r
  let order := near.foldl (fun l x => byEdge (edgeNo x.2.fire, x) l) []
  order.foldl (fun (a : List Edge × List (Nat × Nat × Nat)) x =>
    let q := putOnEdge a.1 x.2.2.cz.handle (x.2.2.targets.filter fun t => s.regionOf t == r) x.1
    (q.2, (x.2.1, q.1, (edgeAt q.2 q.1).entries - 1) :: a.2)) ([], [])

/-- The edge, by its number, and the lane on which an entry fires in a region. -/
def State.fireShift (s : State) (e r : Nat) : Nat × Nat :=
  match (s.regionEdges r).2.find? fun x => x.1 == e with
  | some x => x.2
  | none => (0, 0)

/-- The first edge from `k` on whose four lanes are not all in use and, for a kill word, that fires nothing of its handle at
its target: the fire goes first (R324). -/
def freeEdge (l : List Edge) (kill : Option (Nat × Nat)) : Nat → Nat → Nat
  | 0, k => k
  | fuel + 1, k =>
    let g := edgeAt l k
    if 4 ≤ g.entries || (match kill with | some x => g.words.contains x | none => false) then freeEdge l kill fuel (k + 1) else k

/-- A kill, withdraw or result word is presented to a target's region and fired in the same cycle (R324), on the highest lane
that its edge leaves free: fires take the lanes from 0 upward, so that is lane 3. An edge carries one such word. -/
def State.fireNow (s : State) (target word : Nat) (kill : Option (Nat × Nat)) : State :=
  let r := s.regionOf target
  let l := (s.regionEdges r).1
  let k := freeEdge l kill (l.length + 1) (max (edgeNo (s.now .tsu)) (fgetD s.t.busNext r 0))
  (s.modT fun t => { t with busNext := fset t.busNext r (k + 1) }).emit .tsu (.lwFire r 3 word (mtOf (k * 64)))

/-- A kill word to each target bound to a channel, which then awaits its acknowledgement; nothing is handed to a
region while CMP_RST_ACK is high (R136, R239, R324). -/
def State.fireKills (s : State) (handle attempt : Nat) (targets : List Nat) : State :=
  if s.t.cmpAck then s
  else targets.foldl (fun s t =>
    ((s.fireNow t (launchWord 2 t 0 attempt 0 handle 0) (some (handle, t))).bump F.fltKillCount).modT fun x =>
      { x with kills := x.kills ++ [(t, handle, s.tsu.lfn)] }) s

/-! ### Steps -/

/-- The record of a channel's step. -/
def State.stepOf (s : State) (handle step : Nat) : Option OpenStep :=
  s.t.steps.find? fun o => o.handle == handle && o.step == step

/-- The records with one replaced, or added. -/
def putStep (o : OpenStep) : List OpenStep → List OpenStep
  | [] => [o]
  | q :: l => if q.handle = o.handle && q.step = o.step then o :: l else q :: putStep o l

/-- `s` with the record of a step. -/
def State.setStep (s : State) (o : OpenStep) : State := s.modT fun t => { t with steps := putStep o t.steps }

/-- The record that a launch crozier opens for its step, or the one that is open. -/
def State.openStep (s : State) (c : Crozier) (fire : Nat) : OpenStep :=
  match s.stepOf c.handle c.step with
  | some o => if o.attempt = s.attempt (hIndex c.handle) then o
    else { handle := c.handle, step := c.step, tick := s.tickOf fire, variant := c.variant,
           attempt := s.attempt (hIndex c.handle) }
  | none => { handle := c.handle, step := c.step, tick := s.tickOf fire, variant := c.variant,
              attempt := s.attempt (hIndex c.handle) }

/-- Targets of the step without a completion. -/
def OpenStep.missing (o : OpenStep) : List Nat := o.targets.filter fun k => !o.done.contains k

/-- Status bits of Table 7.4. -/
def stOverrun : Nat := 0x001
def stMissed : Nat := 0x002
def stLate : Nat := 0x004
def stAborted : Nat := 0x008
def stTarget : Nat := 0x010
def stReset : Nat := 0x020
def stWeight : Nat := 0x040
def stMissing : Nat := 0x080
def stReplayed : Nat := 0x100

/-- Two status words together. -/
def orSt (a b : Nat) : Nat := Nat.lor a b

/-- A status word holds a bit. -/
def hasSt (a b : Nat) : Bool := Nat.land a b != 0

/-! ### The epoch vector of a step (R235) -/

/-- Lowest and highest epoch of the layers used. -/
def epochMin (l : List LayerDig) : Nat := match l with
  | [] => 0
  | x :: r => r.foldl (fun a y => min a y.epoch) x.epoch
def epochMax (l : List LayerDig) : Nat := l.foldl (fun a y => max a y.epoch) 0

/-- The lowest layer used at e_min; 0 where all are at one epoch. -/
def epochSplit (l : List LayerDig) : Nat :=
  if epochMin l = epochMax l then 0
  else match (l.filter fun y => y.epoch == epochMin l).map (·.layer) with
    | [] => 0
    | x :: r => r.foldl min x

/-- The layers below the split are at e_max, and those from it up at e_min. -/
def epochMulti (l : List LayerDig) : Bool :=
  epochMin l != epochMax l &&
    l.any fun y => if y.layer < epochSplit l then y.epoch != epochMax l else y.epoch != epochMin l

/-- XOR of the layer digests (R222). -/
def stepDigest (l : List LayerDig) : Nat := l.foldl (fun a y => Nat.xor a y.digest) 0

/-! ### History (R227) -/

/-- Layer records after freeing those of the oldest steps until `need` more fit; the steps that lost theirs. The
list of steps has the oldest first. -/
def freeLayers (need : Nat) : List (Soredium × Nat × Bool) → List (Nat × Nat × LayerDig)
    → List (Soredium × Nat × Bool) × List (Nat × Nat × LayerDig)
  | [], lay => ([], lay)
  | r :: rest, lay =>
    let own := lay.filter fun x => x.1 == r.1.handle && x.2.1 == r.1.step
    if lay.length + need ≤ 65536 || own.isEmpty then
      let q := freeLayers need rest lay
      (r :: q.1, q.2)
    else
      let q := freeLayers need rest (lay.filter fun x => !(x.1 == r.1.handle && x.2.1 == r.1.step))
      ((r.1, r.2.1, true) :: q.1, q.2)

/-- The registers that show the history. -/
def State.showHist (s : State) : State :=
  (s.wr F.digStatusSteps s.t.hist.length).wr F.digStatusLayers s.t.histLay.length

/-- A step record with its layer records, replacing one of the same step, or the oldest; under freeze nothing is
overwritten, and a record that cannot be written counts in lost. -/
def State.writeHist (s : State) (q : Soredium) (tick : Nat) (lays : List LayerDig) : State :=
  let same := fun (r : Soredium × Nat × Bool) => r.1.handle == q.handle && r.1.step == q.step
  let full := s.t.hist.any same || 4096 ≤ s.t.hist.length || 65536 < s.t.histLay.length + lays.length
  if s.is F.digCfgFreeze && full then s.bump F.digLostCount
  else
    let h := s.t.hist.filter fun r => !same r
    let gone := if 4096 ≤ h.length then h.drop 4095 else []
    let h := h.take 4095
    let lay := s.t.histLay.filter fun x =>
      !(x.1 == q.handle && x.2.1 == q.step) && !gone.any fun r => r.1.handle == x.1 && r.1.step == x.2.1
    let fr := freeLayers lays.length h.reverse lay
    (s.modT fun t => { t with hist := (q, tick % 2 ^ 16, false) :: fr.1.reverse,
                              histLay := fr.2 ++ lays.map fun y => (q.handle, q.step, y) }).showHist

/-! ### Contribution and soredium -/

/-- The die's partition; 0 before its scope table names one. -/
def State.diePartition (s : State) : Nat := s.t.partition.getD 0

/-- Slack of a contribution (R154): 0 on overrun; of a step with no completion the spec states none: a free value
(log 9). -/
def State.slackOf (s : State) (o : OpenStep) (status : Nat) : Nat × State :=
  if hasSt status stOverrun then (0, s)
  else match o.last with
    | some l => ((mtDiff ⟨o.tick + s.frameLen, 0⟩ l).toNat / 64, s)
    | none => (s.draw.1 % 2 ^ 32, s.draw.2)

/-- The channel's epoch in force at a step: the newest that a crozier has set from that step or an earlier one; 0 before the
first (R137). -/
def TsuChan.epochOf (c : TsuChan) (step : Nat) : Nat := ((c.epochs.find? fun x => x.1 ≤ step).map (·.2)).getD 0

/-- A strict channel's step used a layer of another epoch. Whether a channel is strict is known at the conductor
only; at the die it is a free value (R235, log 19). -/
def State.strictBit (s : State) (o : OpenStep) : Nat × State :=
  match s.chanOf o.handle with
  | some c => if o.layers.any fun y => y.epoch != c.epochOf o.step then
      ((if s.draw.1 % 2 = 1 then stWeight else 0), s.draw.2) else (0, s)
  | none => (0, s)

/-- The step digest closes and its soredium is sent (R223, R224); the epochs of a step that wrote nothing are
free (log 9). -/
def State.sendSoredium (s : State) (o : OpenStep) (status : Nat) : State :=
  let e := if o.layers.isEmpty then (s.draw.1 % 2 ^ 32, s.draw.2) else (epochMin o.layers, s)
  let s := e.2
  let q : Soredium :=
    { handle := o.handle, step := o.step, split := epochSplit o.layers,
      span := min 15 (epochMax o.layers - epochMin o.layers), multi := epochMulti o.layers, incomplete := false,
      digest := stepDigest o.layers, eMin := e.1, count := 1, variant := o.variant,
      weight := hasSt status stWeight, varMixed := false, attempt := s.attempt (hIndex o.handle) }
  ((s.sendUp .tsu 5 s.diePartition (.soredium q)).bump F.digSentCount).writeHist q o.tick o.layers

/-- An open digest is discarded and counted (R223, R239). -/
def State.discardDigest (s : State) (o : OpenStep) : State :=
  (s.bump F.digDiscardedCount).setStep { o with layers := [] }

/-- The step's one contribution is sent with the status gathered and `extra` (R35, R36, R154, R243), and its
digest closes, or is discarded under ABORTED and RESET. -/
def State.sendContribution (s : State) (o : OpenStep) (extra : Nat) : State :=
  if o.sent then s
  else
    let late := match s.chanOf o.handle with | some c => c.late | none => false
    let b := s.strictBit o
    let status := orSt (orSt (orSt o.status extra) (if late then stLate else 0)) b.1
    let k := b.2.slackOf o status
    let s := k.2.modChan o.handle fun c => { c with late := false }
    let o := { o with status := status, sent := true }
    let s := (s.setStep o).sendUp .tsu 4 s.diePartition
      (.compl ⟨s.diePartition, o.handle, o.step, o.tick % 2 ^ 16, 1, status, k.1⟩)
    if hasSt extra (stAborted + stReset) then s.discardDigest o
    else s.sendSoredium o status

/-- A fault status of a step reaches its contribution when that has not left, and sends it at once before tick
k+1 (R132, R243). -/
def State.stepFault (s : State) (o : OpenStep) (status : Nat) : State :=
  if o.sent || (o.tick + s.frameLen ≤ s.tsu.lfn && s.gridValid) then s
  else s.sendContribution o status

/-- State bit of a peristome by its source and argument (Table 6.10). -/
def State.periBit (s : State) (k : Nat) : Nat :=
  let arg := s.rd F.periCfgArg k
  match s.rd F.periCfgSource k with
  | 1 => s.rd F.periCfgForce k
  | 2 => bits (s.rd F.wgReadyReady (arg / 32)) (arg % 32) 1
  | 3 => b2n ((s.t.chans.filter fun x => x.2.state == 2).all fun x => (x.2.epoch + 4096 - arg % 4096) % 4096 < 2048)
  | 4 => b2n (!s.is F.thealthRolePending)
  | 5 => b2n ((List.range 64).all fun r => !s.is F.regionCfgEnable r || s.regionValid r)
  | 6 => b2n (s.timeValid .tsu && !s.is (F.timeStatusRefStep .tsu))
  | _ => 0

/-- The state bit of a peristome, where its registers show it (R139, Table 6.12). -/
def State.showTsuPeri (s : State) (k : Nat) : State :=
  let b := s.periBit k
  let w := s.rd F.periStateState (k / 32)
  (s.wr F.periCfgState b k).wr F.periStateState (w - 2 ^ (k % 32) * bits w (k % 32) 1 + 2 ^ (k % 32) * b) (k / 32)

/-- Tick k+1 of a step: tick overrun where a target has not completed, whether or not its contribution has left early, unless
its channel is gone or an abort has acted on it (R35, R37, R136); its contribution leaves where it has not (R243). -/
def State.closeStep (s : State) (o : OpenStep) : State :=
  if o.tick + s.frameLen ≠ s.tsu.lfn || (s.chanOf o.handle).isNone || o.aborted || o.closed then s
  else
    let ran := !o.missing.isEmpty
    let s := s.setStep { o with closed := true, overran := ran }
    let o := { o with closed := true, overran := ran }
    if ran then
      let s := ((s.bump F.overrunCountCount).penalise .tsu 6).faultRecord 0xC o.handle o.step
      let s := s.emit .tsu (.event 0x35 (o.handle :: o.step :: o.missing.map (· % 256)))
      s.sendContribution o stOverrun
    else s.sendContribution o 0

/-! ### Ready reports -/

/-- The die holds the role its scope table names, pending or not. -/
def State.hasRole (s : State) : Bool := s.is F.roleRoleValid || s.is F.thealthRolePending

/-- The ready report of a role (R240, R256): role, ready and LFN. -/
def State.reportReady (s : State) (ready : Bool) : State :=
  if s.hasRole then
    s.mgmtUp .tsu 1 s.diePartition [s.rd F.roleRole, b2n ready, (s.exported .tsu).lfn]
  else s

/-- The ready report that a die owes after it took its role: sent once pending is clear, the TSU is in VALID,
every enabled region is valid and the replay of B3 has ended (R240, R267, R325). -/
def State.oweReady (s : State) : State :=
  if !s.t.readySent && s.is F.roleRoleValid && s.timeValid .tsu && s.t.genSynced
      && (List.range 64).all (fun r => !s.is F.regionCfgEnable r || s.regionValid r) then
    (s.reportReady true).modT fun t => { t with readySent := true }
  else s

end Sys2Proof.Machine
end

