-- ==== Sys2Proof/Machine/ArmOps.lean ====
section
/-! DEFINITION. Croziers and the arm table at a TSU (R118 to R138): validity, target sets, entries and their ends,
staging, fires and frequency commits. -/

namespace Sys2Proof.Machine

/-! ### The crozier (R118 to R120, R124, R125) -/

/-- An idle half. -/
def czIdle (c : Crozier) : Bool :=
  c == ⟨0, 0, 0, 0, 0, 0, 0, 0, 0, 0, 0, 0⟩

/-- Core set of a target field, by form (Table 6.3). -/
def czCore (c : Crozier) : Nat :=
  match c.form with
  | 0 => bits c.target 42 8
  | 1 => bits c.target 53 8
  | 2 => bits c.target 16 8
  | _ => bits c.target 0 8

/-- The target field keeps Table 6.3. -/
def czTargetOk (c : Crozier) : Bool :=
  czCore c < 16 &&
  match c.form with
  | 0 =>
    let first := bits c.target 0 21
    let last := bits c.target 21 21
    bits c.target 50 14 == 0 && first ≤ last &&
      (c.scope == 1 || ((c.scope == 8 || c.scope == 9) && first == last && (c.scope == 9 || czCore c != 0)))
  | 1 =>
    bits c.target 61 3 == 0 && c.scope == 1 &&
      (List.range 32).all fun i => !bit c.target (21 + i) || bits c.target 0 21 + i < 2097152
  | 2 => bits c.target 24 40 == 0 && (c.scope == 0 || (10 ≤ c.scope && c.scope ≤ 12))
  | _ => bits c.target 8 56 == 0 && c.scope == 1

/-- The fields that a type does not use are 0 (Table 6.2). -/
def czFieldsOk (c : Crozier) : Bool :=
  match c.ctype with
  | 1 => c.handle != 0
  | 2 => c.handle == 0 && c.step == 0 && c.variant == 0 && c.payload / 16 == 0
  | 3 => c.variant == 0 && c.payload / 2 ^ 16 == 0
  | 4 => c.variant == 0
  | 5 => c.handle != 0
  | 6 => c.step == 0 && c.variant == 0
  | _ => false

/-- A crozier is malformed (R120). -/
def czMalformed (c : Crozier) : Bool :=
  !(c.rsv0 == 0 && c.rsv24 == 0 && c.form < 4 && czFieldsOk c && czTargetOk c)

/-- Two croziers of one partition have one key (R124). -/
def czSameKey (a b : Crozier) : Bool :=
  a.ctype == b.ctype && a.scope == b.scope && a.form == b.form && a.target == b.target && a.handle == b.handle
    && a.step == b.step && a.fireLfn == b.fireLfn && a.fireSub == b.fireSub

/-- The first byte in which two copies of one key differ; none where they are equal (R125). -/
def czDiffers (a b : Crozier) : Option Nat :=
  if a.rsv0 ≠ b.rsv0 then some 0
  else if a.variant ≠ b.variant then some 19
  else if a.rsv24 ≠ b.rsv24 then some 25
  else ([0, 1, 2, 3].find? fun i => bits a.payload (8 * i) 8 != bits b.payload (8 * i) 8).map (26 + ·)

/-- The role lies in the role set of a form 0, 1 or 3 crozier. -/
def czHasRole (c : Crozier) (role : Nat) : Bool :=
  match c.form with
  | 0 => bits c.target 0 21 ≤ role && role ≤ bits c.target 21 21
  | 1 => bits c.target 0 21 ≤ role && role < bits c.target 0 21 + 32 && bit c.target (21 + (role - bits c.target 0 21))
  | 2 => false
  | _ => true

/-- The crozier targets this TSU (R121). The scopes of the nested model other than the partition reach it only while its
nested domains are loaded: a role outside every chassis domain has none (R21). -/
def State.targetsMe (s : State) (c : Crozier) : Bool :=
  s.hasRole && (c.scope < 8 || s.is F.scopeChassisNested) &&
  if c.form = 2 then
    bits c.target 0 16 == (match c.scope with
      | 0 => s.rd F.scopePodPod
      | 10 => s.rd F.scopePkgBrdPackage
      | 11 => s.rd F.scopePkgBrdBoard
      | _ => s.rd F.scopeChassisChassis)
  else czHasRole c (s.rd F.roleRole)

/-- A launch target lies in core set `k`, 1 to 15 (R121). -/
def State.inCoreSet (s : State) (k target : Nat) : Bool := bit (s.rd F.coresetMask (k - 1) (target / 32)) (target % 32)

/-- The launch targets of a crozier on the die: those bound to its channel, or every one where it carries no
channel, limited to its core set. -/
def State.czTargets (s : State) (c : Crozier) : List Nat :=
  let base := if c.handle = 0 then s.wiredTargets else match s.chanOf c.handle with
    | some ch => ch.targets
    | none => []
  if czCore c = 0 then base else base.filter fun t => s.inCoreSet (czCore c) t

/-! ### Limits of TSU_ARM_CFG -/

/-- The guard in 10 ps units; values below 16 act as 16. -/
def State.guardUnits (s : State) : Int := (max 16 (s.rd F.armCfgGuard) : Nat) * 8192

/-- The greatest lead in 10 ps units; exponents outside 10 to 20 act as the nearer bound. -/
def State.maxLeadUnits (s : State) : Int := (2 ^ max 10 (min 20 (s.rd F.armCfgMaxLeadLog2)) : Nat) * 8192

/-! ### The table -/

/-- cap_pending shows that a frequency entry is armed (Table 6.12). -/
def State.showCap (s : State) : State :=
  s.wr F.lvlCapCapPending (b2n (s.t.arm.any fun x => x.2.cz.ctype == 2 && x.2.state < 4))

/-- The registers that show the table's occupancy. -/
def State.showArm (s : State) : State :=
  let n := s.t.arm.length
  let s := (s.wr F.armStatusInUse n).showCap
  if s.rd F.armStatusHighWater < n then s.wr F.armStatusHighWater n else s

/-- `s` with an entry changed. -/
def State.modEntry (s : State) (e : Nat) (f : ArmEntry → ArmEntry) : State :=
  match fget? s.t.arm e with
  | some a => s.modT fun t => { t with arm := fset t.arm e (f a) }
  | none => s

/-- The lowest FREE entry of 1,024. -/
def State.freeEntry? (s : State) : Option Nat := (List.range 1024).find? fun e => (fget? s.t.arm e).isNone

/-- An entry ends: its key goes to the retired table of 1,024, and a life with one copy counts, with a record
when the other port was UP throughout (R125, R129). -/
def State.endEntry (s : State) (e : Nat) : State :=
  match fget? s.t.arm e with
  | none => s
  | some a =>
    let s := (s.modT fun t => { t with arm := fdel t.arm e,
                                       retired := takeLast 1024 (t.retired ++ [(a.cz, s.tsu.lfn)]) }).showArm
    let s := s.modT fun t => { t with regions := t.regions.map fun x =>
      (x.1, { x.2 with staged := x.2.staged.filter fun w => w.1 != e }) }
    if a.twoSeen then s
    else
      let s := s.bump F.czSingleCount
      if s.upSince .tsu (1 - a.port) a.since then s.record .tsu 1 (Config.recordCode 1 125) else s

/-- An armed entry is cancelled (R131): staged words are withdrawn with withdraw words, and the entry is FREE. -/
def State.cancelEntry (s : State) (e : Nat) : State :=
  match fget? s.t.arm e with
  | none => s
  | some a =>
    let s := if a.state = 3 && !s.t.cmpAck then a.targets.foldl (fun s t =>
        s.fireNow t (launchWord 6 t e (s.attempt (hIndex a.cz.handle)) 0 a.cz.handle a.cz.step) none) s
      else s
    (s.bump F.czCancelledCount).endEntry e

/-- The entries of a channel with a step at or above one, that have not fired. -/
def State.entriesFrom (s : State) (handle step : Nat) : List Nat :=
  (s.t.arm.filter fun x => x.2.cz.handle == handle && step ≤ x.2.cz.step && x.2.state < 4).map (·.1)

/-! ### Refusals (R130, R132, Table 6.7) -/

/-- The miss log takes a crozier and its cause. -/
def State.missLog (s : State) (c : Crozier) (cause : Nat) : State :=
  (((((s.wr F.missLog0Handle c.handle).wr F.missLog1StepLo (c.step % 2 ^ 32)).wr F.missLog2StepHi
    (c.step / 2 ^ 32)).wr F.missLog2Cause cause).wr F.missLog2Type c.ctype).wr F.missLog3FireLfn c.fireLfn

/-- Missed-launch (R132): logged, counted, reported upward, and MISSED in the step's contribution. -/
def State.missLaunch (s : State) (c : Crozier) (fire cause : Nat) : State :=
  let s := (((s.missLog c cause).bump F.czMissedCount).faultRecord 1 c.handle c.step).penalise .tsu 5
  let o := s.openStep c fire
  s.stepFault o stMissed

/-- A crozier fault with its cause (R130). -/
def State.czFault (s : State) (c : Crozier) (cause : Nat) : State :=
  ((s.missLog c cause).bump F.czFaultCount).faultRecord 2 c.handle c.step

/-- The contribution of a launch crozier's step has already left (R129). -/
def State.contributionLeft (s : State) (c : Crozier) (fire : Nat) : Bool :=
  c.ctype == 1 && s.t.steps.any fun o =>
    o.handle == c.handle && o.step == c.step && o.sent && o.tick == s.tickOf fire

/-- A first copy is refused: its key joins the last 64 refused ones, and the cause is raised (R124, R130); where its step's
contribution has already left, it is logged and counted only (R129). -/
def State.refuseCz (s : State) (c : Crozier) (fire cause : Nat) : State :=
  let s := s.modT fun t => { t with refused := takeLast 64 (t.refused ++ [c]) }
  if s.contributionLeft c fire then (s.missLog c cause).bump (if cause ≤ 4 then F.czMissedCount else F.czFaultCount)
  else if c.ctype = 1 && cause ≤ 4 then s.missLaunch c fire cause else s.czFault c cause

/-- A second copy that differs is a pair divergence (R125). -/
def State.divergeCz (s : State) (first second : Crozier) (firstPort : Nat) : State :=
  match czDiffers first second with
  | none => s
  | some b =>
    (((((s.bump F.czDivergeCount).wr F.divLog0Handle first.handle).wr F.divLog1StepLo (first.step % 2 ^ 32)).wr
      F.divLog2Byte b).wr F.divLog2FirstPort firstPort).faultRecord 3 first.handle first.step |>.penalise .tsu 20

/-! ### Staging and firing (R133, R134, R324) -/

/-- Kind of the word that an entry stages: 1 launch, 3 marker, 4 token. -/
def stageKind (ctype : Nat) : Nat := if ctype = 6 then 3 else if ctype = 5 then 4 else 1

/-- Each region of an entry's targets has room for its words: it holds up to 32 (R133). -/
def State.stageFits (s : State) (a : ArmEntry) : Bool :=
  a.targets.all fun t =>
    let r := s.regionOf t
    (s.region r).staged.length + (a.targets.filter fun u => s.regionOf u == r).length ≤ 32

/-- The words of an entry are handed to the regions of its targets; while CMP_RST_ACK is high they are
discarded, and during a scrub the launch bus carries nothing (R133, R239, R299). -/
def State.stageWords (s : State) (e : Nat) (a : ArmEntry) : State :=
  let s := s.modEntry e fun a => { a with state := 3 }
  if s.t.cmpAck || s.tsu.scrub.isSome then s
  else a.targets.foldl (fun s t =>
    let r := s.regionOf t
    let s := s.modRegion r fun g => { g with staged := g.staged ++ [(e, t, stageKind a.cz.ctype)] }
    s.emit .tsu (.lw r (launchWord (stageKind a.cz.ctype) t e (s.attempt (hIndex a.cz.handle)) a.cz.variant a.cz.handle
      (if a.cz.ctype = 6 then a.cz.payload else a.cz.step)))) s

/-- A region fires an entry: it is valid, and its own count is that of the fire edge (R41). -/
def State.regionFires (s : State) (a : ArmEntry) (r : Nat) : Bool :=
  s.regionValid r && (s.region r).lfn == (fireEdge a.fire).lfn

/-- The targets of an entry whose regions fire it. -/
def State.firing (s : State) (a : ArmEntry) : List Nat := a.targets.filter fun t => s.regionFires a (s.regionOf t)

/-- An entry fires in the regions of its targets: lanes, edges, words moved to a later edge, words that no target has
acknowledged (R134, R324); during a scrub the launch bus carries nothing (R299). -/
def State.fireWords (s : State) (e : Nat) (a : ArmEntry) : State :=
  if s.tsu.scrub.isSome then s else
  let live := s.firing a
  let regs := (live.map fun t => s.regionOf t).eraseDups
  let s := regs.foldl (fun s r =>
    let k := s.fireShift e r
    let n := (live.filter fun t => s.regionOf t == r).length
    let s := if k.1 = edgeNo a.fire then s else s.bump F.czCollideCount 0 n
    s.emit .tsu (.fire r k.2 e (mtOf (k.1 * 64)))) s
  s.bump F.busLwNoackCount 0 (live.filter fun t => !a.acked.contains t).length

/-- The entry is FIRED, and its staged words leave their regions; `void` where its fire count passed without a fire. -/
def State.entryEnds (s : State) (e : Nat) (void : Bool) : State :=
  let s := (s.modEntry e fun a => { a with state := 4, firedAt := s.tsu.lfn, void := void }).showCap
  s.modT fun t => { t with regions := t.regions.map fun x =>
    (x.1, { x.2 with staged := x.2.staged.filter fun w => w.1 != e }) }
def State.entryFired (s : State) (e : Nat) : State := s.entryEnds e false
def State.entryVoid (s : State) (e : Nat) : State := s.entryEnds e true

/-- The channels an abort acts on: the one it names, or with handle 0 every one of the die within its target set, that is,
with a target in its core set (R136). -/
def State.abortChannels (s : State) (c : Crozier) : List (Nat × TsuChan) :=
  if c.handle = 0 then s.t.chans.filter fun x => czCore c = 0 || x.2.targets.any fun t => s.inCoreSet (czCore c) t
  else s.t.chans.filter fun x => x.1 == hIndex c.handle && x.2.gen == hGen c.handle

/-- An abort that acts at or before an entry's fire count cancels it: its channel is the abort's, and its step lies at or
above the abort step, or the channel is destroyed (R131, R217). -/
def State.abortCovers (s : State) (a : ArmEntry) : Bool :=
  a.cz.handle ≠ 0 && s.t.aborts.any fun x =>
    !x.done && !mtBefore a.fire x.act && (x.cz.payload == 2 || x.cz.step ≤ a.cz.step)
      && (s.abortChannels x.cz).any fun y => y.1 == hIndex a.cz.handle && y.2.gen == hGen a.cz.handle

/-- An entry of a type that has not fired. -/
def State.liveEntry (s : State) (e ctype : Nat) : Option ArmEntry :=
  (fget? s.t.arm e).filter fun a => a.cz.ctype == ctype && a.state < 4

/-- An entry of a type whose fire count has come and which has not fired. -/
def State.dueEntry (s : State) (e ctype : Nat) : Option ArmEntry :=
  (s.liveEntry e ctype).filter fun a => !mtBefore (s.now .tsu) a.fire

/-! ### Frequency commits (R138, R334) -/

/-- Level of a region in a request list; 15 while local requests are ignored. -/
def State.levelAt (s : State) (req : List Nat) (r : Nat) : Nat :=
  if s.is F.lvlCfgLocalEn then req.getD r 15 % 16 else 15

/-- The level a region is driven at. -/
def State.lvlCur (s : State) (r : Nat) : Nat := bits (s.rd F.lvlCurLevels (r / 8)) (4 * (r % 8)) 4

/-- `s` with the level of a region in LVL_CUR. -/
def State.setLvl (s : State) (r v : Nat) : State :=
  let w := s.rd F.lvlCurLevels (r / 8)
  s.wr F.lvlCurLevels (w - 2 ^ (4 * (r % 8)) * bits w (4 * (r % 8)) 4 + 2 ^ (4 * (r % 8)) * (v % 16)) (r / 8)

/-- The requests of the tick at `s`'s count are sampled, once (R138). -/
def State.sampleLvl (s : State) (req : List Nat) : State :=
  if s.t.lvlSampleAt = some s.tsu.lfn then s
  else
    let s := (List.range 8).foldl (fun s w => s.wr F.lvlReqSnapLevels
      (sumNat ((List.range 8).map fun i => req.getD (8 * w + i) 15 % 16 * 2 ^ (4 * i))) w) s
    s.modT fun t => { t with lvlReq := (req :: t.lvlReq).take 3, lvlSampleAt := some s.tsu.lfn }

/-- One region's commit: a valid region takes min(req, cap) and is strobed when it changes or owes a commit; an
invalid one keeps its level and owes one. -/
def State.commitRegion (s : State) (req : List Nat) (cap r : Nat) : State :=
  if !s.regionValid r then s.modRegion r fun g => { g with owed := true }
  else
    let v := min (s.levelAt req r) cap
    if (s.region r).owed || s.lvlCur r ≠ v then
      let s := ((s.setLvl r v).modRegion r fun g => { g with owed := false }).emit .tsu (.lvl r v true)
      if s.t.lvlCommitAt = some s.tsu.lfn then s
      else (s.bump F.lvlCommitsCount).modT fun t => { t with lvlCommitAt := some s.tsu.lfn }
    else s

/-- The commit of this tick (R138): the requests of two ticks back, or with none so far the greatest level, and
the cap in force; none during a scrub (R299). -/
def State.commitLvl (s : State) : State :=
  if s.tsu.scrub.isSome then s else
  let req := s.t.lvlReq.getD 2 (List.range 64 |>.map fun r => s.lvlCur r)
  ((List.range 64).filter fun r => s.is F.regionCfgEnable r).foldl
    (fun s r => s.commitRegion req (s.rd F.lvlCapCap) r) s

end Sys2Proof.Machine
end

