-- ==== Sys2Proof/Machine/Inputs.lean ====
section
/-! DEFINITION. The inputs that a conductor holds for commit (R163), and the slots that it serves. -/

namespace Sys2Proof.Machine

/-! ### Partition slots of the conductor (R15, R205) -/

/-- Slot record valid and apex: the slot a conductor serves. -/
def State.slotServes (s : State) (slot : Nat) : Bool := s.is F.condPartValid slot && s.is F.condPartApex slot

/-- The slot of a partition whose apex this pair is. -/
def State.apexSlot (s : State) (part : Nat) : Option Nat :=
  (List.range 256).find? fun k => s.slotServes k && s.rd F.condPartPartition k == part

/-- The member's role: 0 active, 1 shadow, 2 solo, 3 passive (Table 7.10). -/
def State.condRole (s : State) : Nat := s.rd F.condStatusRole

/-- The member fixes commit counts and posts: active or solo. -/
def State.isActive (s : State) : Bool := s.condRole == 0 || s.condRole == 2

/-! ### Inputs (R163) -/

/-- commit_lf of a slot; of an input of no slot, that of the first slot served (log 20). -/
def State.commitLf (s : State) (slot : Option Nat) : Nat :=
  match slot with
  | some k => s.rd F.condTimingCommitLf k
  | none => match (List.range 256).find? s.slotServes with
    | some k => s.rd F.condTimingCommitLf k
    | none => 8

/-- An input is held: at the active member with its commit count, of which it tells the shadow, a descriptor in full
(R167); at a shadow with the count of a notice that has come before it, or without one; a passive member takes none. A
notice whose count has passed before the shadow holds its input leaves the input out, and the next compare shows it
(log 54). -/
def State.holdInput (s : State) (slot : Option Nat) (k : InputKind) : State :=
  if s.condRole = 3 then s
  else
    let at_ := s.dbx.lfn + s.commitLf slot
    let told := (s.d.notices.find? fun x => x.1 == k).map (·.2)
    let c := if s.isActive then some at_ else told
    let s := s.modD fun d => { d with inputs := d.inputs ++ [⟨d.nextId, k, s.dbx.lfn, c, slot⟩], nextId := d.nextId + 1
                                      notices := match told with | some t => d.notices.erase (k, t) | none => d.notices }
    if s.condRole = 0 then s.emit .dbx (.input 1 k (some at_)) else s

/-- The channel an input concerns. -/
def inputIndex : InputKind → Nat
  | .aggregate c => hIndex c.handle
  | .result h _ _ _ => hIndex h.handle
  | .soredium q => hIndex q.handle
  | .verdict h _ => hIndex h
  | .poll k _ _ => k
  | .descriptor _ _ d _ _ => hIndex d.handle
  | .layout .. | .divergence | .stepEvent | .ready .. => 0

/-- Place of an input in the order of R163: aggregates, results, polls, descriptors, layouts, divergences, step
events; a verdict and a ready report stand after the results (log 21). -/
def inputOrder : InputKind → Nat
  | .aggregate _ => 0
  | .result .. => 1
  | .soredium _ => 1
  | .verdict .. => 2
  | .ready .. => 2
  | .poll .. => 3
  | .descriptor .. => 4
  | .layout .. => 5
  | .divergence => 6
  | .stepEvent => 7

/-- A member that is the apex of some partition holds an input of no slot. -/
def State.holdApex (s : State) (k : InputKind) : State :=
  if (List.range 256).any s.slotServes then s.holdInput none k else s

end Sys2Proof.Machine
end

