-- ==== Sys2Proof/Machine/TreeOps.lean ====
section
/-! DEFINITION. Roles at a distributor: the routing tables (R122, R263), role sets as lists of intervals, the
positions below a node, and pair divergence. -/

namespace Sys2Proof.Machine

/-! ### Sets of roles as lists of intervals -/

/-- Roles from first to last, both included. -/
abbrev Ivs := List (Nat × Nat)

/-- Insertion by first role, and a list in that order. -/
def ivInsert (x : Nat × Nat) : Ivs → Ivs
  | [] => [x]
  | y :: l => if x.1 ≤ y.1 then x :: y :: l else y :: ivInsert x l
def ivSort : Ivs → Ivs
  | [] => []
  | x :: l => ivInsert x (ivSort l)

/-- How many roles at or above `from_` a sorted list covers. -/
def ivCountFrom : Nat → Ivs → Nat
  | _, [] => 0
  | c, (a, b) :: l => if max a c ≤ b then (b + 1 - max a c) + ivCountFrom (b + 1) l else ivCountFrom c l

/-- Number of distinct roles. -/
def ivCount (l : Ivs) : Nat := ivCountFrom 0 (ivSort l)

/-- Intersection. -/
def ivMeet (a b : Ivs) : Ivs :=
  a.flatMap fun x => b.filterMap fun y =>
    if max x.1 y.1 ≤ min x.2 y.2 then some (max x.1 y.1, min x.2 y.2) else none

/-- The set holds a role. -/
def ivHas (l : Ivs) (r : Nat) : Bool := l.any fun x => x.1 ≤ r && r ≤ x.2

/-- The set without one role. -/
def ivDel (l : Ivs) (r : Nat) : Ivs :=
  l.flatMap fun x =>
    if x.1 ≤ r && r ≤ x.2 then
      (if x.1 < r then [(x.1, r - 1)] else []) ++ (if r < x.2 then [(r + 1, x.2)] else [])
    else [x]

/-- Roles of the set below a role: its rank (R185). -/
def ivRank (l : Ivs) (r : Nat) : Nat := if r = 0 then 0 else ivCount (ivMeet l [(0, r - 1)])

/-! ### Routing tables (R122, Table 6.11) -/

/-- Valid scope entries of a partition: kind, number, roles. -/
def State.scopesOf (s : State) (part : Nat) : List (Nat × Nat × Nat × Nat) :=
  s.d.tScope.filterMap fun x =>
    if bit x.2 60 && bits x.2 64 16 == part then
      some (bits x.2 58 2, bits x.2 42 16, bits x.2 0 21, bits x.2 21 21)
    else none

/-- Valid route entries of a partition: position, roles. -/
def State.routesOf (s : State) (part : Nat) : List (Nat × Nat × Nat) :=
  s.d.tRoute.filterMap fun x =>
    if bit x.2 49 && bits x.2 64 16 == part then some (bits x.2 42 7, bits x.2 0 21, bits x.2 21 21) else none

/-- Valid exception entries of a partition: role, position; the first of a role counts. -/
def State.excsOf (s : State) (part : Nat) : List (Nat × Nat) :=
  s.d.tExc.foldl (fun a x =>
    if bit x.2 28 && bits x.2 64 16 == part && !a.any (fun y => y.1 == bits x.2 0 21) then
      a ++ [(bits x.2 0 21, bits x.2 21 7)] else a) []

/-- The position that the route entries give a role. -/
def nativePos (routes : List (Nat × Nat × Nat)) (r : Nat) : Option Nat :=
  (routes.find? fun x => x.2.1 ≤ r && r ≤ x.2.2).map (·.1)

/-- The roles of a partition below one position (R263): the native ones without exceptions, and those that an
exception names there, unless it is the native position. -/
def State.rolesAt (s : State) (part pos : Nat) : Ivs :=
  let ro := s.routesOf part
  let ex := s.excsOf part
  let nat := ex.foldl (fun l x => ivDel l x.1) ((ro.filter fun x => x.1 == pos).map fun x => (x.2.1, x.2.2))
  nat ++ (ex.filter fun x => x.2 == pos && nativePos ro x.1 != some pos).map fun x => (x.1, x.1)

/-- The positions that the tables give a partition. -/
def State.positionsOf (s : State) (part : Nat) : List Nat :=
  ((s.routesOf part).map (·.1) ++ (s.excsOf part).map (·.2)).eraseDups

/-- The roles of a partition below the node. -/
def State.rolesBelow (s : State) (part : Nat) : Ivs := (s.positionsOf part).flatMap (s.rolesAt part)

/-- Kind of domain that a scope code names (Table 1.4). -/
def scopeKind (scope : Nat) : Nat := if scope = 10 then 1 else if scope = 11 then 2 else if scope = 12 then 3 else 0

/-- Roles of a domain. -/
def State.domainRoles (s : State) (part kind num : Nat) : Ivs :=
  ((s.scopesOf part).filter fun x => x.1 == kind && x.2.1 == num).map fun x => (x.2.2.1, x.2.2.2)

/-- Every role (R13). -/
def allRoles : Ivs := [(0, 2097151)]

/-- The role set of a target field by form (R120, R122). -/
def State.targetRoles (s : State) (part form scope target : Nat) : Ivs :=
  match form with
  | 0 => [(bits target 0 21, bits target 21 21)]
  | 1 => ((List.range 32).filter fun i => bit target (21 + i)).map fun i => (bits target 0 21 + i, bits target 0 21 + i)
  | 2 => s.domainRoles part (scopeKind scope) (bits target 0 16)
  | _ => allRoles

/-- The role set of a crozier. -/
def State.czRoles (s : State) (part : Nat) (c : Crozier) : Ivs := s.targetRoles part c.form c.scope c.target

/-- The roles of a key's scope below the node (R171, R363); `role` is the one role of scope codes 8 and 9. -/
def State.scopeRoles (s : State) (part scope domain role : Nat) : Ivs :=
  if scope = 8 || scope = 9 then ivMeet [(role, role)] (s.rolesBelow part)
  else if scope = 1 then s.rolesBelow part
  else ivMeet (s.domainRoles part (scopeKind scope) domain) (s.rolesBelow part)

/-- Downlinks of a child position (R10, R123): downlink n of a leaf, ports 2j and 2j + 1 elsewhere. -/
def State.portsAt (s : State) (pos : Nat) : List Nat :=
  (if s.level = 1 then [pos] else [2 * pos, 2 * pos + 1]).filter (· < 128)

/-- Child position of a downlink (R10, R170). -/
def State.posOf (s : State) (port : Nat) : Nat := if s.level = 1 then port else port / 2

/-- Content is queued once on every downlink that is UP and whose roles meet the set (R123, R188). -/
def State.sendDown (s : State) (part cls : Nat) (roles : Ivs) (c : Content) : State :=
  let ports := ((s.positionsOf part).filter fun p => !(ivMeet (s.rolesAt part p) roles).isEmpty).flatMap s.portsAt
  (ports.filter (s.up .dbx)).foldl (fun s p => s.enqueue .dbx p cls part c) s

/-- A management message of channel 2 downward (R139, R159, R255, R256, R273): it waits for the S7 area of every downlink
whose roles meet the set. -/
def State.mgmtDown (s : State) (part : Nat) (roles : Ivs) (type : Nat) (vals : List Nat) : State :=
  (((s.positionsOf part).filter fun p => !(ivMeet (s.rolesAt part p) roles).isEmpty).flatMap s.portsAt).foldl
    (fun s p => s.queueMsg .dbx p 1 2 (mgmtBytes type part vals)) s

/-! ### Pair divergence (R125, R165) -/

/-- A fault record of pair divergence leaves upward, and a member that is an apex commits it. -/
def State.pairDiverges (s : State) : State :=
  let s := (s.record .dbx 3 3).penalise .dbx 20
  s.holdApex .divergence

/-- A divergence of two copies is logged: key, the ports of the first and the second copy, the first differing byte
(R125); a byte beyond the field's five bits shows as 31 (log 161). -/
def State.divLog (s : State) (handle stepLo first second byte : Nat) : State :=
  ((((s.wr F.dczDivLog0Handle handle).wr F.dczDivLog1StepLo (stepLo % 2 ^ 32)).wr F.dczDivLog2FirstPort first).wr
    F.dczDivLog2SecondPort second).wr F.dczDivLog2Byte (min 31 byte)

/-! ### Copies (R170, R173) -/

/-- What a copy from a downlink is: a first copy, the second copy of the one at an index, one that differs from it, or one
for which its child position has no room left. -/
inductive Copy where
  | first | same (i : Nat) | differs (i : Nat) | surplus
deriving DecidableEq, Repr

/-- A copy that comes on `port` against the first copies kept. The second copy of one comes on the other port of its child
position; `like` says that two contents have one identity, `room` that the position has roles not received yet: where it
has, a copy of one identity that equals none is a further partial of a node without space (R173, log 158). -/
def State.copyKind (s : State) {α : Type} [DecidableEq α] (parts : List (Nat × α)) (seen : List Nat) (port : Nat) (x : α)
    (like : α → Bool) (room : Bool) : Copy :=
  let open_ := (parts.zipIdx.filter fun y =>
    y.1.1 != port && s.posOf y.1.1 == s.posOf port && !seen.contains y.2 && like y.1.2)
  match open_.find? fun y => decide (y.1.2 = x), open_ with
  | some y, _ => .same y.2
  | none, [] => if room then .first else .surplus
  | none, y :: _ => if room then .first else .differs y.2

end Sys2Proof.Machine
end

