-- ==== Sys2Proof/Machine/Tau.lean ====
section
/-! DEFINITION. The tree arithmetic unit (R169 to R191): bodies and how they combine, keys, the partial that a node
forwards, ordered blocks, and the result at the apex. -/

namespace Sys2Proof.Machine

/-! ### Bodies -/

/-- Operation codes of Table 8.1. -/
def opSum : Nat := 0
def opMax : Nat := 1
def opArgmax : Nat := 3
def opTopk : Nat := 4
def opCount : Nat := 8
def opHist : Nat := 9
def opPass1 : Nat := 10
def opPass2 : Nat := 11

/-- Two lists element by element; the longer one's rest is kept. -/
def joinLists {α : Type} (f : α → α → α) : List α → List α → List α
  | [], l => l
  | l, [] => l
  | x :: a, y :: b => f x y :: joinLists f a b

/-- MAX and MIN of two codes (R184): numeric, NaN takes no part, MAX prefers +0 and MIN −0. -/
def pickCode (f op a b : Nat) : Nat :=
  match orderKey f a, orderKey f b with
  | none, _ => b
  | _, none => a
  | some x, some y =>
    let neg := fun c => bit c (fmtBits f - 1)
    if x = y then (if op = opMax then (if neg a then b else a) else (if neg a then a else b))
    else if (op = opMax) = (y < x) then a else b

/-- One element of a bitwise operation, MAX or MIN. -/
def joinCode (f op a b : Nat) : Nat :=
  match op with
  | 5 => Nat.land a b
  | 6 => Nat.lor a b
  | 7 => Nat.xor a b
  | _ => pickCode f op a b

/-- An unwritten element takes no part (R169). -/
def joinOpt {α : Type} (f : α → α → α) : Option α → Option α → Option α
  | none, b => b
  | a, none => a
  | some a, some b => some (f a b)

/-- An entry ranks before another (R185): larger value, then lower role, then lower element. -/
def entryBefore (f : Nat) (a b : PEntry) : Bool :=
  let x := (orderKey f a.value).getD 0
  let y := (orderKey f b.value).getD 0
  y < x || (x == y && (a.role < b.role || (a.role == b.role && a.element < b.element)))

/-- Insertion into ranked entries. -/
def entryInsert (f : Nat) (e : PEntry) : List PEntry → List PEntry
  | [] => [e]
  | x :: l => if entryBefore f e x then e :: x :: l else x :: entryInsert f e l

/-- Entries in rank, NaN excluded. -/
def rankEntries (f : Nat) (es : List PEntry) : List PEntry :=
  (es.filter fun e => (orderKey f e.value).isSome).foldl (fun l e => entryInsert f e l) []

/-- Entries that a node forwards: 1 for ARGMAX, 256 for sample pass 1 and, since k travels in no header, for TOPK
(log 22). -/
def keepEntries (op : Nat) : Nat := if op = opArgmax then 1 else 256

/-- A count added to a list sorted by bin (R186). -/
def binAdd (b : Nat) (c : Int) : List (Nat × Int) → List (Nat × Int)
  | [] => [(b, c)]
  | (k, v) :: l => if b < k then (b, c) :: (k, v) :: l else if b = k then (k, v + c) :: l else (k, v) :: binAdd b c l

/-- Two bodies of one key, but for ordered blocks. -/
def joinBody (f op : Nat) : PBody → PBody → PBody
  | .exact a s, .exact b t => .exact (joinLists (· + ·) a b) (joinLists specialJoin s t)
  | .elems a, .elems b => .elems (joinLists (joinOpt (joinCode f op)) a b)
  | .entries a, .entries b => .entries ((rankEntries f (a ++ b)).take (keepEntries op))
  | .hist a, .hist b => .hist (b.foldl (fun l x => binAdd x.1 x.2 l) a)
  | a, _ => a

/-- Entries of a body, for its header. -/
def bodyEntries : PBody → Nat
  | .entries es => es.length
  | .hist bs => bs.length
  | _ => 0

/-! ### Keys (R169 to R171) -/

/-- Two partials have one key; pass 2 of a sample is a key of its own (log 23). -/
def samePKey (a b : PHdr) : Bool :=
  a.handle == b.handle && a.stepLo == b.stepLo && a.tag == b.tag && a.attempt == b.attempt
    && (a.op == opPass2) == (b.op == opPass2)

/-- Partials of one key that may be combined (R174). -/
def sameKind (a b : PHdr) : Bool :=
  a.op == b.op && a.format == b.format && a.nM1 == b.nM1 && a.scope == b.scope && a.domain == b.domain

/-- Scope codes that name one role. -/
def oneRole (scope : Nat) : Bool := scope == 8 || scope == 9

/-- Identity of a partial from one child position: its ordered block (R170). -/
def sameBlock (a b : PHdr) : Bool := a.ordered == b.ordered && (!a.ordered || (a.blkA == b.blkA && a.blkJ == b.blkJ))

/-- Roles received for a key: the counts of the first copies. -/
def TauKey.count (k : TauKey) : Nat := sumNat (k.parts.map fun x => x.2.hdr.count)

/-- Expected count of a key at this node (R171). -/
def State.tauExpected (s : State) (k : TauKey) : Nat :=
  match k.roles with
  | some r => ivCount (ivMeet r (s.rolesBelow k.partition))
  | none =>
    if oneRole k.first.scope then 1
    else ivCount (s.scopeRoles k.partition k.first.scope k.first.domain k.first.blkA)

/-- KiB of accumulator space of a key (R173, Table 8.4). -/
def tauSpace (k : TauKey) : Nat :=
  let h := k.first
  let per :=
    if h.op = opArgmax || h.op = opTopk || h.op = opPass1 then 0
    else if h.ordered then 8 * k.parts.length
    else if h.op = opPass2 then 24
    else if h.op = opCount then 4
    else if h.op = opSum then
      (if h.format = 2 || h.format = 3 then 48 else if h.format ≤ 10 || h.format = 14 then 16 else 8)
    else fmtBits h.format / 8 + 1
  ceilDiv (per * (h.nM1 + 1) + (if per = 0 then 256 * (if fmtBits h.format = 64 then 16 else 12) else 0)) 1024

/-- Keys that are open, and their space. -/
def State.tauOpen (s : State) : List TauKey := s.d.tau.filter fun k => !k.noSpace && !k.through && !k.parts.isEmpty
def State.tauUsed (s : State) : Nat := sumNat (s.tauOpen.map tauSpace)

/-- The TAU has space for a new key: 1,024 open keys and 16 MiB (R173). -/
def State.tauRoom (s : State) (k : TauKey) : Bool := s.tauOpen.length < 1024 && s.tauUsed + tauSpace k ≤ 16384

/-- The registers that show the TAU. -/
def State.showTau (s : State) : State :=
  (s.wr F.tauStatusOpen s.tauOpen.length).wr F.tauStatusSpace s.tauUsed

/-- The key table with one key replaced. -/
def putTau (old new : TauKey) : List TauKey → List TauKey
  | [] => []
  | k :: l => if k = old then new :: l else k :: putTau old new l

/-- A key closes at the node (R171). -/
def State.shutTau (s : State) (k : TauKey) : State :=
  (s.modD fun d => { d with tau := d.tau.filter fun x => x != k, tauShut := d.tauShut ++ [k] }).showTau

/-! ### Ordered sums (R181, R182, R364) -/

/-- An ordered block: start, exponent, values, roles, status, contribution error. -/
structure OBlock where
  a      : Nat
  j      : Nat
  vals   : List (Option Nat)
  count  : Nat
  status : Nat
  err    : Bool
deriving DecidableEq, Repr

/-- The block of an ordered partial. -/
def blockOf (p : PPartial) : OBlock :=
  ⟨p.hdr.blkA, p.hdr.blkJ, (match p.body with | .ordered v => v | _ => []), p.hdr.count, p.hdr.status, p.hdr.contribErr⟩

/-- The FP64 add of two elements, with its status bits. -/
def addBlockElem (x y : Option Nat) : Option Nat × Nat :=
  match x, y with
  | none, b => (b, 0)
  | a, none => (a, 0)
  | some a, some b =>
    let r := addFloat 1 a b
    (some r.code, (if r.overflow then 4 else 0) + (if r.inexact then 8 else 0)
      + (if decodeFloat 1 r.code = .nan then 2 else 0))

/-- The add of two blocks, lower half first. -/
def addBlocks (a j : Nat) (x y : OBlock) : OBlock :=
  let n := max x.vals.length y.vals.length
  let es := (List.range n).map fun i => addBlockElem (x.vals.getD i none) (y.vals.getD i none)
  ⟨a, j, es.map (·.1), x.count + y.count, orSt (orSt x.status y.status) (es.foldl (fun t e => orSt t e.2) 0),
    x.err || y.err⟩

/-- block(a, j) over received blocks; none where no role is present. -/
def blockValue : Nat → Nat → List OBlock → Option OBlock
  | j, a, bs =>
    match bs.filter fun b => a ≤ b.a && b.a + 2 ^ b.j ≤ a + 2 ^ j with
    | [] => none
    | inside =>
      match inside.find? fun b => b.a == a && b.j == j with
      | some b => some b
      | none =>
        match j with
        | 0 => none
        | i + 1 =>
          match blockValue i a inside, blockValue i (a + 2 ^ i) inside with
          | none, r => r.map fun b => { b with a := a, j := i + 1 }
          | l, none => l.map fun b => { b with a := a, j := i + 1 }
          | some l, some r => some (addBlocks a (i + 1) l r)

/-- Every role of the key's scope within a block lies below the node. -/
def blockComplete (full below : Ivs) (a j : Nat) : Bool :=
  let m := ivMeet full [(a, a + 2 ^ j - 1)]
  ivCount (ivMeet m below) == ivCount m

/-- The maximal complete blocks that hold something, or single roles where none is complete. -/
def maxBlocks (full below : Ivs) : Nat → Nat → List OBlock → List OBlock
  | j, a, bs =>
    match bs.filter fun b => a ≤ b.a && b.a + 2 ^ b.j ≤ a + 2 ^ j with
    | [] => []
    | inside =>
      if blockComplete full below a j then (blockValue j a inside).toList
      else match j with
        | 0 => inside
        | i + 1 =>
          (inside.filter fun b => b.a == a && b.j == i + 1)
            ++ maxBlocks full below i a inside ++ maxBlocks full below i (a + 2 ^ i) inside

/-- The roles of a key's scope: domains by the scope table, the partition as the node knows it (R182). -/
def State.fullScope (s : State) (k : TauKey) : Ivs :=
  if oneRole k.first.scope then [(k.first.blkA, k.first.blkA)]
  else if k.first.scope = 1 then Config.partitionRoles k.partition
  else s.domainRoles k.partition (scopeKind k.first.scope) k.first.domain

/-! ### The partials that a node forwards -/

/-- Status and errors of all the first copies of a key. -/
def TauKey.status (k : TauKey) : Nat := k.parts.foldl (fun a x => orSt a x.2.hdr.status) 0
def TauKey.anyErr (k : TauKey) : Bool := k.err || k.parts.any fun x => x.2.hdr.contribErr

/-- The body of all the first copies of a key that is not ordered. -/
def TauKey.body (k : TauKey) : Option PBody :=
  match k.parts with
  | [] => none
  | x :: l => some (l.foldl (fun b y => joinBody k.first.format k.first.op b y.2.body) x.2.body)

/-- Header of a forwarded partial. -/
def TauKey.outHdr (k : TauKey) : PHdr :=
  { k.first with count := k.count, status := k.status, contribErr := k.anyErr,
                 entries := (match k.body with | some b => bodyEntries b | none => 0) }

/-- What a node forwards of a key (R171, R182). -/
def State.tauForward (s : State) (k : TauKey) : List PPartial :=
  if k.first.ordered then
    let bs := k.parts.map fun x => blockOf x.2
    let out := if oneRole k.first.scope then bs
      else maxBlocks (s.fullScope k) (s.rolesBelow k.partition) 21 0 bs
    out.map fun b =>
      { hdr := { k.first with count := b.count, status := b.status, contribErr := b.err || k.err, blkA := b.a, blkJ := b.j }
        body := .ordered b.vals }
  else match k.body with
    | some b => [⟨k.outHdr, b⟩]
    | none => []

/-- A key of a node below the apex forwards what it holds and closes; one whose partials the node has passed on only
closes. -/
def State.tauClose (s : State) (k : TauKey) : State :=
  let s := (if k.through then [] else s.tauForward k).foldl (fun s p => (s.sendUp .dbx 2 k.partition (.part p)).bump F.tauOutCount) s
  s.shutTau k

/-! ### Results (R172, R177 to R188, R363, R364) -/

/-- A result: status of Table 8.6, elements (none: the spec states no value), entries as value and global index,
and the value for the register. -/
structure TauResult where
  status : Nat
  codes  : List (Option Nat)
  index  : List (Nat × Nat)
  value  : Option Nat
deriving DecidableEq, Repr

/-- Fields of a REDUCE word (Table 7.3). -/
def rwOp (w : Nat) : Nat := bits w 0 4
def rwFormat (w : Nat) : Nat := bits w 4 4
def rwScope (w : Nat) : Nat := bits w 8 4
def rwNm1 (w : Nat) : Nat := bits w 12 12
def rwTag (w : Nat) : Nat := bits w 24 8
def rwK (w : Nat) : Nat := bits w 32 8 + 1
def rwSat (w : Nat) : Bool := bit w 40
def rwDown (w : Nat) : Bool := bit w 41
def rwWait (w : Nat) : Bool := bit w 42
def rwDst (w : Nat) : Nat := bits w 43 3

/-- Element codes and status of a body under an operation (R180, R183, R184, R186). -/
def finishElems (f op n : Nat) (sat : Bool) : Option PBody → List (Option Nat) × Nat
  | some (.exact acc sp) =>
    let r := (List.range n).map fun i => roundAcc f sat (acc.getD i 0) (sp.getD i 0)
    (r.map fun x => some x.1, r.foldl (fun a x => orSt a x.2) 0)
  | some (.ordered vals) =>
    let r := (List.range n).map fun i =>
      let v := (vals.getD i none).getD 0
      if f = 15 then f64ToLp v else (v, 0)
    (r.map fun x => some x.1, r.foldl (fun a x => orSt a x.2) 0)
  | some (.elems codes) =>
    let r := (List.range n).map fun i =>
      match codes.getD i none with
      | none => (none, 0)
      | some c => if (orderKey f c).isNone && op < 3 then (some (nanCode f), 2) else (some c, 0)
    (r.map (·.1), r.foldl (fun a x => orSt a x.2) 0)
  | some (.hist bins) =>
    let r := (List.range n).map fun i =>
      roundAcc f sat (2 ^ 192 * ((bins.find? fun b => b.1 == i).map (·.2)).getD 0) 0
    (r.map fun x => some x.1, r.foldl (fun a x => orSt a x.2) 0)
  | some (.entries _) => ([], 0)
  | none => (List.replicate n (if op = 0 then some (if f = 15 then 0x7FFF else 0)
      else if op = opCount || op = opHist then some 0 else none), 0)

/-- A code extended to a register (R188): integer formats as their value, others with zeros. -/
def extendCode (f c : Nat) : Nat := if fmtInt f then ofSigned 64 (intValue f c) else c

/-- Ranked entries by global index (R185). -/
def globalIndex (roles : Ivs) (n : Nat) (e : PEntry) : Nat := ivRank roles e.role * n + e.element

/-- The result of a REDUCE word over a key (R172, R363). -/
def State.reduceResult (s : State) (k : TauKey) (w : Nat) : TauResult :=
  let like := k.parts.isEmpty ||
    (k.first.op == rwOp w && k.first.format == rwFormat w && k.first.nM1 == rwNm1 w)
  let parts := if like then k.parts else []
  let k' := { k with parts := parts }
  let roles := s.scopeRoles k.partition k.first.scope k.first.domain k.first.blkA
  let n := rwNm1 w + 1
  let f := rwFormat w
  let base := orSt (orSt k'.status
      (if k.count < (if k.parts.isEmpty then s.tauExpected k + 1 else s.tauExpected k) then 1 else 0))
    (orSt (if k'.anyErr || !like || (!k.parts.isEmpty && k.first.scope != rwScope w) then 16 else 0)
      (if k.noSpace then 33 else 0))
  if rwOp w = opArgmax || rwOp w = opTopk then
    let kk := if rwOp w = opArgmax then 1 else rwK w
    let es := match k'.body with | some (.entries l) => l.take kk | _ => []
    let ix := es.map fun e => (e.value, globalIndex roles n e)
    ⟨orSt base (if es.length < kk then 128 else 0), [], ix,
      if rwOp w = opArgmax then (ix.head?).map (·.2) else some es.length⟩
  else
    let body := if k.first.ordered && !parts.isEmpty then
        (blockValue 21 0 (parts.map fun x => { blockOf x.2 with j := if oneRole k.first.scope then 0 else x.2.hdr.blkJ })).map
          fun b => (PBody.ordered b.vals, b.status)
      else k'.body.map fun b => (b, 0)
    let r := finishElems f (rwOp w) n (rwSat w) (body.map (·.1))
    let st := match body with | some b => b.2 | none => 0
    ⟨orSt (orSt base r.2) st, r.1, [], match r.1.getD 0 none with | some c => some (extendCode f c) | none => none⟩

/-- A free value stands for one that the spec does not state (log 9). -/
def State.orFree (s : State) (v : Option Nat) (w : Nat) : Nat × State :=
  match v with
  | some x => (x, s)
  | none => (s.draw.1 % 2 ^ w, s.draw.2)

/-- The elements of a result, with free values where the spec states none. -/
def State.freeElems (s : State) (f : Nat) : List (Option Nat) → List Nat × State
  | [] => ([], s)
  | v :: l =>
    let r := s.orFree v (fmtBits f)
    let q := r.2.freeElems f l
    (r.1 :: q.1, q.2)

/-- A result's counters. -/
def State.countResult (s : State) (status : Nat) : State :=
  let s := s.bump F.tauResultsCount
  if bit status 0 then s.bump F.tauIncompleteCount else s

/-- A key with its REDUCE word completes (R172, R187, R188): the result is held for commit, and broadcast when the
word says down. -/
def State.finishReduce (s : State) (k : TauKey) (w : Nat) : State :=
  let r := s.reduceResult k w
  let v := s.orFree r.value 64
  let body := v.2.freeElems (rwFormat w) r.codes
  let s := (body.2.shutTau k).countResult r.status
  let h := { k.first with status := r.status % 16, contribErr := bit r.status 4, count := k.count, ordered := false, blkJ := 0
                          blkA := if oneRole k.first.scope then k.first.blkA else 0, entries := r.index.length }
  let roles := s.scopeRoles k.partition k.first.scope k.first.domain k.first.blkA
  let s := if rwDown w then
      s.sendDown k.partition 3 roles (.result h (resultBytes (rwOp w) (rwFormat w) body.1 r.index))
    else s
  s.holdInput (s.apexSlot k.partition) (.result h r.status v.1 [])

/-! ### Sampling at the apex (R189, R191) -/

/-- Fields of a SAMPLE word (Table 7.3). -/
def swFormat (w : Nat) : Nat := bits w 0 4
def swNm1 (w : Nat) : Nat := bits w 4 12
def swTag (w : Nat) : Nat := bits w 16 8
def swPositions (w : Nat) : Nat := bits w 24 3 + 1
def swGreedy (w : Nat) : Bool := bit w 27
def swDraft (w : Nat) : Bool := bit w 28
def swDraw (w : Nat) : Nat := bits w 32 8
def swTref (w : Nat) : Nat := bits w 40 12

/-- No token. -/
def noToken : Nat := 0xFFFFFFFF

/-- The token of a position is held for commit. -/
def State.giveToken (s : State) (k : TauKey) (status token : Nat) : State :=
  let s := (s.shutTau k).countResult status
  s.holdInput (s.apexSlot k.partition)
    (.result { k.first with status := status % 16, contribErr := bit status 4 } status token [token])

/-- The roles that a sample covers: those of its word's target entry (R156). -/
def State.sampleRoles (s : State) (k : TauKey) : Ivs :=
  k.roles.getD (s.scopeRoles k.partition k.first.scope k.first.domain k.first.blkA)

/-- Pass 1 completes (R189 steps 2 and 3): no token, a greedy choice, or the pass-2 broadcast under the channel's
sampling fields. -/
def State.finishPass1 (s : State) (k : TauKey) (w : Nat) (c : ChRec) : State :=
  let like := k.parts.isEmpty || (k.first.op == opPass1 && k.first.format == swFormat w && k.first.nM1 == swNm1 w)
  let short := k.noSpace || k.parts.isEmpty || k.count < s.tauExpected k
  let st := orSt (orSt k.status (if short then 1 else 0))
    (orSt (if k.anyErr || !like then 16 else 0) (if k.noSpace then 32 else 0))
  let es := match k.body with | some (.entries l) => if like then l else [] | _ => []
  let kEff := if c.topK = 0 then 256 else c.topK
  let cand := es.take (min kEff es.length)
  let st := if cand.length < kEff then orSt st 128 else st
  let roles := s.sampleRoles k
  match cand with
  | [] => s.giveToken k (orSt st 512) noToken
  | e :: _ =>
    if short then s.giveToken k (orSt st 512) noToken
    else
      let m := toF32 k.first.format e.value
      let sv := divF32 log2e c.temperature
      let badT := !(finiteF32 c.temperature && !bit c.temperature 31 && bits c.temperature 0 31 != 0)
      let infM := !finiteF32 m
      let fallback := badT || !finiteF32 sv || infM
      let st := if infM then orSt st 64 else st
      let h := { k.first with op := opPass2, count := 0, entries := 0 }
      if swGreedy w || fallback then
        let s := s.sendDown k.partition 3 roles (.pass2 h m sv true)
        s.giveToken k (if fallback && !swGreedy w then orSt st 256 else st) (globalIndex roles (swNm1 w + 1) e)
      else
        let s := s.sendDown k.partition 3 roles (.pass2 h m sv false)
        let s := s.shutTau k
        (s.modD fun d => { d with tau := d.tau ++
          [{ k with first := h, atLfn := s.dbx.lfn, parts := [], seen := [], err := false, mVal := m, sVal := sv, cands := cand,
                    status1 := st, due := false
                    deadline := some (s.dbx.lfn + max 1 (s.rd F.tauCfgFlushLf)) }] }).showTau

/-- The nucleus and the chosen candidate (R191): weights and Z in units of 2^−192, top_p as FP32, U. -/
def chooseCandidate (ws : List Nat) (z topP u : Nat) : Nat :=
  let cum := ws.foldl (fun (a : List Nat × Nat) w => (a.1 ++ [a.2 + w], a.2 + w)) ([], 0)
  let m := match decodeFloat 2 topP with
    | .fin false mag e =>
      if mag = 0 || (0 : Int) ≤ e || 2 ^ (-e).toNat ≤ mag then ws.length
      else match cum.1.findIdx? fun w => mag * z ≤ w * 2 ^ (-e).toNat with
        | some j => j + 1
        | none => ws.length
    | _ => ws.length
  let wm := cum.1.getD (m - 1) 0
  match cum.1.findIdx? fun w => u * wm < w * 2 ^ 53 with
  | some j => j
  | none => m - 1

/-- Pass 2 completes (R189 steps 4 to 6): the token is drawn. -/
def State.finishPass2 (s : State) (k : TauKey) (w : Nat) (c : ChRec) : State :=
  let short := k.count < s.tauExpected k || k.parts.isEmpty
  let st := orSt k.status1 (orSt (orSt k.status (if k.anyErr then 16 else 0)) (if short then 1 else 0))
  if short then s.giveToken k (orSt st 512) noToken
  else
    let z := match k.body with | some (.exact [a] _) => a.toNat | _ => 0
    let ws := k.cands.map fun e => weightAcc (logitWeight k.first.format e.value k.mVal k.sVal)
    let u := kcg c.seed k.step (swDraw w + k.pos) / 2 ^ 11
    match k.cands[chooseCandidate ws z c.topP u]? with
    | some e => s.giveToken k st (globalIndex (s.sampleRoles k) (swNm1 w + 1) e)
    | none => s.giveToken k (orSt st 512) noToken

/-! ### Completion at the apex -/

/-- The record of the channel a key belongs to, when it is current. -/
def State.keyRec (s : State) (k : TauKey) : Option ChRec :=
  ((fget? s.d.chans (hIndex k.first.handle)).filter fun c => c.r.handle == k.first.handle).map (·.r)

/-- A key that is due and has its word gives its result; one whose channel is gone only closes. -/
def State.settleKey (s : State) (k : TauKey) : State :=
  match k.word, s.keyRec k with
  | _, none => if k.due then s.shutTau k else s
  | none, _ => s
  | some w, some c =>
    if !k.due then s
    else if bits w 56 8 = 3 then s.finishReduce k w
    else if k.first.op = opPass2 then s.finishPass2 k w c
    else s.finishPass1 k w c

/-- A key of the apex after it changed: complete when its count reaches the expected one. -/
def State.judgeKey (s : State) (k : TauKey) : State :=
  let full := !k.parts.isEmpty && s.tauExpected k ≤ k.count
  let k' := if full then { k with due := true } else k
  (s.modD fun d => { d with tau := putTau k k' d.tau }).settleKey k'

/-- The deadline of a key at the apex (R172): the completion deadline of its step, as it now stands, plus flush_lf; of a
step that is not the channel's last, the one fixed when the key opened, flush_lf after it (log 24). -/
def State.keyDeadline (s : State) (k : TauKey) : Nat :=
  let own := k.deadline.getD 0
  match (fget? s.d.chans (hIndex k.first.handle)).filter fun c => c.r.handle == k.first.handle with
  | some c =>
    if (c.r.step + 2 ^ 48 - 1) % 2 ^ 16 = k.first.stepLo && 0 < c.deadline then c.deadline + max 1 (s.rd F.tauCfgFlushLf)
    else own
  | none => own

/-- The deadline that a key opens with. -/
def State.firstDeadline (s : State) : Nat := s.dbx.lfn + max 1 (s.rd F.tauCfgFlushLf)

end Sys2Proof.Machine
end

