-- ==== Sys2Proof/Machine/CondOps.lean ====
section
/-! DEFINITION. What the conductor's meanings share (chapters 7 and 11): channels and their records, posts and
events, placement of croziers, aborts, fault modes, replay and the holds. -/

namespace Sys2Proof.Machine

/-! ### Channels -/

/-- The channel at an index. -/
def State.chan (s : State) (ch : Nat) : Option CondChan := fget? s.d.chans ch

/-- `s` with the channel of an index changed. -/
def State.modCh (s : State) (ch : Nat) (f : CondChan → CondChan) : State :=
  match s.chan ch with
  | some c => s.modD fun d => { d with chans := fset d.chans ch (f c) }
  | none => s

/-- `s` with the record of a channel changed. -/
def State.modRec (s : State) (ch : Nat) (f : ChRec → ChRec) : State := s.modCh ch fun c => { c with r := f c.r }

/-- The bound channel that a handle names at the conductor. -/
def State.bound (s : State) (handle : Nat) : Option CondChan :=
  (s.chan (hIndex handle)).filter fun c => c.state == 2 && c.r.handle == handle

/-- Partition of a slot. -/
def State.slotPart (s : State) (slot : Nat) : Nat := s.rd F.condPartPartition slot

/-- Indices of the bound channels of a slot, rising. -/
def State.slotChans (s : State) (slot : Nat) : List Nat :=
  (s.d.chans.filter fun x => x.2.state == 2 && x.2.r.slot == slot).map (·.1)

/-- The register that counts a slot's bound channels. -/
def State.showBound (s : State) (slot : Nat) : State := s.wr F.condPartStatBound (s.slotChans slot).length slot

/-- The number of the outstanding step, or of the last one closed (R151). -/
def lastStep (r : ChRec) : Nat := (r.step + 2 ^ 48 - 1) % 2 ^ 48

/-- Execution state (Table 7.6 exec) and what the channel waits for. -/
def State.holdCh (s : State) (ch exec : Nat) (w : WaitFor) : State :=
  s.modCh ch fun c => { c with r := { c.r with exec := exec }, wait := w }

/-- The channel executes again, ready from this count on (R153). -/
def State.runCh (s : State) (ch : Nat) : State :=
  s.modCh ch fun c => { c with r := { c.r with exec := 1 }, wait := .none, readyAt := s.dbx.lfn }

/-! ### Posts and events (R160, R167, R208) -/

/-- A completion of kind 1 or 2 (Table 9.2). -/
def chanPost (r : ChRec) (kind code a b : Nat) (irq : Bool) : Completion :=
  { kind := kind, q0 := r.handle + 2 ^ 32 * r.postSeq, q1 := a % 2 ^ 64, q2 := b % 2 ^ 32 + 2 ^ 32 * r.token,
    aux := r.tokensOut, status := code, opcode := 0, irq := irq }

/-- A post finds space: the ring pair is enabled, none waits before it and the ring is not full; only the active member
posts (R160, R349). -/
def State.ringFree (s : State) (ring : Nat) : Bool :=
  !s.isActive || (s.is (F.ringCfgEnable .dbx) ring && !s.cqFull .dbx ring && (s.ring .dbx ring).waiting.isEmpty && !s.d.posts.any fun x => x.1 == ring)

/-- A completion of a channel: written by the active member when the ring has space, else queued; the post
sequence rises. -/
def State.post (s : State) (ch kind code a b : Nat) (irq : Bool) : State :=
  match s.chan ch with
  | none => s
  | some c =>
    let x := chanPost c.r kind code a b irq
    let s := s.modRec ch fun r => { r with postSeq := (r.postSeq + 1) % 2 ^ 32 }
    if s.isActive && s.ringFree c.r.ring then s.writeCompletion .dbx c.r.ring x
    else s.modD fun d => { d with posts := d.posts ++ [(c.r.ring, x)] }

/-- A channel event of Table 9.5. -/
def State.event (s : State) (ch code a b : Nat) : State := s.post ch 2 code a b true

/-- The channels held at POST, HALT or DIGEST for a ring run again, in ascending index; `resume` 3 marks the hold. -/
def State.wakeRing (s : State) (ring : Nat) : State :=
  (s.d.chans.filter fun x => x.2.wait == .ring && x.2.r.ring == ring && x.2.r.exec == 3).foldl
    (fun s x => (s.runCh x.1).modCh x.1 fun c => { c with resume := 3 }) s

/-- Posts that wait for a ring are written while it has space, and then the channels held for it run (R160). -/
def State.flushPosts (s : State) (ring : Nat) : State :=
  if !s.isActive || !s.is (F.ringCfgEnable .dbx) ring then s
  else
    let s := (s.d.posts.filter fun x => x.1 == ring).foldl (fun s x =>
      if !s.cqFull .dbx ring && (s.ring .dbx ring).waiting.isEmpty then
        (s.modD fun d => { d with posts := d.posts.erase x }).writeCompletion .dbx ring x.2
      else s) s
    if s.ringFree ring then s.wakeRing ring else s

/-! ### Pauses (R214) -/

/-- The pause that waits takes effect: the channel is paused, and its descriptors complete with its step number. -/
def State.pauseNow (s : State) (ch resume : Nat) : State :=
  match s.chan ch with
  | none => s
  | some c =>
    let s := s.modCh ch fun c => { c with r := { c.r with exec := 4 }, resume := resume, pauseBy := [] }
    c.pauseBy.foldl (fun s x => s.finish .dbx x.1 x.2 0 c.r.step 0) s

/-- A channel that was held passes on: it runs, or is paused when a pause waits. -/
def State.passOn (s : State) (ch : Nat) : State :=
  let s := s.runCh ch
  match s.chan ch with
  | some c => if c.pauseBy.isEmpty then s else s.pauseNow ch 1
  | none => s

/-! ### Grid and plans -/

/-- Frame length of a grid of the conductor. -/
def State.condFrame (s : State) (g : Nat) : Nat := 2 ^ s.rd F.condGridFLog2 g

/-- The first tick of a grid at or after a link frame. -/
def State.condTick (s : State) (g x : Nat) : Nat :=
  let o := s.rd F.condGridOriginLoOrigin g + 2 ^ 32 * s.rd F.condGridOriginHiOrigin g
  let f := s.condFrame g
  if x ≤ o then o else o + ceilDiv (x - o) f * f

/-- A link on the partition's paths is degraded (R157). -/
def State.partDegraded (s : State) (part : Nat) : Bool := s.d.degraded.any fun x => x.1 == part

/-- Word of a plan. -/
def Plan.word (q : Plan) (v pc : Nat) : Option Nat := (q.variants[v]?).bind fun l => l[pc]?

/-- Target entry of a plan; beyond its table the whole partition, form 3 with core set 0 and scope 0x1, which an
epoch crozier of EPOCH_SWAP takes (log 31). -/
def Plan.entry (q : Plan) (t : Nat) : TEntry := q.targets.getD t ⟨0, 3, 1, 0⟩

/-- Address of an epoch that a channel was given from outside its own words, above every word address; its target
entry is beyond every table. -/
def outsideWord : Nat := 2 ^ 20

/-- What a channel's run keeps when its words are dropped: epochs given from outside. -/
def keptRun (l : List RunWord) : List RunWord := l.filter fun x => outsideWord ≤ x.addr

/-- The plan that a channel is bound to. -/
def State.planOf (s : State) (c : CondChan) : Option Plan := fget? s.d.plans c.r.plan

/-- Croziers of a plan in a map period, as the layout requires (R148). -/
def State.czMax (s : State) (q : Plan) : Nat := if s.partDegraded (s.slotPart q.slot) then q.czDegr else q.czFull

/-! ### Placement (R152) -/

/-- A crozier of the conductor (R119, R152). -/
def mkCz (ctype : Nat) (e : TEntry) (handle step variant payload : Nat) (fire : MTime) : Crozier :=
  { ctype := ctype, scope := e.scope, rsv0 := 0, target := e.target, handle := handle, step := step,
    variant := variant, fireLfn := fire.lfn % 2 ^ 32, fireSub := fire.sub, form := e.form, rsv24 := 0,
    payload := payload }

/-- Croziers of a slot in one link frame, at most. -/
def State.czCap (s : State) (slot : Nat) : Nat := 2 * s.rd F.condShareRateCzPos slot

/-- The queue of a slot. -/
def State.czQueue (s : State) (slot : Nat) : List CzQ := fgetD s.d.czq slot []

/-- Croziers placed in or emitted into a link frame. -/
def State.czIn (s : State) (slot lf : Nat) : Nat :=
  ((s.czQueue slot).filter fun x => x.at_ == lf).length
    + (match fget? s.d.czSent slot with | some (l, n) => if l = lf then n else 0 | none => 0)

/-- Croziers of a plan in a map period (R148). -/
def State.czMetered (s : State) (slot plan period : Nat) : Nat :=
  ((s.czQueue slot).filter fun x => !x.abort && x.plan == plan && x.at_ / 16 == period).length
    + (match fget? s.d.czMeter plan with | some (p, n) => if p = period then n else 0 | none => 0)

/-- The first link frame at or after `lf` that has room for a crozier of a plan; `fuel` link frames are tried. -/
def State.czPlace (s : State) (slot plan cap cz : Nat) : Nat → Nat → Nat
  | 0, lf => lf
  | fuel + 1, lf =>
    if s.czIn slot lf < cap && s.czMetered slot plan (lf / 16) < cz then lf else s.czPlace slot plan cap cz fuel (lf + 1)

/-- The croziers of a step are placed one by one; the last entry's link frame. The queue holds them without their
fire counts, which `E` fixes. -/
def State.czPlaceAll (s : State) (slot plan cap cz ch : Nat) : List Crozier → Nat → State × Nat
  | [], e => (s, e)
  | c :: l, _ =>
    let lf := s.czPlace slot plan cap cz (17 * ((s.czQueue slot).length + 2)) (s.dbx.lfn + 1)
    (s.modD fun d => { d with czq := fset d.czq slot (s.czQueue slot ++ [⟨c, lf, false, ch, plan⟩]) }).czPlaceAll
      slot plan cap cz ch l lf

/-- The first link frame with room beside the aborts queued and what has been emitted into it. -/
def abortPlace (q : List CzQ) (sent : Option (Nat × Nat)) (cap : Nat) : Nat → Nat → Nat
  | 0, lf => lf
  | fuel + 1, lf =>
    if (q.filter fun x => x.abort && x.at_ == lf).length
        + (match sent with | some (l, n) => if l = lf then n else 0 | none => 0) < cap then lf
    else abortPlace q sent cap fuel (lf + 1)

/-- The queued croziers of a slot that are not aborts, each in the earliest link frame from its own on that the aborts
and those before it leave free (R152). -/
def State.replaceQueue (s : State) (slot : Nat) : State :=
  let q := s.czQueue slot
  let s := s.modD fun d => { d with czq := fset d.czq slot (q.filter (·.abort)) }
  (q.filter (!·.abort)).foldl (fun s x =>
    let cz := match fget? s.d.plans x.plan with | some p => s.czMax p | none => 2 ^ 16
    let lf := s.czPlace slot x.plan (s.czCap slot) cz (17 * (q.length + 2)) x.at_
    s.modD fun d => { d with czq := fset d.czq slot (fgetD d.czq slot [] ++ [{ x with at_ := lf }]) }) s

/-! ### Aborts (R161, R216, R245, R247, R250) -/

/-- Abort codes of Table 11.4. -/
def abReplay : Nat := 1
def abDestroy : Nat := 2
def abFault : Nat := 3
def abHang : Nat := 4

/-- An abort crozier is queued ahead of every crozier that is not an abort, with its emission count plus `lead` as
its fire count, and those that it displaces are placed anew; its emission count. Their fire counts stand (log 157). -/
def State.queueAbort (s : State) (slot ch handle step code lead : Nat) : State × Nat :=
  let q := s.czQueue slot
  let ea := abortPlace q (fget? s.d.czSent slot) (s.czCap slot) (q.length + 2) (s.dbx.lfn + 1)
  let c := mkCz 3 ⟨0, 3, 1, 0⟩ handle step 0 code ⟨ea + lead, 0⟩
  let q2 : List CzQ := q.filter (·.abort) ++ [⟨c, ea, true, ch, 0⟩] ++ q.filter (!·.abort)
  ((s.modD fun d => { d with czq := fset d.czq slot q2 }).replaceQueue slot, ea)

/-- Lead of a slot. -/
def State.lead (s : State) (slot : Nat) : Nat := s.rd F.condTimingLeadLf slot

/-- The latest decision on a channel is logged (Table 11.11). -/
def State.fltLog (s : State) (c : CondChan) (outcome : Nat) : State :=
  ((((s.wr F.dfltLog0Handle c.r.handle).wr F.dfltLog1StepLo ((lastStep c.r) % 2 ^ 32)).wr F.dfltLog2Status
    c.r.aggStatus).wr F.dfltLog2Outcome outcome).wr F.dfltLog3Shortfall c.shortfall

/-- The channel is paused and REPLAY_LIMIT is posted with a reason of Table 11.5. -/
def State.limitPause (s : State) (ch reason : Nat) : State :=
  (s.modCh ch fun c => { c with r := { c.r with exec := 4, stepOpen := false }, wait := .none, resume := 6,
                                faulted := true, run := keptRun c.run, inRun := false }).showPeri.event ch 0x83 reason 0

/-- An abort of a channel's outstanding step other than DESTROY: at most 15 within max_life, a sixteenth pauses
the channel instead; the attempt count rises, and the channel leaves every hold and swap set (R158). Its emission
count, none where it is not emitted. -/
def State.chanAbort (s : State) (ch code lead : Nat) : State × Option Nat :=
  match s.chan ch with
  | none => (s, none)
  | some c =>
    let recent := c.aborts.filter fun t => s.dbx.lfn < t + s.quarantineLf .dbx
    if 15 ≤ recent.length then (s.limitPause ch 5, none)
    else
      let r := s.queueAbort c.r.slot ch c.r.handle (lastStep c.r) code lead
      (r.1.modCh ch fun c => { c with aborts := recent ++ [s.dbx.lfn], offPeri := true
                                      r := { c.r with attempt := (c.r.attempt + 1) % 16 } }, some r.2)

/-! ### Replay (R161, R246, R258) -/

/-- A suspect may replay only when it heads its set (R258). -/
def State.suspectFree (s : State) (ch : Nat) : Bool :=
  s.d.suspects.all fun l => !l.contains ch || l.head? == some ch

/-- A replay of the suspect that heads its set is an isolation replay (R258, Table 11.11). -/
def State.countIsolate (s : State) (ch : Nat) : State :=
  if s.d.suspects.any fun l => l.head? == some ch then s.bump F.dfltIsolateCount else s

/-- The outstanding step is replayed: the REPLAY abort, the channel back at step_pc with its step number and
registers, no second close before the abort's fire count. -/
def State.doReplay (s : State) (ch : Nat) : State :=
  match s.chan ch with
  | none => s
  | some c =>
    if 3 ≤ c.r.replays then s.limitPause ch 1
    else
      let l := s.lead c.r.slot
      match s.chanAbort ch abReplay l with
      | (s, none) => s
      | (s, some ea) =>
        ((s.modCh ch fun c =>
          { c with r := { c.r with pc := c.r.stepPc, step := (lastStep c.r), replays := c.r.replays + 1, exec := 6,
                                   stepOpen := false }
                   wait := .none, run := keptRun c.run, inRun := false, outst := [], tokens := [], replayed := true,
                   replayAt := ea + l, done := false, dead := false }).showPeri.bump F.condReplaysCount).countIsolate ch

/-- The restore condition of R246. -/
def State.restored (s : State) (c : CondChan) : Bool :=
  c.shortfall ≤ c.readySeen.length &&
    !s.d.notReady.any fun x => x.1 == s.slotPart c.r.slot && ivHas c.roles x.2

/-- A channel in replay that waits for its restore condition replays when it holds and no suspect is ahead. -/
def State.tryRestore (s : State) (ch : Nat) : State :=
  match s.chan ch with
  | some c => if c.r.exec = 6 && c.wait == .restore && s.restored c && s.suspectFree ch then s.doReplay ch else s
  | none => s

/-- Link frames of restore_ms. -/
def State.restoreLf (s : State) (slot : Nat) : Nat := lfOfMs (max 1 (s.rd F.fltPolicyRestoreMs slot))

/-! ### Fault modes (R244, R245, R251) -/

/-- The fault statuses: OVERRUN, MISSED, TARGET_FAULT, RESET and MISSING. -/
def faultMask : Nat := 0xB3

/-- Mode of a slot; 3 acts as 1. -/
def State.fltMode (s : State) (slot : Nat) : Nat :=
  let m := s.rd F.fltPolicyMode slot
  if m = 3 then 1 else m

/-- The mode of the slot acts on a channel's outstanding step with an abort code; `verdict` is the outcome of a
hang verdict. A step whose aggregate is complete stands. -/
def State.faultMode (s : State) (ch code : Nat) (verdict : Option Nat := none) : State :=
  match s.chan ch with
  | none => s
  | some c =>
    let mode := s.fltMode c.r.slot
    if mode = 0 then s.fltLog c (verdict.getD 0)
    else if c.aborted then s.fltLog c (verdict.getD mode)
    else if c.done then (s.bump F.dfltAbortLateCount).fltLog c 3
    else
      let s := s.fltLog c (verdict.getD mode)
      match s.chanAbort ch code 0 with
      | (s, none) => s
      | (s, some _) =>
        let s := (s.bump F.dfltAbortsCount).modCh ch fun c => { c with aborted := true }
        if mode = 2 then s.limitPause ch 4
        else
          (s.modCh ch fun c =>
            { c with r := { c.r with exec := 6, stepOpen := false }, wait := .restore, faulted := false,
                     readySeen := [], restoreBy := s.dbx.lfn + s.restoreLf c.r.slot }).showPeri.tryRestore ch

/-! ### The aggregate (R154) -/

/-- WAITC completes: the step is no longer outstanding and the next word follows. -/
def State.endWait (s : State) (ch : Nat) : State :=
  s.modCh ch fun c => { c with r := { c.r with exec := 1, pc := c.r.pc + 1, stepOpen := false, replays := 0 },
                               readyAt := s.dbx.lfn, wait := .none, replayed := false }

/-- The wait query of R255 goes down to the members of the step, and its count starts. -/
def State.queryHang (s : State) (ch : Nat) : State :=
  match s.chan ch with
  | none => s
  | some c =>
    let part := s.slotPart c.r.slot
    let s := s.modCh ch fun c => { c with queried := true }
    (s.mgmtDown part c.roles 3 [c.r.handle, (lastStep c.r)]).modD fun d =>
      { d with hangs := d.hangs ++ [{ partition := part, handle := c.r.handle, step := (lastStep c.r), atLfn := s.dbx.lfn,
                                      expected := ivCount c.roles }] }

/-- The fault statuses that have come since the last look are acted on: an OVERRUN by a wait query when hang_en is
set, the others by the mode. -/
def State.judgeFaults (s : State) (ch : Nat) : State :=
  match s.chan ch with
  | none => s
  | some c =>
    let new := Nat.land (Nat.land c.r.aggStatus faultMask) (Nat.xor (Nat.lor c.acted 0xFFFF) c.acted)
    if new = 0 then s
    else
      let s := s.modCh ch fun c => { c with acted := Nat.lor c.acted new }
      let hang := bit new 0 && s.is F.dfltCfgHangEn
      let s := if hang && !c.queried then s.queryHang ch else s
      if (if hang then new - 1 else new) = 0 then s else s.faultMode ch abFault

/-- A suspect's replayed step reports (R258): with TARGET_FAULT again the channel is named, which ends its step and
pauses it; with its aggregate complete the next suspect may replay. An aggregate names no role, so the fault counts as one
at the same role (log 168). -/
def State.suspectDone (s : State) (ch : Nat) : State :=
  match s.chan ch with
  | none => s
  | some c =>
    let named := hasSt c.r.aggStatus stTarget
    if !(c.replayed && (s.d.suspects.any fun l => l.head? == some ch) && (c.done || named)) then s
    else
      let last := s.d.suspects.any fun l => l == [ch]
      let s := s.modD fun d => { d with suspects := (d.suspects.map fun l =>
        if l.head? == some ch then (if named then [] else l.drop 1) else l).filter fun l => !l.isEmpty }
      let s := if named then
          let s := if c.done then s else ((s.chanAbort ch abFault 0).1).bump F.dfltAbortsCount
          ((s.bump F.dfltNamedCount).modCh ch fun c => { c with acted := 0xFFFF }).limitPause ch 2
        else if last then s.bump F.dfltTransientCount else s
      s.d.chans.foldl (fun s x =>
        if x.2.wait == .suspect && s.suspectFree x.1 then s.runCh x.1 else s.tryRestore x.1) s

/-- A completion aggregate, partial or whole, applies at its commit count (R154, R243, R244, R251). -/
def State.applyAggregate (s : State) (a : CompContrib) : State :=
  let ch := hIndex a.handle
  match s.bound a.handle with
  | none => s.bump F.condLateDiscCount
  | some c =>
    if !(c.r.stepOpen && a.step = (lastStep c.r) && a.tickLo = c.r.tick % 2 ^ 16) then s.bump F.condLateDiscCount
    else
      let s := s.modCh ch fun c =>
        let n := c.r.aggCount + a.count
        { c with r := { c.r with aggCount := n % 2 ^ 22, aggStatus := orSt c.r.aggStatus a.status,
                                 aggSlack := min c.r.aggSlack a.slack }
                 done := c.done || c.r.expected ≤ n }
      let s := (s.suspectDone ch).judgeFaults ch
      match s.chan ch with
      | some c => if c.done && c.wait == .aggregate && c.r.exec = 2 then s.endWait ch else s
      | none => s

/-! ### Results (R153, R156, R187, R188) -/

/-- The tokens of a SAMPLE word reach the target list, the draft list and the token register (R156). -/
def takeTokens (r : ChRec) (toDraft : Bool) (ts : List Nat) : ChRec :=
  let last := ts.getLast?.getD noToken
  if toDraft then
    if r.draftN < 8 then { r with draft := r.draft.set r.draftN last, draftN := r.draftN + 1, token := last }
    else { r with token := last }
  else
    { r with target := ts ++ r.target.drop ts.length, token := last, tokensOut := (r.tokensOut + 1) % 2 ^ 32 }

/-- The tokens of the SAMPLE word that a channel waits at, in order of position. -/
def sampled (c : CondChan) (w : Nat) : List Nat :=
  (List.range (swPositions w)).map fun i =>
    ((c.tokens.find? fun x => x.1 == (swTag w + i) % 256).map (·.2.2)).getD noToken

/-- A channel whose SAMPLE has all its tokens goes on. -/
def State.endSample (s : State) (ch : Nat) : State :=
  match s.chan ch with
  | none => s
  | some c =>
    match c.wait, (s.planOf c).bind (·.word c.r.variant c.r.pc) with
    | .tokens _ n, some w =>
      if c.tokens.length < n then s
      else s.modCh ch fun c =>
        { c with r := { (takeTokens c.r (swDraft w) (sampled c w)) with pc := c.r.pc + 1, exec := 1 },
                 readyAt := s.dbx.lfn, wait := .none, tokens := [] }
    | _, _ => s

/-- A reduction or sample result applies at its commit count: of another attempt or channel it is discarded and
counted; a failed one sets MISSING in the aggregate status; a value goes to its register, a token to its word. -/
def State.applyResult (s : State) (h : PHdr) (status value : Nat) (tokens : List Nat) : State :=
  let ch := hIndex h.handle
  match s.bound h.handle with
  | none => s.bump F.condLateDiscCount
  | some c =>
    if c.r.attempt ≠ h.attempt then s.bump F.condLateDiscCount
    else
      let s := if hasSt status 0x231 then
          s.modRec ch fun r => { r with aggStatus := orSt r.aggStatus stMissing }
        else s
      match tokens with
      | t :: _ =>
        (s.modCh ch fun c => { c with tokens := (c.tokens.filter fun x => x.1 != h.tag) ++ [(h.tag, status, t)] }).endSample ch
      | [] =>
        match c.outst.find? fun x => x.1 == h.tag with
        | none => s
        | some x =>
          let s := s.modCh ch fun c => { c with outst := c.outst.erase x, r := { c.r with g := c.r.g.set x.2 value } }
          if c.wait == .result h.tag || c.wait == .reg then s.runCh ch else s

/-! ### Peristomes (R141, R142, R158) -/

/-- A distributor peristome. -/
def State.peri (s : State) (k : Nat) : PeriRt := fgetD s.d.peris k ⟨0, 0, 0, 0, none, false, false⟩

/-- `s` with a peristome set. -/
def State.setPeri (s : State) (k : Nat) (p : PeriRt) : State :=
  (s.modD fun d => { d with peris := fset d.peris k p }).showPeri

/-- A channel passes a peristome, by its timeout or without. -/
def State.passPeri (s : State) (ch k : Nat) (tmo : Bool) : State :=
  let s := (s.modCh ch fun c =>
    { c with r := { c.r with periPos := k % 2 ^ 12, periTmo := tmo }, offPeri := false }).passOn ch
  if tmo then s.event ch 0x82 0 0 else s

/-- Channels held at a peristome, in ascending index. -/
def State.heldAt (s : State) (k : Nat) : List Nat := (s.d.chans.filter fun x => x.2.wait == .peri k).map (·.1)

/-- The peristome is RELEASED and its channels resume. -/
def State.releasePeri (s : State) (k : Nat) : State :=
  let s := s.setPeri k { s.peri k with state := 2, deadline := none }
  ((s.heldAt k).foldl (fun s ch => s.passPeri ch k false) s).showPeri

/-- PERISTOME_TIMEOUT (R142): an ARMED peristome whose timeout has passed stays ARMED, the timeout counts, and each
channel held there passes with PERI_TMO and a completion. -/
def execPeristomeTimeout (index : Nat) (s : State) : Res :=
  onLive .dbx s fun s =>
    let p := s.peri index
    match p.deadline with
    | none => s
    | some t =>
      if p.state = 1 && t ≤ s.dbx.lfn && !p.timedOut then
        let s := (s.setPeri index { p with timedOut := true }).bump F.periTmoCount
        ((s.heldAt index).foldl (fun s ch => s.passPeri ch index true) s).showPeri
      else s

/-! ### Conductor descriptors (R163) -/

/-- The slot that a tenant's descriptor names. -/
def slotNamed (p : Part) (d : Desc) : Option Nat :=
  match p, d.opcode with
  | .dbx, 1 => some (opnd d 40 1)
  | _, 0x10 => some (opnd d 40 1)
  | _, 0x21 => some (opnd d 45 1)
  | _, _ => none

/-- The slot whose commit_lf a conductor descriptor takes. -/
def State.descSlot (s : State) (d : Desc) : Option Nat :=
  match slotNamed .dbx d with
  | some n => some n
  | none =>
    if d.opcode = 0x51 then some (d.ext.getD 4 0)
    else ((s.chan (hIndex d.handle)).filter fun c => c.r.handle == d.handle).map (·.r.slot)

end Sys2Proof.Machine
end

