-- ==== Sys2Proof/Machine/PlanWords.lean ====
section
/-! DEFINITION. The plan words of Table 7.3, one row of the command table for each (R150 to R160, R226), and the swap
(R159). A row executes the next word of a channel that runs. -/

namespace Sys2Proof.Machine

/-! ### Executing a word -/

/-- Words of a plan executed in this map period. -/
def State.wordsUsed (s : State) (plan : Nat) : Nat := fgetD s.d.meters plan 0

/-- Words that one engine executes in a link frame: one in each of its 32 time-clock periods (R148). -/
def engineWords : Nat := 32

/-- Words executed in this link frame: of a partition slot, of a channel, of all slots. -/
def wordsNow (m : FMap (Nat × Nat)) (k lfn : Nat) : Nat := match fget? m k with | some (l, n) => if l = lfn then n else 0 | none => 0
def State.allWordsNow (s : State) : Nat := sumNat (s.d.wordsLf.map fun x => if x.2.1 = s.dbx.lfn then x.2.2 else 0)

/-- A channel is ready to execute: bound, running and waiting for nothing. -/
def chanReady (c : CondChan) : Bool := c.state == 2 && c.r.exec == 1 && c.wait == .none

/-- A channel's turn to execute (R148, R153): its partition has words left in this link frame, and so have the conductor
and the channel's engine; of the slot's channels that are ready and whose engines have words left, none has been ready
longer, nor as long with a lower index. -/
def State.turn (s : State) (ch : Nat) (c : CondChan) : Bool :=
  let now := s.dbx.lfn
  wordsNow s.d.wordsLf c.r.slot now < s.rd F.condShareRateWordsLf c.r.slot && s.allWordsNow < 2048
    && wordsNow s.d.chWords ch now < engineWords
    && s.d.chans.all fun x =>
      !(chanReady x.2 && x.2.r.slot == c.r.slot && wordsNow s.d.chWords x.1 now < engineWords)
        || c.readyAt < x.2.readyAt || (c.readyAt == x.2.readyAt && ch ≤ x.1)

/-- A word of a channel counts for the meter of its plan, the rate of its partition and its engine. -/
def State.countWord (s : State) (ch : Nat) (c : CondChan) : State :=
  let now := s.dbx.lfn
  s.modD fun d => { d with meters := fset d.meters c.r.plan (s.wordsUsed c.r.plan + 1)
                           wordsLf := fset d.wordsLf c.r.slot (now, wordsNow d.wordsLf c.r.slot now + 1)
                           chWords := fset d.chWords ch (now, wordsNow d.chWords ch now + 1) }

/-- A word of the SRAM fails its parity (Table 12.5 input 17, Table 17.6): counted in the health score and logged with its
bank, which the spec does not tie to what the word holds: a free value (log 9). -/
def State.sramParity (s : State) : State :=
  let v := s.draw
  (v.2.penalise .dbx 17).logErr .dbx 0x40 noPort (v.1 % 648)

/-- The next word of a channel whose turn it is is executed, when it has the opcode: a word whose store parity fails is
reloaded first (R146), a metered plan waits for the next map period (R148), and a word that reads a register which a
REDUCE will still write waits for it (R153). A channel whose record's parity fails waits for its copy (R164). `reads`: the
registers of the word; `block`: what else holds it before it executes, as an exec code and a wait. -/
def State.withWord (s : State) (ch op : Nat) (reads : Nat → List Nat)
    (block : State → CondChan → Nat → Option (Nat × WaitFor)) (f : CondChan → Plan → Nat → State → State) : State :=
  if s.condRole = 3 then s
  else match s.chan ch with
    | none => s
    | some c =>
      if !(chanReady c && s.turn ch c) || s.d.foundRecs.contains ch then s
      else if s.d.badRecs.contains ch then s.sramParity.modD fun d => { d with foundRecs := d.foundRecs ++ [ch] }
      else match s.planOf c with
        | none => s
        | some q =>
          match q.word c.r.variant c.r.pc with
          | none => s
          | some w =>
            if bits w 56 8 ≠ op then s
            else if s.d.badWords.contains (c.r.plan, c.r.variant, c.r.pc) then s.sramParity.holdCh ch 2 .reload
            else if q.wordsMp ≤ s.wordsUsed c.r.plan then (s.holdCh ch 2 .meter).bump F.condMeterWaitCount
            else if (reads w).any fun g => c.outst.any fun x => x.2 == g then s.holdCh ch 2 .reg
            else match block s c w with
              | some (e, t) => s.holdCh ch e t
              | none => f c q w (s.countWord ch c)

/-- A word reads no register; a word that nothing else holds. -/
def noRegs : Nat → List Nat := fun _ => []
def noBlock : State → CondChan → Nat → Option (Nat × WaitFor) := fun _ _ _ => none

/-- `s` with the channel at its next word. -/
def State.nextPc (s : State) (ch : Nat) : State := s.modRec ch fun r => { r with pc := r.pc + 1 }

/-! ### Step boundaries (R151, R157, R214, R258, R274) -/

/-- The EPOCH words from a place lead into a LAUNCH word, so that a step's run begins there; `fuel` words are read. -/
def leadsToLaunch (q : Plan) (v : Nat) : Nat → Nat → Bool
  | 0, _ => false
  | fuel + 1, pc =>
    match q.word v pc with
    | none => false
    | some w => if bits w 56 8 = 1 then true else if bits w 56 8 = 9 then leadsToLaunch q v fuel (pc + 1) else false

/-- The steering entry in force for a plan (R274): the first one whose roles hold a listed role. -/
def State.steering (s : State) (q : Plan) : Option SEntry :=
  q.selects.find? fun e => e.threshold == 0xFFFFFFFF &&
    s.d.retPods.any fun x => x.2.2 == s.slotPart q.slot && e.first ≤ x.1 && x.1 ≤ e.last

/-- Degraded variant in force (R157). -/
def State.dvarFor (s : State) (q : Plan) : Option Nat := if s.partDegraded (s.slotPart q.slot) then q.dvar else none

/-- The channel stands at the first word of a step: its variant takes effect there. -/
def State.boundary (s : State) (ch : Nat) (q : Plan) : State :=
  let st := s.steering q
  let dv := s.dvarFor q
  s.modCh ch fun c =>
    let v := match dv with
      | some v => v
      | none => match st with | some e => e.variant | none => c.chosen
    let free := dv.isNone && st.isNone
    { c with r := { c.r with variant := v % 256, stepPc := c.r.pc,
                             holdLeft := if free then c.holdNext.getD c.r.holdLeft else c.r.holdLeft }
             holdNext := if free then .none else c.holdNext
             steered := dv.isNone && st.isSome
             inRun := true }

/-- A word that was not executed after all does not count. -/
def State.uncount (s : State) (ch : Nat) (c : CondChan) : State :=
  let now := s.dbx.lfn
  s.modD fun d => { d with meters := fset d.meters c.r.plan (fgetD d.meters c.r.plan 0 - 1)
                           wordsLf := fset d.wordsLf c.r.slot (now, wordsNow d.wordsLf c.r.slot now - 1)
                           chWords := fset d.chWords ch (now, wordsNow d.chWords ch now - 1) }

/-- The word that a LAUNCH or EPOCH row executes after the channel has passed its step boundary: at the first word
of a step a pause takes effect, and a suspect that is not first waits; else the word of the variant then in force
is taken. -/
def State.atBoundary (s : State) (ch : Nat) (first : Bool) (q : Plan) (w : Nat) (f : Nat → State → State) : State :=
  match s.chan ch with
  | none => s
  | some c =>
    if !first then f w s
    else if !c.pauseBy.isEmpty then (s.uncount ch c).pauseNow ch 1
    else if !s.suspectFree ch then (s.uncount ch c).holdCh ch 3 .suspect
    else
      let s := s.boundary ch q
      match s.chan ch with
      | some c => f ((q.word c.r.variant c.r.pc).getD w) s
      | none => s

/-! ### LAUNCH (R151, R152, R154) -/

/-- Payload chosen by psrc (Table 7.3). -/
def launchPayload (r : ChRec) (q : Plan) (w : Nat) : Nat :=
  match bits w 45 2 with
  | 0 => (q.entry (bits w 33 12)).payload
  | 1 => r.token
  | 2 => r.accepted % 16 * 2 ^ 28 + r.token % 2 ^ 28
  | _ => r.g.getD 0 0 % 2 ^ 32

/-- The words of a run in order of word address. -/
def runInsert (x : RunWord) : List RunWord → List RunWord
  | [] => [x]
  | y :: l => if x.addr < y.addr then x :: y :: l else y :: runInsert x l
def runSort (l : List RunWord) : List RunWord := l.foldl (fun a x => runInsert x a) []

/-- The crozier of a gathered word, at a step of tick T (R152, R159). -/
def runCz (r : ChRec) (q : Plan) (t : Nat) (x : RunWord) : Crozier :=
  let e := x.entry.getD (q.entry x.tref)
  if x.isEpoch then mkCz 4 e (if x.all then 0 else r.handle) r.step 0 r.pending ⟨t, 0⟩
  else
    let fire := mtAdd ⟨t + x.offLf, 0⟩ x.offSub
    match x.ctype with
    | 2 => mkCz 2 e 0 0 0 x.payload fire
    | 6 => mkCz 6 e r.handle 0 0 x.payload fire
    | n => mkCz n e r.handle r.step r.variant x.payload fire

/-- The step closes: its croziers are placed, and each map period that the meter makes them wait counts (R148, R168);
its tick, expected count and deadline are fixed, and the step number rises. A step of no launch is complete at once. -/
def State.closeCondStep (s : State) (ch : Nat) (q : Plan) : State :=
  match s.chan ch with
  | none => s
  | some c =>
    let slot := c.r.slot
    let ws := runSort c.run
    let place := fun cz => s.czPlaceAll slot c.r.plan (s.czCap slot) cz ch (ws.map (runCz c.r q 0)) s.dbx.lfn
    let placed := place (s.czMax q)
    let e := placed.2
    let periods := e / 16 - (place (2 ^ 16)).2 / 16
    let t := s.condTick c.r.grid (e + s.lead slot + (if s.dbx.psi = 0 then 0 else 1))
    let own := (s.czQueue slot).length
    let fired := fun (l : List CzQ) => l.take own ++
      ((l.drop own).zip ws).map fun x => { x.1 with cz := runCz c.r q t x.2 }
    let s := placed.1.modD fun d => { d with czq := fset d.czq slot (fired (fgetD d.czq slot [])) }
    let part := s.slotPart slot
    let roles := ivMeet ((ws.filter fun x => !x.isEpoch && x.ctype == 1).flatMap fun x =>
      let y := q.entry x.tref
      s.targetRoles part y.form y.scope y.target) (s.rolesBelow part)
    let n := ivCount roles
    let ep := ws.any (·.isEpoch)
    ((s.modCh ch fun c =>
      { c with r := { c.r with tick := t, emit := e, expected := n, aggCount := 0,
                               aggStatus := if c.replayed then stReplayed else 0, aggSlack := 2 ^ 32 - 1,
                               stepOpen := true, step := (c.r.step + 1) % 2 ^ 48, holdLeft := c.r.holdLeft - 1,
                               epoch := if ep then c.r.pending else c.r.epoch,
                               pendingOk := c.r.pendingOk && !ep }
               run := [], inRun := false, roles := roles
               deadline := t + s.condFrame c.r.grid + s.rd F.condTimingGraceLf slot
               done := n == 0, dead := false, acted := 0, queried := false, aborted := false, shortfall := 0,
               readySeen := [], sor := .none }).bump F.condStepsCount).bump F.condMeterWaitCount 0 periods

/-- LAUNCH (R150 to R152): a crozier joins the step; with `last` the step closes. -/
def execLaunch (ch : Nat) (s : State) : Res :=
  onLive .dbx s fun s =>
    s.withWord ch 1 (fun w => if bits w 45 2 = 3 then [0] else [])
      (fun s c w => if bit w 47 && s.czCap c.r.slot = 0 then some (2, .meter) else none)
      fun c q w s =>
        s.atBoundary ch (!c.inRun) q w fun w s =>
          let s := s.modCh ch fun c =>
            { c with run := c.run ++ [⟨c.r.pc, false, false, bits w 33 12, bits w 48 3, bits w 13 20, bits w 0 13,
                                       launchPayload c.r q w, .none⟩]
                     r := { c.r with pc := c.r.pc + 1 } }
          if bit w 47 then s.closeCondStep ch q else s

/-- EPOCH (R159): the pending epoch, for an epoch crozier at the next step close. -/
def execEpoch (ch : Nat) (s : State) : Res :=
  onLive .dbx s fun s =>
    s.withWord ch 9 (fun w => if bit w 13 then [bits w 14 3] else []) noBlock
      fun c q w s =>
        s.atBoundary ch (!c.inRun && !c.r.stepOpen && leadsToLaunch q c.r.variant (q.variants.getD 0 []).length c.r.pc) q w
          fun w s =>
            s.modCh ch fun c =>
              { c with run := c.run ++ [⟨c.r.pc, true, bit w 12, bits w 0 12, 4, 0, 0, 0, .none⟩]
                       r := { c.r with pc := c.r.pc + 1, pendingOk := true,
                                       pending := if bit w 13 then c.r.g.getD (bits w 14 3) 0 % 2 ^ 32 else bits w 17 32 } }

/-! ### WAITC (R154) -/

/-- WAITC: waits for the aggregate of the outstanding step, or goes on when it is complete. -/
def execWaitc (ch : Nat) (s : State) : Res :=
  onLive .dbx s fun s =>
    s.withWord ch 2 noRegs noBlock fun c _ w s =>
      if !c.r.stepOpen then s.nextPc ch
      else if c.done then s.endWait ch
      else (s.modCh ch fun c => { c with deadline := c.deadline + bits w 0 8 }).holdCh ch 2 .aggregate

/-- WAITC_DEADLINE (R154, R244): the count is short at the deadline of a channel that waits: MISSING and the shortfall,
and the fault mode; where that leaves the step standing, WAITC completes. -/
def execWaitcDeadline (ch : Nat) (s : State) : Res :=
  onLive .dbx s fun s =>
    match s.chan ch with
    | none => s
    | some c =>
      if !(c.wait == .aggregate && c.r.exec == 2 && c.r.stepOpen && !c.done && c.deadline ≤ s.dbx.lfn) then s
      else
        let s := (s.modCh ch fun c =>
          { c with r := { c.r with aggStatus := orSt c.r.aggStatus stMissing }
                   shortfall := c.r.expected - c.r.aggCount, dead := true }).bump F.condMissingCount
        let s := s.judgeFaults ch
        match s.chan ch with
        | some c => if c.wait == .aggregate && c.r.exec == 2 then s.endWait ch else s
        | none => s

/-! ### REDUCE and SAMPLE (R156, R172, R188, R189) -/

/-- A word is attached to its key at the apex; a key that has not opened yet is opened without partials. -/
def State.attachWord (s : State) (part : Nat) (h : PHdr) (w step pos : Nat) (roles : Option Ivs) : State :=
  match s.d.tau.find? fun k => k.partition == part && samePKey k.first h with
  | some k =>
    let k' := { k with word := some w, step := step, pos := pos, roles := roles }
    (s.modD fun d => { d with tau := putTau k k' d.tau }).judgeKey k'
  | none =>
    (s.modD fun d => { d with tau := d.tau ++
      [{ partition := part, first := h, atLfn := s.dbx.lfn, deadline := some s.firstDeadline, word := some w,
         step := step, pos := pos, roles := roles }] }).showTau

/-- Header of the key that a REDUCE word names. -/
def reduceHdr (r : ChRec) (w : Nat) : PHdr :=
  { handle := r.handle, stepLo := (lastStep r) % 2 ^ 16, tag := rwTag w, op := rwOp w, format := rwFormat w, nM1 := rwNm1 w,
    scope := rwScope w, domain := 0, count := 0, ordered := false, blkJ := 0, status := 0, blkA := 0, contribErr := false,
    attempt := r.attempt, entries := 0 }

/-- REDUCE (R153, R188, R363): the word takes the result of its key into a register, and holds the channel when it
says wait. -/
def execReduce (ch : Nat) (s : State) : Res :=
  onLive .dbx s fun s =>
    s.withWord ch 3 noRegs noBlock fun c _ w s =>
      let s := s.modCh ch fun c =>
        { c with outst := c.outst ++ [(rwTag w, rwDst w)], r := { c.r with pc := c.r.pc + 1 } }
      let s := if rwWait w then s.holdCh ch 2 (.result (rwTag w)) else s
      s.attachWord (s.slotPart c.r.slot) (reduceHdr c.r w) w (lastStep c.r) 0 none

/-- Header of the pass-1 key of a position of a SAMPLE word. -/
def sampleHdr (r : ChRec) (e : TEntry) (w i : Nat) : PHdr :=
  { handle := r.handle, stepLo := (lastStep r) % 2 ^ 16, tag := (swTag w + i) % 256, op := opPass1, format := swFormat w,
    nM1 := swNm1 w, scope := e.scope, domain := if e.form = 2 then e.target % 2 ^ 16 else 0, count := 0, ordered := false,
    blkJ := 0, status := 0, blkA := if e.scope = 8 || e.scope = 9 then e.target % 2 ^ 21 else 0, contribErr := false,
    attempt := r.attempt, entries := 0 }

/-- SAMPLE (R156, R189): every position draws its token over the roles of the word's target entry; the channel waits
for them. -/
def execSample (ch : Nat) (s : State) : Res :=
  onLive .dbx s fun s =>
    s.withWord ch 4 noRegs noBlock fun c q w s =>
      let e := q.entry (swTref w)
      let part := s.slotPart c.r.slot
      let roles := s.targetRoles part e.form e.scope e.target
      let s := (s.modCh ch fun c => { c with tokens := [] }).holdCh ch 2 (.tokens (swTag w) (swPositions w))
      (List.range (swPositions w)).foldl (fun s i =>
        s.attachWord part (sampleHdr c.r e w i) w (lastStep c.r) i (some (ivMeet roles (s.rolesBelow part)))) s

/-! ### ACCEPT, BRANCH, LOOP, VARIANT -/

/-- Draft and target entries that agree from the first on, at most `d`. -/
def matching : Nat → List Nat → List Nat → Nat
  | 0, _, _ => 0
  | d + 1, x :: a, y :: b => if x = y then matching d a b + 1 else 0
  | _, _, _ => 0

/-- ACCEPT (R156). -/
def execAccept (ch : Nat) (s : State) : Res :=
  onLive .dbx s fun s =>
    s.withWord ch 5 noRegs noBlock fun c _ w s =>
      let d := bits w 0 3
      let a := matching d c.r.draft c.r.target
      s.modCh ch fun c =>
        { c with r := { c.r with pc := c.r.pc + 1, accepted := a, g := c.r.g.set (bits w 3 3) a,
                                 token := c.r.target.getD a 0, tokensOut := (c.r.tokensOut + a + 1) % 2 ^ 32, draftN := 0 }
                 allAcc := a == d }

/-- Branch conditions of Table 7.5. -/
def State.condHolds (s : State) (c : CondChan) (q : Plan) (w : Nat) : Bool :=
  let g := toSigned 64 (c.r.g.getD (bits w 24 3) 0)
  let imm := toSigned 28 (bits w 28 28)
  match bits w 20 4 with
  | 0 => true
  | 1 => g = imm
  | 2 => g < imm
  | 3 => imm ≤ g
  | 4 => hasSt c.r.aggStatus (0xFFFF - stLate - stReplayed)
  | 5 => (c.r.stop.any fun t => t != noToken && t == c.r.token) || (c.r.maxTokens != 0 && c.r.maxTokens ≤ c.r.tokensOut)
  | 6 => c.r.stepEvt
  | 7 => (s.dvarFor q).isSome
  | 8 => c.r.diverged
  | 9 => c.allAcc
  | 10 => c.r.digestBad
  | 11 => c.r.periTmo
  | _ => false

/-- BRANCH (R155): a condition that clears does so when tested. -/
def execBranch (ch : Nat) (s : State) : Res :=
  onLive .dbx s fun s =>
    s.withWord ch 6 (fun w => if 1 ≤ bits w 20 4 && bits w 20 4 ≤ 3 then [bits w 24 3] else []) noBlock fun c q w s =>
      let jump := s.condHolds c q w != bit w 27
      s.modRec ch fun r =>
        { r with pc := if jump then bits w 0 20 else r.pc + 1, stepEvt := r.stepEvt && bits w 20 4 != 6,
                 diverged := r.diverged && bits w 20 4 != 8 }

/-- LOOP (R155). -/
def execLoop (ch : Nat) (s : State) : Res :=
  onLive .dbx s fun s =>
    s.withWord ch 7 noRegs noBlock fun c _ w s =>
      let k := bits w 20 2
      let n := c.r.counters.getD k 0
      s.modRec ch fun r =>
        if bit w 22 then { r with pc := r.pc + 1, counters := r.counters.set k (bits w 23 16) }
        else { r with pc := if 1 < n then bits w 0 20 else r.pc + 1, counters := r.counters.set k (n - 1) }

/-- VARIANT (R157): the first entry that qualifies, or the base variant; nothing while hold_left is not 0. -/
def execVariant (ch : Nat) (s : State) : Res :=
  onLive .dbx s fun s =>
    s.withWord ch 11 (fun w => if bit w 26 then [bits w 23 3] else [bits w 20 3, bits w 23 3]) noBlock fun c q w s =>
      let s := s.nextPc ch
      if c.r.holdLeft ≠ 0 then s
      else
        let agg := bit w 26
        let v := if agg then c.r.aggSlack else c.r.g.getD (bits w 20 3) 0
        let role := c.r.g.getD (bits w 23 3) 0
        let es := (q.selects.drop (bits w 0 12)).take (bits w 12 8)
        let pick := es.find? fun e => (agg || (e.first ≤ role && role ≤ e.last)) && v < e.threshold
        s.modCh ch fun c =>
          { c with chosen := match pick with | some e => e.variant | none => c.r.baseVariant
                   holdNext := some (bits w 27 16) }

/-! ### PERI (R139, R141, R158) -/

/-- A swap is in progress on a slot. -/
def State.swapOf (s : State) (slot : Nat) : Option SwapRt := fget? s.d.swaps slot

/-- The conductor configures the TSU peristomes of a target set (R139, log 25). -/
def State.configPeri (s : State) (slot : Nat) (e : TEntry) (tsu source arg op : Nat) : State :=
  s.mgmtDown (s.slotPart slot) (s.targetRoles (s.slotPart slot) e.form e.scope e.target) 8 [tsu, source, arg, op]

/-- Count at which a timeout of tmo_log2 passes. -/
def State.periDeadline (s : State) (tmo : Nat) : Option Nat := if tmo = 0 then none else some (s.dbx.lfn + 64 * 2 ^ tmo)

/-- PERI: with `arm` an IDLE or RELEASED peristome is armed; the channel is held at an ARMED one, or passes; an ARMED
one whose timeout has passed lets it pass as its timeout did. A strict channel is held at a swap's first peristome. -/
def execPeri (ch : Nat) (s : State) : Res :=
  onLive .dbx s fun s =>
    s.withWord ch 8 noRegs noBlock fun c q w s =>
      let k := s.rd F.condSharePeriBase c.r.slot + bits w 0 12
      let s := if bit w 55 && (s.peri k).state ≠ 1 then
          (s.setPeri k ⟨1, bits w 12 8, bits w 20 1, c.r.slot, s.periDeadline (bits w 48 5), false, false⟩).configPeri
            c.r.slot (q.entry (bits w 21 12)) (bits w 12 8) (bits w 33 3) (bits w 36 12) (bits w 20 1)
        else s
      let s := s.nextPc ch
      let strict := c.r.epochStrict && match s.swapOf c.r.slot with | some x => x.base == k | none => false
      if strict then s.holdCh ch 3 .swap
      else if (s.peri k).state = 1 then
        if (s.peri k).timedOut then s.passPeri ch k true else (s.holdCh ch 3 (.peri k)).showPeri
      else s.modCh ch fun c => { c with r := { c.r with periPos := k % 2 ^ 12, periTmo := false }, offPeri := false }

/-! ### SWAP (R159) -/

/-- The peristome of a layer is armed, its poll results ignored until it is ungated. -/
def State.armGated (s : State) (slot k tmo : Nat) : State :=
  s.setPeri k ⟨1, k % 256, 0, slot, s.periDeadline tmo, false, true⟩

/-- Peristome of a layer of a swap. -/
def SwapRt.at (x : SwapRt) (l : Nat) : Nat := x.base + (l - x.first)

/-- SWAP: the swap begins on the partition slot, at its first layer; a second one waits for the first to end. -/
def execSwap (ch : Nat) (s : State) : Res :=
  onLive .dbx s fun s =>
    s.withWord ch 10 (fun w => [bits w 44 3])
      (fun s c _ => if (s.swapOf c.r.slot).isSome then some (2, .swap) else none)
      fun c q w s =>
        let x : SwapRt :=
          { ch := ch, base := s.rd F.condSharePeriBase c.r.slot + bits w 0 12, first := bits w 12 10, last := bits w 22 10,
            cur := bits w 12 10, phase := 0, entry := q.entry (bits w 32 12), epoch := bits w 44 3, tmo := bits w 47 5 }
        let s := (s.modD fun d => { d with swaps := fset d.swaps c.r.slot x }).wr F.condPartStatSwapActive 1 c.r.slot
        ((s.armGated c.r.slot x.base x.tmo).nextPc ch).holdCh ch 2 .swap

/-- A channel of the swap set: its peri_pos, or the peristome it is held at, lies within the swap's; an aborted one has left
it (R158). -/
def inSwapSet (x : SwapRt) (c : CondChan) : Bool :=
  let within := fun k => x.base ≤ k && k ≤ x.at x.last
  !c.offPeri && (within c.r.periPos || (c.wait == .swap && c.r.exec == 3)
    || match c.wait with | .peri k => within k | _ => false)

/-- The channels that a swap of a slot held pass its first peristome, or run again. -/
def State.leaveSwap (s : State) (slot : Nat) (x : SwapRt) : State :=
  (s.slotChans slot).foldl (fun s i =>
    match s.chan i with
    | some c =>
      if c.wait == .swap && c.r.exec = 3 then s.passPeri i x.base (s.peri x.base).timedOut
      else if c.wait == .swap then s.runCh i else s
    | none => s) s

/-- The swap ends: its set takes the epoch as pending, with an epoch crozier to the SWAP word's own target entry at each
channel's next step close (log 64), and the strict channels held by it pass. -/
def State.endSwap (s : State) (slot : Nat) (x : SwapRt) (tmo : Bool) : State :=
  let e := match s.chan x.ch with | some c => c.r.g.getD x.epoch 0 % 2 ^ 32 | none => 0
  let s := (s.modD fun d => { d with swaps := fdel d.swaps slot }).wr F.condPartStatSwapActive 0 slot
  let s := (s.slotChans slot).foldl (fun s i =>
    s.modCh i fun c =>
      if inSwapSet x c then
        { c with r := { c.r with pending := e, pendingOk := true }
                 run := c.run.filter (fun y => y.addr != outsideWord) ++ [⟨outsideWord, true, false, 0, 4, 0, 0, 0, some x.entry⟩] }
      else c) s
  ((s.modRec x.ch fun r => { r with periTmo := tmo }).runCh x.ch).leaveSwap slot x

/-- SWAP_ADVANCE: the swap of a slot moves on when its layer has drained or its peristome is RELEASED, and ends after
the last layer or at a timeout. -/
def execSwapAdvance (slot : Nat) (s : State) : Res :=
  onLive .dbx s fun s =>
    match s.swapOf slot with
    | none => s
    | some x =>
      let k := x.at x.cur
      let late : Bool := match (s.peri k).deadline with | some t => t ≤ s.dbx.lfn | none => false
      if x.phase = 0 then
        if (s.slotChans slot).all fun i => match s.chan i with | some c => c.offPeri || c.r.periPos != k | none => true then
          let e := x.entry
          let s := s.mgmtDown (s.slotPart slot) (s.targetRoles (s.slotPart slot) e.form e.scope e.target) 9 [x.cur]
          let s := (s.setPeri k { s.peri k with gated := false }).configPeri slot e (k % 256) 2 x.cur 0
          s.modD fun d => { d with swaps := fset d.swaps slot { x with phase := 1 } }
        else if late then s.endSwap slot x true
        else s
      else if (s.peri k).state = 2 then
        if x.cur = x.last then s.endSwap slot x false
        else
          let x := { x with cur := x.cur + 1, phase := 0 }
          (s.modD fun d => { d with swaps := fset d.swaps slot x }).armGated slot (x.at x.cur) x.tmo
      else if late then s.endSwap slot x true
      else s

/-! ### DIGEST, POST, HALT (R160, R226) -/

/-- The partition soredium that a DIGEST word takes. -/
def digestSor (c : CondChan) : Option Soredium :=
  c.sor.filter fun q => q.step == (lastStep c.r) && q.attempt == c.r.attempt

/-- DIGEST: waits for the partition soredium of the last closed step, writes it to a register, compares it, and may
post it. -/
def execDigest (ch : Nat) (s : State) : Res :=
  onLive .dbx s fun s =>
    s.withWord ch 12 (fun w => if bit w 6 then [bits w 3 3] else [])
      (fun s c w => if (digestSor c).isNone then some (2, .digest)
        else if bit w 7 && !s.ringFree c.r.ring then some (3, .ring) else none)
      fun c _ w s =>
        match digestSor c with
        | none => s
        | some q =>
          let bad := bit w 6 && c.r.g.getD (bits w 3 3) 0 != q.digest
          let s := s.modRec ch fun r =>
            { r with pc := r.pc + 1, g := r.g.set (bits w 0 3) q.digest, digestBad := if bit w 6 then bad else r.digestBad }
          if bit w 7 then
            s.post ch 1 0xD16E q.digest
              (q.count % 2 ^ 22 + 2 ^ 22 * b2n q.incomplete + 2 ^ 23 * b2n q.multi + 2 ^ 24 * b2n q.weight
                + 2 ^ 25 * b2n q.varMixed) false
          else s

/-- POST: a completion of kind 1, or the channel is held for a full ring, which counts. -/
def execPost (ch : Nat) (s : State) : Res :=
  onLive .dbx s fun s =>
    let held := s.withWord ch 13 (fun w => [bits w 16 3, bits w 19 3])
      (fun s c _ => if s.ringFree c.r.ring then none else some (3, .ring)) fun c _ w s =>
        let s := (s.nextPc ch).post ch 1 (bits w 0 16) (c.r.g.getD (bits w 16 3) 0) (c.r.g.getD (bits w 19 3) 0) (bit w 22)
        if c.resume = 3 then (s.modCh ch fun c => { c with resume := 0 }).passOn ch else s
    match held.chan ch, s.chan ch with
    | some a, some b => if a.wait == .ring && b.wait != .ring then held.bump F.condRingWaitCount else held
    | _, _ => held

/-- HALT: the channel halts; with `post` the HALTED event, for which it is held while the ring is full. -/
def execHalt (ch : Nat) (s : State) : Res :=
  onLive .dbx s fun s =>
    let held := s.withWord ch 15 noRegs
      (fun s c w => if bit w 0 && !s.ringFree c.r.ring then some (3, .ring) else none) fun _ _ w s =>
        let s := if bit w 0 then s.event ch 0x81 0 0 else s
        s.holdCh ch 5 .none
    match held.chan ch, s.chan ch with
    | some a, some b => if a.wait == .ring && b.wait != .ring then held.bump F.condRingWaitCount else held
    | _, _ => held

end Sys2Proof.Machine
end

