-- ==== Sys2Proof/Machine/MailOps.lean ====
section
/-! DEFINITION. The TSU's mailbox toward the host die's root of trust (R284, R292): requests in segments. -/

namespace Sys2Proof.Machine

/-- Bytes of the request buffer, 0x9100 to 0x97FF. -/
def mbBufBytes : Nat := 1792

/-- A request cut into segments; `fuel` segments at most. -/
def mbSegments (kind ring tag : Nat) : Nat → Bool → List Byte → List MbSeg
  | 0, _, _ => []
  | fuel + 1, first, bs =>
    let last := bs.length ≤ mbBufBytes
    ⟨kind, ring, tag, first, last, bs.take mbBufBytes⟩ ::
      (if last then [] else mbSegments kind ring tag fuel false (bs.drop mbBufBytes))

/-- The next segment that waits appears in the request buffer when the last one has been taken. -/
def State.mbPresent (s : State) : State :=
  if s.is F.mbReqValid then s
  else match s.t.mbOut with
    | [] => s
    | g :: rest =>
      let s := s.modT fun t => { t with mbOut := rest }
      let s := (List.range (ceilDiv g.bytes.length 4)).foldl
        (fun s w => s.wr F.mbReqBufData (leNat g.bytes (4 * w) 4) w) s
      let s := ((((((s.wr F.mbReqLen g.bytes.length).wr F.mbReqFirst (b2n g.first)).wr F.mbReqLast (b2n g.last)).wr
        F.mbReqKind g.kind).wr F.mbReqRing g.ring).wr F.mbReqTagTag g.tag).wr F.mbReqValid 1
      s.emit .tsu (.mailbox g.kind g.ring g.tag g.bytes)

/-- A request to the root of trust under a tag that the spec leaves open (log 9); kinds 1, 2 and 5 wait for an
answer. -/
def State.mbRequest (s : State) (kind ring seq : Nat) (bs : List Byte) (spdm : Option Spdm := none)
    (inst : Option InstallReq := none) : State :=
  let (v, s) := s.draw
  let tag := v % 2 ^ 32
  let segs := mbSegments kind ring tag (bs.length / mbBufBytes + 1) true bs
  (s.modT fun t =>
    { t with mbOut := t.mbOut ++ segs,
             mbWait := if kind = 3 || kind = 4 then t.mbWait else t.mbWait ++
               [{ kind := kind, ring := ring, tag := tag, seq := seq, at_ := s.tsu.lfn, spdm := spdm, inst := inst }] }).mbPresent

/-- A TSU port passes a link message to the root of trust: kind 3 for P0, 4 for P1. -/
def State.mbLink (s : State) (port : Nat) (bs : List Byte) : State := s.mbRequest (3 + port % 2) 0 0 bs

end Sys2Proof.Machine
end

