-- ==== Sys2Proof/Machine/RefOps.lean ====
section
/-! DEFINITION. The root's reference selector (R70 to R81): quality codes, the pick, switches, phase steps and
what the change of an input's state does. -/

namespace Sys2Proof.Machine

/-- Tree QL code of a received SSM; 0 where Table 4.2 has none (R73). -/
def treeOfSsm (ssm : Nat) : Nat :=
  if ssm = 2 then 1 else if ssm = 4 then 2 else if ssm = 8 then 3 else if ssm = 11 then 4 else 0

/-- SSM sent for a tree code (Table 4.2). -/
def ssmOfTree (code : Nat) : Nat :=
  [15, 2, 4, 8, 11, 11, 11, 15].getD code 15

/-- Enable bit of an input (R72). -/
def State.refEnabled (s : State) (i : Nat) : Bool := bit (s.rd F.refCtrlEn) i

/-- State of an input: 0 DISABLED, 1 LOS, 2 QUALIFYING, 3 QUALIFIED, 4 UNQUALIFIED. -/
def State.refState (s : State) (i : Nat) : Nat := s.rd F.refStatState i

/-- An input is QUALIFIED. -/
def State.qualified (s : State) (i : Nat) : Bool := i < 3 && s.refState i == 3

/-- Worst tree code accepted on a REF input (R73). -/
def State.qlMin (s : State) (i : Nat) : Nat := if i = 0 then s.rd F.refQlcfgQlMin0 else s.rd F.refQlcfgQlMin1

/-- The tree code of an input (Table 4.1). -/
def State.inputCode (s : State) (i : Nat) : Nat :=
  if i = 2 then s.rd F.refQlcfgOcxoQlc else treeOfSsm (s.rd F.refStatSsm i)

/-- This member governs the root's time (R70). -/
def State.master (s : State) : Bool := s.isRoot && s.is F.selStatusMaster

/-- The tree code that the time master sends (Table 4.2). -/
def State.treeCode (s : State) : Nat :=
  if !s.timeValid .dbx then 0
  else if !s.is F.selStatusOcxoWarm then 7
  else match s.rd F.selStatusSelState with
    | 0 => 5
    | 1 => s.inputCode (s.rd F.selStatusSelected)
    | _ => 6

/-- ESMC PDUs on both reference ports: DNU on the port of the input selected (R74). -/
def State.sendEsmc (s : State) (event : Bool) : State :=
  [0, 1].foldl (fun s i => s.emit .dbx (.esmc i event
    (if s.rd F.selStatusSelState = 1 && s.rd F.selStatusSelected = i then 15
     else ssmOfTree (s.rd F.selStatusTreeQl)))) s

/-- The tree code that a distributor sends or relays (R69, R85): its own as time master, else that of its time port; 0
while it is not in VALID. -/
def State.qlNow (s : State) : Nat :=
  if s.master then s.treeCode
  else if !s.timeValid .dbx then 0
  else match s.timePort .dbx with
    | some q => (s.port .dbx q).pQl
    | none => 0

/-- The tree code follows its sources, and on the master provisional too; a change of code sends event PDUs on the
reference ports of a root member (R74, R80, R85). -/
def State.showQl (s : State) : State :=
  let old := s.rd F.selStatusTreeQl
  let s := s.wr F.selStatusTreeQl s.qlNow
  let s := if s.master then (s.wr (F.timeStatusProvisional .dbx) (b2n (!s.is F.selStatusOcxoWarm))).showSec else s
  if s.isRoot && s.rd F.selStatusTreeQl ≠ old then s.sendEsmc true else s

/-- First QUALIFIED input in priority order, other than `x` (R75). -/
def State.firstByPrio (s : State) (x : Nat) : Option Nat :=
  [s.rd F.refCtrlPrio0, s.rd F.refCtrlPrio1, s.rd F.refCtrlPrio2].find? fun i => i ≠ x && s.qualified i

/-- The pick: the input named by pref if QUALIFIED, else the first by priority (R75). -/
def State.pickInput (s : State) : Option Nat :=
  let f := s.rd F.refCtrlPref
  if s.qualified f then some f else s.firstByPrio 3

/-- Δ reduced into −2,048 to 2,047 units (R76). -/
def reduceDelta (d : Int) : Int := toSigned 12 (ofSigned 12 d)

/-- The start count of a step's ramp: the first multiple of 256 at or after L_s + 512 (R76). -/
def stepStart (ls : Nat) : Nat := (ls + 512 + 255) / 256 * 256

/-- The step event of a node with Δ and L_0 (R78), in the distributor's registers as well; at an apex it is an input
to be committed (R163). -/
def State.stepEvent (s : State) (p : Part) (delta : Int) (l0 from_ dest cause : Nat) : State :=
  let s := s.emit p (.event 0x78 [ofSigned 32 delta, l0, from_, dest, cause])
  match p with
  | .tsu => s
  | .dbx =>
    ((((((s.wrI F.stepDeltaDelta delta).wr64 F.stepStartLoStart F.stepStartHiStart l0).wr F.stepInfoFrom from_).wr
      F.stepInfoTo dest).wr F.stepInfoCause cause).bump F.stepInfoCount).holdApex .stepEvent

/-- The root starts a phase step: notice, ramp and ref_step (R76 to R78). -/
def State.startStep (s : State) (delta : Int) (from_ dest cause : Nat) : State :=
  let d := reduceDelta delta
  let l0 := stepStart s.dbx.lfn
  let s := (s.modNode .dbx fun n => { n with ramp := some ⟨d, l0, 0⟩ }).wr (F.timeStatusRefStep .dbx) 1
  (s.stepEvent .dbx d l0 from_ dest cause).emit .dbx (.notice d l0)

/-- A switch of the master's selector (R76, R79): a step, or a deferred one while a step is propagating. A
follower's selector governs nothing (R70). A further switch while one is deferred takes its place, since one notice is
owed at the end of the step: the model's choice (log 141). -/
def State.phaseStep (s : State) (delta : Int) (from_ dest cause : Nat) : State :=
  if !s.master then s
  else if s.dbx.ramp.isSome then
    (s.modD fun d => { d with deferred := some (from_, dest, cause) }).wr F.selStatusStepPending 1
  else s.startStep delta from_ dest cause

/-- The selector locks to an input. -/
def State.lockTo (s : State) (y : Nat) : State :=
  ((s.wr F.selStatusSelState 1).wr F.selStatusSelected y).modD fun d => { d with frozenHz := false }

/-- A switch to an input with its cause: switch_evt, the step and the code (R75, R76). -/
def State.switchTo (s : State) (y from_ cause : Nat) (delta : Int) : State :=
  let s := ((s.lockTo y).wr F.selStatusSwitchEvt 1).interrupt .dbx 2
  (s.phaseStep delta from_ y cause).showQl

/-- The root enters VALID on its own reference (R30, R75), once it knows that it does not restart beside a running twin
or labelled children (R27). -/
def State.rootValid (s : State) : State :=
  if s.dbx.origin then s
  else ((s.dropTimePort .dbx).enterValid .dbx).wr (F.timeStatusTimePort .dbx) 3

/-- force_free lets a root master in FREE_RUN enter VALID (Table 4.3). -/
def State.applyForceFree (s : State) : State :=
  if s.master && s.is F.refCtrlForceFree && s.rd F.selStatusSelState = 0 && !s.timeValid .dbx then
    s.rootValid.showQl
  else s

/-- A master whose selector is already locked, or free-runs under force_free, enters VALID (Table 4.3). -/
def State.masterActs (s : State) : State :=
  if s.master && s.rd F.selStatusSelState = 1 && !s.timeValid .dbx then s.rootValid.showQl
  else s.applyForceFree.showQl

/-- A root member becomes the time master (R70, R305). -/
def State.becomeMaster (s : State) : State := (s.wr F.selStatusMaster 1).masterActs

/-- An input has become QUALIFIED (Table 4.3). -/
def State.inputGained (s : State) (delta : Int) : State :=
  match s.pickInput with
  | none => s
  | some y =>
    match s.rd F.selStatusSelState with
    | 0 =>
      if s.master && s.timeValid .dbx then s.switchTo y 3 2 delta
      else
        (s.lockTo y).masterActs
    | 2 => s.switchTo y 3 2 delta
    | _ => s

/-- HOLDOVER begins (R75, R81). -/
def State.enterHoldover (s : State) : State :=
  ((((s.wr F.selStatusSelState 2).wr F.selStatusSelected 3).wr F.selStatusHoldEvt 1).interrupt .dbx 2).showQl

/-- An input has left QUALIFIED (Table 4.3). -/
def State.inputLeft (s : State) (x : Nat) (delta : Int) : State :=
  if s.rd F.selStatusSelState = 1 && s.rd F.selStatusSelected = x then
    match s.firstByPrio x with
    | some y => s.switchTo y x 0 delta
    | none => s.enterHoldover
  else s

/-- An input changes state, and the selector follows a gain or a loss of QUALIFIED. -/
def State.setRefState (s : State) (i st : Nat) (delta : Int) : State :=
  let old := s.refState i
  let s := s.wr F.refStatState st i
  if old = 3 && st ≠ 3 then s.inputLeft i delta
  else if old ≠ 3 && st = 3 then s.inputGained delta
  else s

/-- The enable bits act: an input whose bit is clear is DISABLED; one that is enabled waits in LOS for its lock
or its edges (R72, log 13). -/
def State.applyRefEnables (s : State) (delta : Int) : State :=
  [0, 1, 2].foldl (fun s i =>
    if !s.refEnabled i then (if s.refState i = 0 then s else s.setRefState i 0 delta)
    else if s.refState i = 0 then s.setRefState i 1 delta else s) s

/-- What of Δ has been applied at link frame L (R77). -/
def rampApplied (r : Ramp) (l : Nat) : Int :=
  if l < r.l0 then 0 else if r.l0 + 1024 ≤ l then r.delta else (r.delta * (l - r.l0 : Nat)).tdiv 1024

end Sys2Proof.Machine
end

