-- ==== Sys2Proof/Machine/Time.lean ====
section
/-! DEFINITION. Machine time (chapter 2), echo exchanges, acquisition and tracking, measurement sets and loop
closure (chapter 3), and civil time: the meaning of each command, one definition each. -/

namespace Sys2Proof.Machine

/-! ### Snapshots -/

/-- LFN_LO_READ (R353, R24, R26): the read, at the clock edge that `sub` names, returns the low half of the exported
count and latches the high half and the SUB of the same count. -/
def execLfnLoRead (p : Part) (sub : Nat) (s : State) : Res :=
  onLive p s fun s =>
    let s := s.modNode p fun n => n.runTo sub
    let t := s.exported p
    ((((s.wr (F.lfnLoLfnLo p) (t.lfn % 2 ^ 32)).wr (F.lfnHiLfnHi p) (t.lfn / 2 ^ 32)).wr
      (F.subSnapSub p) t.sub).wr (F.subSnapFrac p) 0).emit p
        (.readData (F.lfnLoLfnLo p).base (t.lfn % 2 ^ 32))

/-! ### The echo exchange (R52, R53) -/

/-- A sample of a measurement set that software started in mode 0 on this port (R48, R50). -/
def State.tdcEcho (s : State) (p : Part) (port : Nat) (x rtt : Int) : State :=
  s.modNode p fun n => match n.tdc with
    | some t => if t.port = port && t.mode = 0 && t.acc.tried < t.req then
        { n with tdc := some { t with acc := t.acc.sample x rtt } } else n
    | none => n

/-- A sample of the echo set on a port, in 0.625 ps units, while it wants attempts; the set keeps the asymmetry
record it began with (R55). -/
def State.echoSample (s : State) (p : Part) (port : Nat) (theta rtt : Int) : State :=
  let full := s.echoSetDone p port
  let a := s.asymApplied p port
  (s.modPort p port fun t => if full then t else { t with acc := t.acc.sample theta rtt, asym := a }).tdcEcho
    p port theta rtt

/-- The exchange that a returned t4 closes, and the ones before it (R52): the oldest one, and once an exchange has closed
the one whose t4 − t3 lies nearest that of the exchange before, since a reply takes the same time each link frame
(log 137). -/
def echoClosed (gap : Option Int) (t4 : Nat) (l : List (Nat × Nat × Nat)) : Nat :=
  match gap with
  | none => 0
  | some g =>
    let off := fun (e : Nat × Nat × Nat) => (stampDiff t4 e.2.2 - g).natAbs
    (l.zipIdx.foldl (fun best x => if off x.1 < off (l.getD best (0, 0, 0)) then x.2 else best) 0)

/-- The t4 that came back closes an exchange with a sample (R52); those before it, whose replies failed, yield timeouts,
and so does the oldest where the far end has returned no new t4 (R53). -/
def State.echoReturn (s : State) (p : Part) (port t4 : Nat) : State :=
  let t := s.port p port
  match t.echo with
  | [] => s
  | e0 :: _ =>
    if t4 = t.seenT4 then
      if t.echoGap.isSome then
        (s.exchangeMiss p port).modPort p port fun t => { t with echo := t.echo.drop 1 }
      else s
    else
      let i := echoClosed t.echoGap t4 t.echo
      let e := t.echo.getD i e0
      let s := (t.echo.take i).foldl (fun s _ => s.exchangeMiss p port) s
      let rtt := stampDiff t4 e.1 - stampDiff e.2.2 e.2.1
      (s.echoSample p port (2 * stampDiff e.2.1 e.1 - rtt - s.asymApplied p port) (2 * rtt)).modPort p port fun t =>
        { t with echo := t.echo.drop (i + 1), echoGap := some (stampDiff t4 e.2.2) }

/-- ECHO_BLOCK_RECEIVED (R52): the child end forms rtt and θ of the exchange whose t4 came back, opens a new exchange
with the block, and answers it with its turnaround. -/
def execEchoBlockReceived (p : Part) (port t1 t2 t3 t4 : Nat) (s : State) : Res :=
  onLive p s fun s =>
    if s.childEnd p port && s.echoing p port then
      ((s.echoReturn p port t4).modPort p port fun t =>
        { t with echo := t.echo ++ [(t1, t2, t3)], answer := (t1, t2, t3), seenT4 := t4 }).emit p
          (.echoReply port (ofSigned 32 (stampDiff t3 t2)) t1)
    else s

/-- A parent end's echo set has made its attempts: its mean round trip appears and a new set begins (R56, R67). -/
def State.closeParentSet (s : State) (p : Part) (port : Nat) : State :=
  if s.echoSetDone p port then
    let a := (s.port p port).acc
    ((s.wrI (F.portRttRtt p) a.meanRtt port).wr (F.portTstatSetValid p) 1 port).restartEchoSet p port
  else s

/-- ECHO_REPLY_RECEIVED (R52): the parent end forms rtt and keeps t4 for its next downward S0. The parent forms no θ: as
the sample of a set in mode 0 on its port the exchange gives a free value (R50, log 138). -/
def execEchoReplyReceived (p : Part) (port t1 turn t4 : Nat) (s : State) : Res :=
  onLive p s fun s =>
    if !s.childEnd p port && s.echoing p port then
      let rtt := stampDiff t4 t1 - toSigned 32 turn
      let v := s.draw
      let s := v.2.echoSample p port (toSigned 32 (v.1 % 2 ^ 32)) (2 * rtt)
      (s.modPort p port fun t => { t with retT4 := t4, retT1 := t1 }).closeParentSet p port
    else s

/-! ### Acquisition and tracking (R30, R31, R56 to R58) -/

/-- The preferred time port: P0 or U0 (R58). -/
def preferredPort : Part → Nat
  | .tsu => 0
  | .dbx => 128

/-- ACQUIRE_START (R30): a node in NO_TIME or HOLD enters ACQUIRE from a port whose parent is time-valid; the
alternative of B9 takes P1 or U1 first (R312). -/
def execAcquireStart (p : Part) (port : Nat) (s : State) : Res :=
  onLive p s fun s =>
    let st := s.timeState p
    let first := !(s.node p).altPort || st = 3 || port ≠ preferredPort p ||
      !((otherParent p port).any fun q => s.parentValid p q)
    if (st = 0 || st = 3) && s.parentValid p port && first then
      ((s.acquireFrom p port).modNode p fun n => { n with fromHold := st == 3 }).setTimeState p 1
    else s

/-- ACQ_SET1_COMPLETE (R56): the count becomes the parent's by the mean θ of set 1 and its label, and set 2 begins. -/
def execAcqSet1Complete (p : Part) (s : State) : Res :=
  onLive p s fun s =>
    let port := (s.node p).acqPort
    if s.timeState p = 1 && (s.node p).acqSet = 1 && s.echoSetDone p port then
      if s.setDiscarded p port then s.restartEchoSet p port
      else
        let m := (s.port p port).acc.mean
        ((s.closeEchoSet p port).correct p (s.acqCorrection p port m)).modNode p fun n =>
          { n with acqSet := 2, labelled := true, origin := false }
    else s

/-- Set 2 meets the limits of R56. -/
def State.set2Passes (s : State) (p : Part) (a : StatAcc) : Bool :=
  a.mean.natAbs ≤ s.rd (F.trackCfgAcqLimit p) && a.sd ≤ s.rd (F.trackCfgSigmaLimit p)
    && a.tmo ≤ s.echoSetLen p / 16

/-- The eighth failure of set 2 in a row on a port (R56, ACQ_FAIL). -/
def State.acqFailed (s : State) (p : Part) (port : Nat) : State :=
  let s := s.bump (F.portTstatAcqFail p) port
  let s := s.logErr p 0x13 port (s.rd (F.portTstatAcqFail p) port)
  match otherParent p port with
  | some q => s.acquireFrom p (if s.parentValid p q then q else port)
  | none => s.acquireFrom p port

/-- ACQ_SET2_COMPLETE (R56, R31): within the limits the node enters VALID; otherwise the mean is applied and
set 2 runs again. -/
def execAcqSet2Complete (p : Part) (s : State) : Res :=
  onLive p s fun s =>
    let port := (s.node p).acqPort
    if s.timeState p = 1 && (s.node p).acqSet = 2 && s.echoSetDone p port then
      let a := (s.port p port).acc
      if s.setDiscarded p port then s.restartEchoSet p port
      else
        let s1 := s.closeEchoSet p port
        if s.set2Passes p a then (s1.enterValid p).rephase p (psiAt (s.port p port).answer.2.1)
        else
          let s2 := (s1.correct p (-a.mean)).modNode p fun n => { n with acqFails := n.acqFails + 1 }
          if (s2.node p).acqFails = 8 then s2.acqFailed p port else s2
    else s

/-- What a node in VALID does when a parent port is lost (R31, R58): it takes its other parent port at the next set
boundary, with the phase ψ rounded up to a whole time-clock period (R88), or enters HOLD where neither parent is
time-valid. -/
def State.lostInValid (s : State) (p : Part) (port psi : Nat) : State :=
  let other := (otherParent p port).filter fun q => s.parentValid p q
  if s.timePort p = some port then
    match other with
    | some q => s.modNode p fun n => { n with moveTo := some (q, ceilEdge psi) }
    | none => s.enterHold p
  else match (s.node p).moveTo with
    | some (q, _) => if q = port && other.isNone then s.enterHold p else s
    | none => s

/-- A parent port supplies no time any more (R31, R58): in VALID the node is to take its other parent port or enters HOLD; in
ACQUIRE it acquires from the other port or leaves ACQUIRE. -/
def State.parentLost (s : State) (p : Part) (port psi : Nat) : State :=
  if s.timeState p = 2 then s.lostInValid p port psi
  else if s.timeState p = 1 && (s.node p).acqPort = port then
    match (otherParent p port).filter fun q => s.parentValid p q with
    | some q => s.acquireFrom p q
    | none => s.leaveAcquire p
  else s

/-- PARENT_TIME_LOSS (R31, R58): a parent port is down, or its parent is not time-valid. -/
def execParentTimeLoss (p : Part) (port psi : Nat) (s : State) : Res :=
  onLive p s fun s =>
    if !(s.parentPorts p).contains port || s.parentValid p port then s else s.parentLost p port psi

/-- A set boundary of the node: a change of time port that is due is made, with the difference slewed (R58). -/
def State.moveDue (s : State) (p : Part) : State :=
  match (s.node p).moveTo, s.timePort p with
  | some (q, psi), some port =>
    let s := s.modNode p fun n => { n with moveTo := none }
    if s.parentValid p q then (s.moveTimePort p port q).rephase p psi else s
  | _, _ => s

/-- TIME_PORT_RETURN (R58): after 2^16 link frames of a time-valid parent the node returns to P0 or U0. -/
def execTimePortReturn (p : Part) (psi : Nat) (s : State) : Res :=
  onLive p s fun s =>
    let q := preferredPort p
    match s.timePort p with
    | none => s
    | some port =>
      if s.timeState p = 2 && otherParent p port = some q && s.parentValid p q
          && (s.port p q).pSince + 2 ^ 16 ≤ s.lfn p then
        (s.moveTimePort p port q).rephase p (ceilEdge psi)
      else s

/-- A completed set of the time port corrects the count by slew (R57): its mean θ is the offset still to be slewed
(log 130), and a mean beyond 40 ps sets align_err. -/
def State.track (s : State) (p : Part) (port : Nat) (a : StatAcc) : State :=
  let m := a.mean
  let s := if a.n = 0 then s else s.modNode p fun n => { n with slew := -m }
  if 64 < m.natAbs then
    ((s.wr (F.portTstatAlignErr p) 1 port).logErr p 0x14 port (ofSigned 32 m)).penalise p 8
  else s

/-- TRACKING_SET_COMPLETE (R57, R58): the set's results appear; on the time port of a node in VALID they correct the
count, and a change of time port that is due is made at this set boundary. -/
def execTrackingSetComplete (p : Part) (port : Nat) (s : State) : Res :=
  onLive p s fun s =>
    if s.timeState p = 2 && s.childEnd p port && s.echoSetDone p port then
      if s.setDiscarded p port then (s.restartEchoSet p port).moveDue p
      else
        let a := (s.port p port).acc
        let s1 := s.closeEchoSet p port
        (if s.timePort p = some port then s1.track p port a else s1).moveDue p
    else s

/-- TIME_READ (R46, R28, R205): the time record and the 64.32 civil time at one count, that of the clock edge at which
the descriptor is processed. -/
def execTimeRead (p : Part) (ring seq sub : Nat) (s : State) : Res :=
  onLive p s fun s => s.withDesc p ring seq 0x31 fun f s =>
    let s := s.modNode p fun n => n.runTo sub
    let c := civilAt (s.node p) (s.node p).edgeSub
    let bs := s.timeRecord p ++ toLe 8 c.1 ++ toLe 4 c.2 ++ toLe 4 0
    (s.result p ring seq f.desc bs).finish p ring seq 0 0 0

/-! ### Regions (R39, R40) -/

/-- The repeater's chain of parents up to the TSU, as hops; none where it is broken, or longer than `fuel`. -/
def State.regionDepth (s : State) : Nat → Nat → Option Nat
  | 0, _ => none
  | fuel + 1, r =>
    if !s.is F.regionCfgEnable r then none
    else if s.is F.regionCfgFromTsu r then some 1
    else (s.regionDepth fuel (s.rd F.regionCfgParent r)).map (· + 1)

/-- The compensation that a region's parent holds, in 0.625 ps units. -/
def State.parentComp (s : State) (r : Nat) : Nat :=
  if s.is F.regionCfgFromTsu r then 0 else (s.region (s.rd F.regionCfgParent r)).comp

/-- The repeater has its count and its measurement, so its region is valid (R40). -/
def State.regionJudge (s : State) (r : Nat) : State :=
  let g := s.region r
  if g.marked && g.measured then s.wr F.regionStatRegionValid 1 r else s

/-- The fine delay after a measurement (R39): the remainder of the compensation, reached by at most one step a
measurement once there has been one. A remainder beyond the 2,047 steps has no value in the spec: a free value, within
that one step (log 9). -/
def fineAfter (g : RegionRt) (rest free : Nat) : Nat :=
  if !g.measured then (if rest < 2048 then rest else free % 2048)
  else if rest < 2048 then
    (if rest < g.fine then g.fine - 1 else if g.fine < rest then g.fine + 1 else g.fine)
  else min 2047 (g.fine + free % 3 - 1)

/-- REGION_REMEASURE (R39): every 1,024 link frames a repeater's compensation becomes half the round trip plus the
parent's, moving by one step at most after the first measurement; whole time-clock periods go into the count and the
rest into the fine delay. -/
def execRegionRemeasure (region roundTrip : Nat) (s : State) : Res :=
  onLive .tsu s fun s =>
    match s.regionDepth 16 region with
    | none => s
    | some depth =>
      let g := s.region region
      if g.measured && s.tsu.lfn < g.measAt + 1024 then s
      else
        let want := roundTrip / 2 + s.parentComp region
        let comp := if !g.measured then want
          else if want < g.comp then g.comp - 1 else if g.comp < want then g.comp + 1 else g.comp
        let v := s.draw
        let fine := fineAfter g (comp % 4096) v.1
        let s := v.2.modRegion region fun g => { g with measured := true, comp := comp, fine := fine, measAt := s.tsu.lfn }
        ((((s.wr F.regionStatFineDelay fine region).wr F.regionStatWholeCycles (comp / 4096) region).wr
          F.regionStatDepth depth region).regionJudge region)

/-- A repeater whose low 8 bits disagree with the mesh clears region_valid, sets count_err and waits for the
next full marker (R40). -/
def State.regionError (s : State) (r : Nat) : State :=
  ((s.wr F.regionStatRegionValid 0 r).wr F.regionStatCountErr 1 r).modRegion r fun g =>
    { g with marked := false }

/-- LFN_MARKER (R40): at every LFN that is a multiple of 1,024 each enabled repeater takes the full count; one
that was counting and disagrees is in error and takes the next. -/
def execLfnMarker (s : State) : Res :=
  onLive .tsu s fun s =>
    if s.tsu.lfn % 1024 = 0 then
      (List.range 64).foldl (fun s r =>
        if !s.is F.regionCfgEnable r then s
        else
          let g := s.region r
          if g.marked && g.lfn % 256 ≠ s.tsu.lfn % 256 then s.regionError r
          else (s.modRegion r fun g => { g with lfn := s.tsu.lfn, marked := true }).regionJudge r) s
    else s

/-! ### Civil time (R43 to R45) -/

/-- The apply LFN of a page sent now: the next multiple of 1,024 (R44). -/
def civilApplyLfn (lfn : Nat) : Nat := (lfn / 1024 + 1) * 1024

/-- The civil page that the master originates for the link frame after this one (R43 to R45). -/
def State.civilPageNow (s : State) : CivilPage :=
  let n := s.dbx
  let apply := civilApplyLfn (n.lfn + 1)
  let v := civilAfter n.civSec n.civFrac n.civInc (apply - n.lfn)
  let st := s.rd (F.timeStatusCivilState .dbx)
  match s.d.civNext with
  | none => ⟨apply, v.1, v.2, n.civInc, st⟩
  | some (inc, none) => ⟨apply, v.1, v.2, inc, st⟩
  | some (inc, some (sec, frac)) => ⟨apply, sec, frac, inc, 1⟩

/-- CIVIL_BROADCAST (R44, R92): for the S0 of LFN ≡ 16 (mod 1,024) the root's time master forms its civil time and
increment for the apply LFN, with what CIVIL_SET has given since the last broadcast, sends them on its downlinks and to
its twin, and holds them itself. -/
def execCivilBroadcast (s : State) : Res :=
  onLive .dbx s fun s =>
    if s.isRoot && s.is F.selStatusMaster && (s.dbx.lfn + 1) % 1024 = 16 then
      let pg := s.civilPageNow
      ((((s.modNode .dbx fun n => { n with civHold := some pg, civLast := n.lfn }).modD fun d =>
        { d with civNext := none }).duePage 1).emit .dbx (.civilPage pg.apply pg.sec pg.frac pg.inc pg.civilState))
    else s

/-- The apply LFN of a page whose apply field is `field` (R92): the LFN with those bits 17:10 and bits 9:0 clear that lies
nearest ahead of the receiver's count. -/
def civilApplyAt (lfn field : Nat) : Nat :=
  let l := lfn / 2 ^ 18 * 2 ^ 18 + field % 256 * 1024
  if lfn < l then l else l + 2 ^ 18

/-- CIVIL_PAGE_RECEIVED (R92): the values wait for the LFN that the page's apply field names; a distributor sends the
page on in its first downward S0. A root member that follows holds what CIVIL_SET has given until the master's page brings
it (R43). -/
def execCivilPageReceived (p : Part) (apply sec frac inc civilState : Nat) (s : State) : Res :=
  onLive p s fun s =>
    let at_ := civilApplyAt (s.lfn p) apply
    let s := s.modNode p fun n =>
      { n with civHold := some ⟨at_, sec, frac, inc, civilState⟩, civLast := n.lfn }
    match p with
    | .tsu => s
    | .dbx =>
      let s := s.modD fun d => { d with civNext := d.civNext.filter fun x => x.1 != inc }
      (s.duePage 1).emit .dbx (.civilPage at_ sec frac inc civilState)

/-- The increment in force appears in its registers (Table 2.6). -/
def State.showIncrement (s : State) (p : Part) : State :=
  match p with
  | .tsu => s
  | .dbx => s.wr64 F.civilIncLoInc F.civilIncHiInc s.dbx.civInc

/-- The broadcast values take effect at a node (R44); the pulse outputs of civil time are computed anew (R82). -/
def State.takeCivil (s : State) (p : Part) (pg : CivilPage) : State :=
  let s := (s.modNode p fun n => { n with civSec := pg.sec, civFrac := pg.frac, civInc := pg.inc }).showIncrement p
  match p with
  | .tsu => s
  | .dbx => s.modD fun d => { d with civAt := some (s.now .dbx) }

/-- CIVIL_APPLY (R44, R45): at the apply LFN the node takes the broadcast values. With a tracking broadcast it tracks, and
a changed value is a civil-step event. A page whose state is unset leaves the node free-running on its own values. A
free-running page gives its values by R44 and its state, with no event, since R45 names tracking broadcasts: the model's
choice (log 139). -/
def execCivilApply (p : Part) (s : State) : Res :=
  onLive p s fun s =>
    match (s.node p).civHold with
    | none => s
    | some pg =>
      if pg.apply ≠ (s.node p).lfn then s
      else
        let n := s.node p
        let s := s.modNode p fun n => { n with civHold := none }
        if pg.civilState = 0 then
          if s.rd (F.timeStatusCivilState p) = 1 then s.wr (F.timeStatusCivilState p) 2 else s
        else if pg.civilState ≠ 1 then (s.takeCivil p pg).wr (F.timeStatusCivilState p) 2
        else
          let s1 := (s.takeCivil p pg).wr (F.timeStatusCivilState p) 1
          if n.civSec = pg.sec && n.civFrac = pg.frac then s1
          else ((s1.wr (F.timeStatusCivilStepEvt p) 1).interrupt p 2).emit p
            (.event 0x45 [n.civSec, n.civFrac, pg.sec, pg.frac])

/-- CIVIL_TIMEOUT (R45): 4,096 link frames without a broadcast make the civil state free-running. -/
def execCivilTimeout (p : Part) (s : State) : Res :=
  onLive p s fun s =>
    if s.rd (F.timeStatusCivilState p) = 1 && (s.node p).civLast + 4096 ≤ s.lfn p then
      s.wr (F.timeStatusCivilState p) 2
    else s

/-- CIVIL_SET (R43): an increment within nominal ±0.1 %, and an initial value only while the state is unset,
wait for the first broadcast; the result is its apply LFN. The twin accepts the same descriptor, forwarded to it as an input
of the same commit count. -/
def execCivilSet (ring seq : Nat) (s : State) : Res :=
  onLive .dbx s fun s => s.withDesc .dbx ring seq 0x32 fun f s =>
    let d := f.desc
    let inc := leNat d.ext 0 8
    let init := bit (opnd d 40 1) 0
    if inc + civilRange < civilNominal || civilNominal + civilRange < inc then s.finish .dbx ring seq 0x21 0 0
    else if init && s.rd (F.timeStatusCivilState .dbx) ≠ 0 then s.finish .dbx ring seq 0x22 0 0
    else
      let sent := (s.dbx.lfn + 1007) / 1024 * 1024 + 16
      let first := if init then some (leNat d.ext 8 8, leNat d.ext 16 8) else s.d.civNext.bind (·.2)
      let s := s.modD fun t => { t with civNext := some (inc, first) }
      s.finish .dbx ring seq 0 (civilApplyLfn sent) 0

/-! ### Measurement sets (R48 to R51) -/

/-- TDC_START (R50, R67): the set registers take the word; start begins a set, is ignored while one runs, and is
refused in modes 1 to 4 on a port that supplies the time, in modes 3 and 4 on a TSU, and in the modes Table 3.1 lacks
(log 12). A set on a port that the part lacks runs and has only timeouts (log 138). -/
def execTdcStart (p : Part) (v : Word) (s : State) : Res :=
  onLive p s fun s =>
    let w := v.toNat
    let s := ((s.wr (F.tdcCtrlPort p) (bits w 0 8)).wr (F.tdcCtrlMode p) (bits w 8 3)).wr
      (F.tdcCtrlNM1 p) (bits w 12 16)
    if !bit w 31 || s.is (F.tdcStatusBusy p) then s
    else
      let port := bits w 0 8
      let mode := bits w 8 3
      if (1 ≤ mode && mode ≤ 4 && s.suppliesTime p port) || (p = .tsu && 3 ≤ mode) || 5 ≤ mode then
        s.wr (F.tdcStatusRefused p) 1
      else
        (s.wr (F.tdcStatusBusy p) 1).modNode p fun n =>
          { n with tdc := some ⟨port, mode, bits w 12 16 + 1, {}, ⟨n.lfn, n.sub⟩⟩ }

/-- The timeout of an attempt in 10 ps units: (tmo + 1) × 10 ns (R48). -/
def State.tdcTimeout (s : State) (p : Part) : Nat := (s.rd (F.tdcTmoTmo p) + 1) * 1000

/-- An attempt of the set in progress ends, with what it does to the set's results. -/
def State.tdcAttempt (s : State) (p : Part) (f : StatAcc → StatAcc) : State :=
  s.modNode p fun n => match n.tdc with
    | some t => { n with tdc := some { t with acc := f t.acc, since := ⟨n.lfn, n.sub⟩ } }
    | none => n

/-- TDC_ATTEMPT_TIMEOUT (R48): an attempt whose timeout has expired yields no sample. -/
def execTdcAttemptTimeout (p : Part) (s : State) : Res :=
  onLive p s fun s => match (s.node p).tdc with
    | some t =>
      if t.acc.tried < t.req && !mtBefore (s.now p) (mtAdd t.since (s.tdcTimeout p)) then s.tdcAttempt p StatAcc.miss
      else s
    | none => s

/-- The part has the start and stop edges of a set's mode: a port of its own, and the pulse inputs of a root member
(Table 3.1, R68). -/
def State.tdcEdges (s : State) (p : Part) (t : TdcSet) : Bool :=
  1 ≤ t.mode && t.port < portCount p && (t.mode < 3 || (p == Part.dbx && s.isRoot))

/-- TDC_STOP_EDGE (R48): an attempt of a set in modes 1 to 4 yields the interval as its sample, or a timeout where the
stop edge comes after the programmed timeout. -/
def execTdcStopEdge (p : Part) (interval : Nat) (s : State) : Res :=
  onLive p s fun s => match (s.node p).tdc with
    | some t =>
      if t.acc.tried < t.req && s.tdcEdges p t then
        s.tdcAttempt p fun a => if interval ≤ 16 * s.tdcTimeout p then a.sample interval else a.miss
      else s
    | none => s

/-- MEASUREMENT_SET_COMPLETE (R49): the results of the set are stored and done is set. -/
def execMeasurementSetComplete (p : Part) (s : State) : Res :=
  onLive p s fun s =>
    match (s.node p).tdc with
    | none => s
    | some t =>
      if t.acc.tried ≠ t.req then s
      else
        let a := t.acc
        let s := s.modNode p fun n => { n with tdc := none }
        let s := (((s.wr (F.tdcCountCount p) a.n).wr (F.tdcTimeoutsTimeouts p) a.tmo).wrI (F.tdcMeanValue p)
          a.mean).wr (F.tdcSdValue p) a.sd
        let s := ((s.wrI (F.tdcMinValue p) a.lo).wrI (F.tdcMaxValue p) a.hi).wr (F.tdcStatusNoData p)
          (b2n (a.n == 0))
        let s := if t.mode = 0 && 0 < a.n then
          ((s.wrI (F.portOffsetTheta p) a.mean t.port).wrI (F.portRttRtt p) a.meanRtt t.port).wr
            (F.portTstatSetValid p) 1 t.port else s
        (s.wr (F.tdcStatusBusy p) 0).wr (F.tdcStatusDone p) 1

/-- The results of one tap's attempts in a mode 2 set; an attempt with no sample is none (R48, R49). -/
def tapAcc (attempts : List (Option Nat)) : StatAcc :=
  attempts.foldl (fun a x => match x with
    | some v => a.sample v
    | none => a.miss) {}

/-- A tap fails its test: its mean differs from the expected interval by more than 2.5 ps (R51), or no attempt on it
gave a sample (log 138). -/
def tapBad (p : Part) (port tap : Nat) (attempts : List (Option Nat)) : Bool :=
  let a := tapAcc attempts
  a.n == 0 || 4 < (a.mean - Config.tapExpected (partCode p) port tap).natAbs

/-- TDC_SELF_TEST (R51): once every 2^20 link frames a TDC's set of 256 attempts in mode 2, 86, 85 and 85 of them on the
taps 1, 2 and 3 in rotation; a tap out of tolerance sets tdc_fault and is logged; a test that passes clears it. -/
def execTdcSelfTest (p : Part) (port : Nat) (a1 a2 a3 : List (Option Nat)) (s : State) : Res :=
  onLive p s fun s =>
    if s.lfn p < (s.port p port).selfDue then s
    else
      let bad := [(1, a1), (2, a2), (3, a3)].filter fun x => tapBad p port x.1 x.2
      let s := (s.modPort p port fun t => { t with selfDue := s.lfn p + 2 ^ 20 }).wr (F.portTstatTdcFault p)
        (b2n !bad.isEmpty) port
      (bad.foldl (fun s x => s.logErr p 0x11 port x.1) s).score p (some port)

/-! ### Close pages and loop closure (R55, R59 to R62) -/

/-- The check of the two cable records of a hop: sums beyond 1 unit are a mismatch and are logged (R55). -/
def State.checkCable (s : State) (p : Part) (port : Nat) : State :=
  let sum := s.rdI (F.portAsymCable p) port + (s.port p port).cCable
  let bad := 1 < sum.natAbs
  let s := s.wr (F.portTstatAsymMismatch p) (b2n bad) port
  (if bad then s.logErr p 0x12 port (ofSigned 32 sum) else s).score p (some port)

/-- A loop is valid (R59): the child reported VALID and a completed set on both ports within the closure
period. -/
def State.loopValid (s : State) (k : Nat) : Bool :=
  let t := s.port .dbx k
  t.cValid && t.cSet0 && t.cSet1 && match t.cAt with
    | some a => s.dbx.lfn ≤ a + 2 ^ 20
    | none => false

/-- θ_X, member B's count minus member A's: measured by member B and reported to member A (R59). In a root pair
whose master is member B, member A is the child end and measures its negation (R70, log 131). -/
def State.thetaX (s : State) : Int :=
  let child := s.childEnd .dbx s.xPort
  let t := if child then s.rdI (F.portOffsetTheta .dbx) s.xPort else (s.port .dbx s.xPort).cTheta0
  if child == s.sideB then t else -t

/-- One closure run over the child loops (R60 to R62). -/
def State.closure (s : State) : State :=
  let loops := ((List.range 128).filter s.loopValid).map fun k =>
    (k, (s.port .dbx k).cTheta0 - (s.port .dbx k).cTheta1 - s.thetaX)
  let m := loops.length
  let unjudged := m < 8
  let med : Int := if unjudged then 0 else (sortInt (loops.map (·.2))).getD ((m + 1) / 2 - 1) 0
  let limit := s.rd F.closeLimitLimit
  let x0bad := !unjudged && limit / 2 < med.natAbs
  let flagged := (loops.filter fun l => limit < (l.2 - med).natAbs).map (·.1)
  let s := loops.foldl (fun s l => s.wrI F.portCloseClose l.2 l.1) s
  let s := (List.range 128).foldl (fun s k =>
    (s.wr (F.portTstatBadCable .dbx) (b2n (flagged.contains k)) k).scorePort k) s
  let s := flagged.foldl (fun s k => s.emit .dbx (.alert k)) s
  let s := ((s.wr F.closeStatusX0Bad (b2n x0bad)).wr F.closeStatusX0Unjudged (b2n unjudged)).wr F.closeStatusLoops m
  ((s.wr F.closeStatusFlagged flagged.length).wrI F.closeMedianMedian med).wr F.closeStatusDone 1

/-- A run of the closure schedule: the first one, at B12, and those that follow it every 2^20 link frames (R61). -/
def State.closurePeriod (s : State) : State :=
  s.closure.modD fun d => { d with closeDue := s.dbx.lfn + 2 ^ 20 }

/-- CLOSURE_RUN (R61, R67): periodic takes its value, and run computes loop closure. -/
def execClosureRun (v : Word) (s : State) : Res :=
  onLive .dbx s fun s =>
    let s := s.wr F.closeCtrlPeriodic (bits v.toNat 1 1)
    if bit v.toNat 0 then s.closure else s

/-- CLOSURE_PERIODIC (R61): the run of every 2^20 link frames, while periodic is set. -/
def execClosurePeriodic (s : State) : Res :=
  onLive .dbx s fun s =>
    if s.is F.closeCtrlPeriodic && s.d.closeDue ≤ s.dbx.lfn then s.closurePeriod else s

end Sys2Proof.Machine
end

