-- ==== Sys2Proof/Machine/Reference.lean ====
section
/-! DEFINITION. The reference inputs, phase steps and pulse outputs (chapter 4): one meaning for each command. -/

namespace Sys2Proof.Machine

/-- Work of a root member's reference inputs: ignored on any other distributor (R68). -/
def onRoot (s : State) (f : State → State) : Res := onLive .dbx s fun s => if s.isRoot then f s else s

/-- Ten microseconds, ten seconds and five seconds of R72, in link frames. -/
def qualifyLimit : Nat := lfOfS 10
def esmcLimit : Nat := lfOfS 5

/-- The greatest offset of a usable input: ±9.2 ppm in units of 1 ppb (R72). -/
def freqOk (off : Int) : Bool := off.natAbs ≤ 9200

/-- REF_LOS (R72): an enabled REF input enters LOS. -/
def execRefLos (i : Nat) (delta : Int) (s : State) : Res :=
  onRoot s fun s => if i < 2 && s.refEnabled i && s.refState i ≠ 0 then s.setRefState i 1 delta else s

/-- LOST_LOCK_INDICATION (R72): the loop of the selected input freezes its frequency before LOS is declared. -/
def execLostLockIndication (i : Nat) (s : State) : Res :=
  onRoot s fun s =>
    if s.rd F.selStatusSelState = 1 && s.rd F.selStatusSelected = i then s.modD fun d => { d with frozenHz := true }
    else s

/-- REF_BLOCK_LOCK_RETURN (R72): LOS becomes QUALIFYING. -/
def execRefBlockLockReturn (i : Nat) (s : State) : Res :=
  onRoot s fun s =>
    if i < 2 && s.refState i = 1 then
      (s.wr F.refStatState 2 i).modD fun d => { d with refs := fset d.refs i { qualAt := s.dbx.lfn, lastPdu := s.dbx.lfn } }
    else s

/-- What an input holds after a PDU: information PDUs count in a row of one code, and any PDU ends the silence (R72). -/
def RefIn.afterPdu (r : RefIn) (event : Bool) (ssm lfn : Nat) : RefIn :=
  if event then { r with lastPdu := lfn }
  else { r with run := if ssm = r.infoSsm && 0 < r.run then r.run + 1 else 1, infoSsm := ssm, lastPdu := lfn }

/-- A PDU's code and offset appear at its input (R72, R85). -/
def State.takePdu (s : State) (i : Nat) (event : Bool) (ssm : Nat) (freqOff : Int) : State :=
  let r := (fgetD s.d.refs i {}).afterPdu event (ssm % 16) s.dbx.lfn
  let s := s.modD fun d => { d with refs := fset d.refs i r }
  (((s.wr F.refStatSsm ssm i).wr F.refStatEsmcTmo 0 i).wrI F.refStatFreqOff freqOff i).wr F.refStatFreqErr
    (b2n (!freqOk freqOff)) i

/-- An input may become QUALIFIED: two information PDUs in a row of one code that is no worse than ql_min, within
±9.2 ppm (R72, R73). -/
def State.pduQualifies (s : State) (i ssm : Nat) (freqOff : Int) : Bool :=
  let code := treeOfSsm (ssm % 16)
  let r := fgetD s.d.refs i {}
  1 ≤ code && code ≤ s.qlMin i && freqOk freqOff && ssm % 16 = r.infoSsm && 2 ≤ r.run

/-- ESMC_PDU (R72, R73): the SSM code and the offset are taken; two information PDUs of one acceptable code, within
±9.2 ppm, qualify; a worse code, or the frequency, unqualifies at once. -/
def execEsmcPdu (i : Nat) (event : Bool) (ssm : Nat) (freqOff delta : Int) (s : State) : Res :=
  onRoot s fun s =>
    let st := s.refState i
    if 2 ≤ i || st = 0 || st = 1 then s
    else
      let old := treeOfSsm (s.rd F.refStatSsm i)
      let code := treeOfSsm (ssm % 16)
      let s := s.takePdu i event ssm freqOff
      if st = 3 then
        if code = 0 || old < code || !freqOk freqOff then s.setRefState i 4 delta else s.showQl
      else if s.pduQualifies i ssm freqOff then s.setRefState i 3 delta
      else s

/-- QUALIFY_TIMEOUT (R72): 10 s in QUALIFYING make an input UNQUALIFIED. -/
def execQualifyTimeout (i : Nat) (s : State) : Res :=
  onRoot s fun s =>
    if i < 2 && s.refState i = 2 && (fgetD s.d.refs i {}).qualAt + qualifyLimit ≤ s.dbx.lfn then
      s.wr F.refStatState 4 i
    else s

/-- ESMC_TIMEOUT (R72, R85): 5 s without a PDU on a REF input with block lock set esmc_tmo, and unqualify it where it is
QUALIFIED. -/
def execEsmcTimeout (i : Nat) (delta : Int) (s : State) : Res :=
  onRoot s fun s =>
    if i < 2 && 2 ≤ s.refState i && (fgetD s.d.refs i {}).lastPdu + esmcLimit ≤ s.dbx.lfn then
      let s1 := s.wr F.refStatEsmcTmo 1 i
      if s.refState i = 3 then s1.setRefState i 4 delta else s1
    else s

/-- OCXO_QUALIFY (R72): 1 s of edges within ±9.2 ppm qualifies the OCXO input. -/
def execOcxoQualify (freqOff delta : Int) (s : State) : Res :=
  onRoot s fun s =>
    if s.refEnabled 2 && s.refState 2 ≠ 3 && freqOk freqOff then
      ((s.wrI F.refStatFreqOff freqOff 2).wr F.refStatFreqErr 0 2).setRefState 2 3 delta
    else s

/-- OCXO_LOS (R72): 10 µs without an edge. -/
def execOcxoLos (delta : Int) (s : State) : Res :=
  onRoot s fun s => if s.refEnabled 2 && s.refState 2 ≠ 0 then s.setRefState 2 1 delta else s

/-- FREQUENCY_ERROR (R72): a QUALIFIED input outside ±9.2 ppm becomes UNQUALIFIED at once. -/
def execFrequencyError (i : Nat) (freqOff delta : Int) (s : State) : Res :=
  onRoot s fun s =>
    if i < 3 && s.refState i = 3 && !freqOk freqOff then
      ((s.wrI F.refStatFreqOff freqOff i).wr F.refStatFreqErr 1 i).setRefState i 4 delta
    else s

/-- STEP_NOTICE_RECEIVED (R77, R78): the first receipt schedules the ramp, and slews what has passed of it. The
notice carries neither the inputs nor the cause that R78 has each node record: they are free values (log 140). -/
def execStepNoticeReceived (p : Part) (delta : Int) (l0 : Nat) (s : State) : Res :=
  onLive p s fun s =>
    let n := s.node p
    if n.ramp.isSome || l0 + 1536 ≤ n.lfn then s
    else
      let r : Ramp := ⟨delta, l0, 0⟩
      let missed := rampApplied r n.lfn
      let s := (s.modNode p fun n => { n with ramp := some { r with applied := missed }, slew := n.slew + missed }).wr
        (F.timeStatusRefStep p) 1
      let a := s.draw
      let b := a.2.draw
      let c := b.2.draw
      c.2.stepEvent p delta l0 (a.1 % 4) (b.1 % 4) (c.1 % 4)

/-- The echo sets under way at the end of a step's window overlap it and are discarded, on every port whose child end
the node is (R77). -/
def State.discardSets (s : State) (p : Part) : State :=
  ((match p with | .tsu => [0, 1] | .dbx => [128, 129, 130, 131]).filter (s.childEnd p)).foldl (fun s q =>
    s.modPort p q fun t => if t.acc.tried = 0 then t else { t with discard := true }) s

/-- REF_STEP_CLEAR (R78, R79): at L_0 + 1,536 ref_step clears and echo sets are used again; the root then sends
the notice it had deferred. -/
def execRefStepClear (p : Part) (delta : Int) (s : State) : Res :=
  onLive p s fun s =>
    match (s.node p).ramp with
    | none => s
    | some r =>
      if s.lfn p < r.l0 + 1536 then s
      else
        let s := ((s.modNode p fun n => { n with ramp := none }).wr (F.timeStatusRefStep p) 0).discardSets p
        match p, s.d.deferred with
        | .dbx, some (from_, dest, cause) =>
          ((s.modD fun d => { d with deferred := none }).wr F.selStatusStepPending 0).startStep delta from_ dest cause
        | _, _ => s

/-- OCXO_WARM_CHANGE (R80): the stable pin sets or clears provisional, and a change is a warm event. -/
def execOcxoWarmChange (warm : Bool) (s : State) : Res :=
  onRoot s fun s =>
    if s.is F.selStatusOcxoWarm = warm then s
    else (((s.wr F.selStatusOcxoWarm (b2n warm)).wr F.selStatusWarmEvt 1).interrupt .dbx 2).showQl

/-- The follower has grounds to judge that the master has failed (R70): over an X0 that is UP a master that was
time-valid and is so no longer; over a dark X0 the close pages of its downlinks. -/
def State.masterFailed (s : State) : Bool :=
  if s.up .dbx s.xPort then (s.port .dbx s.xPort).pWas && !(s.port .dbx s.xPort).pValid
  else
    let ups := (List.range 128).filter fun k => s.up .dbx k
    let lost := ups.filter fun k =>
      let t := s.port .dbx k
      !(if s.sideB then t.cSet0 else t.cSet1)
    ups.isEmpty || ups.length < 2 * lost.length

/-- MASTER_FAILURE_JUDGED (R70): the follower becomes master on its own selected input, with a step of cause
takeover, or in HOLDOVER with none. -/
def execMasterFailureJudged (delta : Int) (s : State) : Res :=
  onRoot s fun s =>
    if s.is F.selStatusMaster || !s.masterFailed then s
    else
      let held := s.timeState .dbx == 3 || (s.timeState .dbx == 1 && s.dbx.fromHold)
      let s := (s.wr F.selStatusMaster 1).modNode .dbx fun n => { n with fromHold := held }
      let s := s.rootValid
      if s.rd F.selStatusSelState = 1 then s.switchTo (s.rd F.selStatusSelected) 3 3 delta else s.enterHoldover

/-- PPS_IN_EDGE (R82): the edge becomes the input's anchor. -/
def execPpsInEdge (i sub : Nat) (s : State) : Res :=
  onRoot s fun s =>
    if i < 2 then
      let s := s.modD fun d => { d with anchors := fset d.anchors i ⟨s.dbx.lfn, sub % 8192⟩ }
      [0, 1, 2, 3, 4, 5].foldl (fun s k =>
        if s.rd F.outCfgMode k = 2 && s.rd F.outCfgSrc k = i then s.wr F.outCfgAnchorStale 0 k else s) s
    else s

/-- The period of a pulse output (Table 4.6). -/
def State.outPeriod (s : State) (k : Nat) : Nat := s.rd64 F.outArgLoArg F.outArgHiArg k % 2 ^ 40

/-- ANCHOR_STALE (R82): after 2 × P with no input edge, counted from the last edge, or from the set-up of the output
where there has been none. -/
def execAnchorStale (k : Nat) (s : State) : Res :=
  onRoot s fun s =>
    if k < 6 && s.rd F.outCfgMode k = 2 then
      let e := (fget? s.d.anchors (s.rd F.outCfgSrc k)).getD (fgetD s.d.outCfgAt k ⟨0, 0⟩)
      if mtBefore (s.now .dbx) (mtAdd e (2 * s.outPeriod k)) then s else s.wr F.outCfgAnchorStale 1 k
    else s

/-- Seconds of civil time at a SUB, and one 10 ps unit before it (R42). -/
def civilCarries (n : Node) (sub : Nat) : Bool :=
  let v := n.civSec * 2 ^ 64 + n.civFrac
  let at_ := v + n.civInc * sub / 2 ^ 13
  let before := if sub = 0 then v - n.civInc + n.civInc * 8191 / 2 ^ 13 else v + n.civInc * (sub - 1) / 2 ^ 13
  before / 2 ^ 64 < at_ / 2 ^ 64

/-- A count lies less than 2 link frames after the decision that produces an edge there (R82). -/
def tooSoon (decision : Option MTime) (t : MTime) : Bool :=
  match decision with
  | some d => mtBefore t (mtAdd d 16384)
  | none => false

/-- An edge of output k falls at `t` (R82): 0 to 3 FRAME_OUT, 4 and 5 PPS_OUT, 6 REF10M_OUT (R83). -/
def State.edgeDue (s : State) (k : Nat) (t : MTime) : Bool :=
  let u : Int := mtUnits t - s.rdI F.outOffsetOffset k
  if k = 6 then s.is F.ref10mCtrlEn && (t.lfn % 625 * 8192 + t.sub) % 10000 == 0
  else if 6 < k || (4 ≤ k && !s.isRoot) || tooSoon (fget? s.d.outCfgAt k) t then false
  else match s.rd F.outCfgMode k with
    | 1 =>
      if k < 4 then
        let f := s.rd F.outCfgFLog2 k
        let o := s.rd64 F.outArgLoArg F.outArgHiArg k
        3 ≤ f && f ≤ 20 && 0 ≤ u && u % 8192 == 0 && o ≤ u.toNat / 8192 && (u.toNat / 8192 - o) % 2 ^ f == 0
      else s.rd (F.timeStatusCivilState .dbx) ≠ 0 && !tooSoon s.d.civAt t && civilCarries s.dbx t.sub
    | 2 =>
      s.isRoot && 16384 ≤ s.outPeriod k && match fget? s.d.anchors (s.rd F.outCfgSrc k) with
        | none => false
        | some e =>
          let d := u - mtUnits e
          0 ≤ d && d % s.outPeriod k == 0 && !tooSoon (some e) t
    | _ => false

/-- OUTPUT_EDGE (R82, R83): an output rises at its programmed count and stays high for its width of time-clock
periods; the pin's record carries the width. Edges are given while the node is in VALID: R82 places them at machine time
and says nothing of the other states (log 143). -/
def execOutputEdge (k sub : Nat) (s : State) : Res :=
  onLive .dbx s fun s =>
    let t : MTime := ⟨s.dbx.lfn, sub % 8192⟩
    if s.timeValid .dbx && !s.is (F.bootStatusHalted .dbx) && s.edgeDue k t && fget? s.d.outLast k ≠ some t then
      (s.modD fun d => { d with outLast := fset d.outLast k t }).emit .dbx
        (if k = 6 then .pin .ref10m 1 else .pin (.output k) (max 1 (s.rd F.outCfgWidth k)))
    else s

/-- ESMC_TRANSMIT (R74): the information PDU of each second. -/
def execEsmcTransmit (s : State) : Res := onRoot s fun s => s.sendEsmc false

/-- The peer's count now by its latest label: R71 compares the counts of the two members at one moment, and no stamp of
the other end is at hand but the label, so the model carries it on from its receipt, with no hop delay (log 142). -/
def State.peerCount (s : State) : Nat :=
  let t := s.port .dbx s.xPort
  t.pLabel + (s.dbx.lfn - t.pAt)

/-- MASTER_YIELD (R71): of two masters over X0 the one with the lower LFN yields, member B when they are equal:
it leaves VALID and follows, to reload from the other. -/
def State.masterYield (s : State) : State :=
  let peer := s.peerCount
  if s.master && (s.port .dbx s.xPort).pMaster && (s.dbx.lfn < peer || (s.dbx.lfn == peer && s.sideB)) then
    (((s.wr F.selStatusMaster 0).wr (F.timeStatusTimePort .dbx) 2).enterHold .dbx).showQl
  else s

/-- The page's fields, as the far end's close page (R91). -/
def State.takeClosePage (s : State) (p : Part) (port p0 p1 p2 p3 : Nat) : State :=
  (s.modPort p port fun t =>
    { t with cTheta0 := toSigned 32 p0, cTheta1 := toSigned 32 p1, cCable := toSigned 16 p2,
             cSet0 := bit p3 0, cSet1 := bit p3 1, cValid := bit p3 3, pMaster := bit p3 4,
             cAt := some (s.lfn p) }).showChildren p

/-- CLOSE_PAGE_RECEIVED (R55, R59, R71, R91): a parent end takes θ, set_valid and time_valid of its child, and
shows the θ of the port toward it; X0 carries θ_X and the master bit; both ends check the cable records. -/
def execClosePageReceived (p : Part) (port p0 p1 p2 p3 : Nat) (s : State) : Res :=
  onLive p s fun s =>
    match p with
    | .tsu => (s.modPort .tsu port fun t => { t with cCable := toSigned 16 p2, cAt := some s.tsu.lfn }).checkCable .tsu port
    | .dbx =>
      if port < 128 then
        let s := s.takeClosePage .dbx port p0 p1 p2 p3
        (s.wr (F.portOffsetTheta .dbx) (if s.sideB then p1 else p0) port).checkCable .dbx port
      else if port = 130 || (port = 131 && s.is F.x1CfgActive) then
        let s := s.takeClosePage .dbx port p0 p1 p2 p3
        let s := if s.childEnd .dbx port then s else s.wr (F.portOffsetTheta .dbx) p0 port
        (s.checkCable .dbx port).masterYield
      else
        (s.modPort .dbx port fun t => { t with cCable := toSigned 16 p2, cAt := some s.dbx.lfn }).checkCable .dbx port

end Sys2Proof.Machine
end

