-- ==== Sys2Proof/Machine/RegCmd.lean ====
section
/-! DEFINITION. Register writes (chapter 17): the core of a write, which every row that writes a register
shares, the effects of a plain write, and the rows REGISTER_WRITE, SETUP_LOCK_SET, ERRLOG_POP and
PREF_WRITE. -/

namespace Sys2Proof.Machine

/-! ### The core of a register write (R351 to R354) -/

/-- The element and the word of a field that lie at an offset (R362), none where the field has none there. -/
def Fld.at? (f : Fld) (off : Nat) : Option (Nat × Nat) :=
  if off < f.base then none
  else
    let i := (off - f.base) / f.stride
    let r := (off - f.base) % f.stride
    if i < f.count && r % 4 == 0 && r / 4 < f.words then some (i, r / 4) else none

/-- The fields at an offset of a window, each with its element and word; none at an unassigned offset (R352). -/
def fieldsAt (p : Part) (off : Nat) : List (Fld × Nat × Nat) :=
  (fieldsOf p).filterMap fun f => (f.at? off).map fun iw => (f, iw.1, iw.2)

/-- The set-up lock of a part. -/
def State.locked (s : State) (p : Part) : Bool := s.is (F.setupLockLock p)

/-- The write may change the field, by its access code, the lock and the origin (R5, R6, R332, R354, R361). -/
def Acc.takes (a : Acc) (locked rot own : Bool) : Bool :=
  match a with
  | .ro | .rw1c | .wo => false
  | .rw => true
  | .rwl => !locked
  | .own => own
  | .rot => rot
  | .rwlRot => rot && !locked

/-- First part of a write: the fields that it may change take their new values. -/
def State.putField (s : State) (v : Nat) (locked rot own : Bool) (x : Fld × Nat × Nat) : State :=
  if x.1.acc.takes locked rot own then s.wr x.1 (bits v x.1.lo x.1.width) x.2.1 x.2.2 else s

/-- Last part of a write: the RW1C bits written as 1 clear. -/
def State.clearField (s : State) (v : Nat) (x : Fld × Nat × Nat) : State :=
  if x.1.acc = .rw1c then
    let old := s.rd x.1 x.2.1 x.2.2
    s.wr x.1 (old - Nat.land old (bits v x.1.lo x.1.width)) x.2.1 x.2.2
  else s

/-- A field under the lock whose value the write would change (R6). -/
def State.violates (s : State) (v : Nat) (rot : Bool) (x : Fld × Nat × Nat) : Bool :=
  (x.1.acc == .rwl || (x.1.acc == .rwlRot && rot)) && s.rd x.1 x.2.1 x.2.2 != bits v x.1.lo x.1.width

/-- The RW and RWL fields at an offset take a write, and a true attempt to change a locked field is recorded
once (R354). `own`: the write belongs to the row of the register's own fields. -/
def State.regPut (s : State) (p : Part) (off v : Nat) (rot own : Bool) : State :=
  let fs := fieldsAt p off
  let l := s.locked p
  let s1 := if l && fs.any (s.violates v rot) then s.logErr p 0x0001 noPort off else s
  fs.foldl (fun s x => s.putField v l rot own x) s1

/-- The RW1C bits at an offset that a write gives as 1 clear, last of all (R353). -/
def State.regClear (s : State) (p : Part) (off v : Nat) : State :=
  (fieldsAt p off).foldl (fun s x => s.clearField v x) s

/-- A write without an action of its own. -/
def State.regWrite (s : State) (p : Part) (off v : Nat) (rot own : Bool) : State :=
  (s.regPut p off v rot own).regClear p off v

/-! ### Writes that the part refuses -/

/-- Offsets of the TSU window that take only root-of-trust writes and answer any other with CFG_ERR
(R332): the mailbox and its keys, and the boot registers. -/
def rotOffset (off : Nat) : Bool :=
  (0x9000 ≤ off && off < 0xA000) || (0x0408 ≤ off && off ≤ 0x0587)

/-- The ring pair and the offset within its block. -/
def ringOf (p : Part) (off : Nat) : Option (Nat × Nat) :=
  let b := match p with | .tsu => 0x4000 | .dbx => 0x70000
  if b ≤ off && off < b + 0x40 * ringCount p then some ((off - b) / 0x40, (off - b) % 0x40) else none

/-- A ring's set-up write that R196 discards: any set-up register of an enabled pair, or a size outside
6 to 16. -/
def State.ringRefuses (s : State) (p : Part) (r o v : Nat) : Bool :=
  (o ≤ 0x14 && s.is (F.ringCfgEnable p) r)
    || (o == 0x10 && !(6 ≤ bits v 1 5 && bits v 1 5 ≤ 16 && 6 ≤ bits v 6 5 && bits v 6 5 ≤ 16))

/-- The partition slot whose bound plan holds the conductor's register at an offset (Table 7.10). -/
def State.condHeld (s : State) (off : Nat) : Bool :=
  if 0x51000 ≤ off && off < 0x53000 then s.slotBound ((off - 0x51000) / 0x20)
  else if 0x53000 ≤ off && off < 0x57000 then
    let g := (off - 0x53000) / 0x10
    s.is F.condGridValid g && s.slotBound (s.rd F.condGridSlot g)
  else false

/-! ### Effects of a plain write on the part -/

/-- The distributor port whose window holds an offset, and the offset within it. -/
def portOf (off : Nat) : Option (Nat × Nat) :=
  if 0x10000 ≤ off && off < 0x10000 + 0x400 * 132 then some ((off - 0x10000) / 0x400, (off - 0x10000) % 0x400)
  else none

/-- A port's registers were written: a new cable record is checked against the far end's at once, and each check that
fails is logged, as each close page does; R55 times neither, the model's choice (log 144). The scores follow (R271). -/
def State.afterPort (s : State) (p : Part) (port : Nat) (asym : Bool) : State :=
  if asym && ((s.port p port).cAt).isSome then s.checkCable p port else s.score p (some port)

/-- DBX_COND_LOAD.words_lf: the words per link frame that the valid slot records share out (Table 7.10). -/
def State.showWords (s : State) : State :=
  s.wr F.condLoadWordsLf (satN 12 (sumNat (((List.range 256).filter fun k => s.is F.condPartValid k).map
    fun k => s.rd F.condShareRateWordsLf k)))

/-- The set-up of a pulse output was written (R82): an output of mode 0 or 3, and one that its distributor cannot place,
is driven low, and anchor_stale lasts only while mode 2 is set. -/
def State.afterOutput (s : State) (k : Nat) : State :=
  let mode := s.rd F.outCfgMode k
  let s := if mode = 2 then (if s.isRoot then s else s.wr F.outCfgAnchorStale 1 k) else s.wr F.outCfgAnchorStale 0 k
  if mode = 0 || mode = 3 || ((mode = 2 || 4 ≤ k) && !s.isRoot) then s.emit .dbx (.pin (.output k) 0) else s

/-- The set-up of a region was written: a disabled region leaves the tree and loses its count, its measurement and
region_valid; one that stays enabled under another parent keeps them until its next measurement. The spec says nothing of
either: the model's choice (log 136). -/
def State.afterRegion (s : State) (r : Nat) : State :=
  if s.is F.regionCfgEnable r then s
  else (s.wr F.regionStatRegionValid 0 r).modT fun t => { t with regions := fdel t.regions r }

/-- What a plain write of a register sets going in the part. -/
def State.afterWrite (s : State) (p : Part) (off : Nat) : State :=
  match p with
  | .tsu =>
    if off = 0x1080 then s.afterPort .tsu 0 true
    else if off = 0x10A0 then s.afterPort .tsu 1 true
    else if off = 0x9000 then s.mbPresent
    else if 0x5C00 ≤ off && off < 0x6000 then s.showTsuPeri ((off - 0x5C00) / 4)
    else if 0x3100 ≤ off && off < 0x3200 then s.afterRegion ((off - 0x3100) / 4)
    else if off = 0x2000 || off = 0x2200 || off = 0x2400 then s.score .tsu
    else s
  | .dbx =>
    match portOf off with
    | some (i, o) =>
      if o = 0x100 then s.afterPort .dbx i true
      else if o = 0 then s.afterPort .dbx i false
      else if i = 131 && 0x38 ≤ o && o < 0x44 then s.modD fun d => { d with x1Done := false }
      else s
    | none =>
      if off = 0x1100 then
        let (d, s) := s.draw
        (s.applyRefEnables (toSigned 12 d)).applyForceFree
      else if 0x1200 ≤ off && off < 0x12C0 then
        let k := (off - 0x1200) / 0x20
        (s.modD fun d => { d with outCfgAt := fset d.outCfgAt k (s.now .dbx) }).afterOutput k
      else if (off = 0x400 && s.is F.nodeCfgValid) || (0x500 ≤ off && off < 0x540) then s.saveBoot
      else if off = 0x12C0 then (if s.is F.ref10mCtrlEn then s else s.emit .dbx (.pin .ref10m 0))
      else if off = 0x1104 then s.showQl
      else if off = 0x3F000 then (List.range 132).foldl (fun s i => s.scorePort i) (s.score .dbx)
      else if 0x51000 ≤ off && off < 0x53000 then s.showWords
      else if 0x58084 ≤ off && off < 0x58094 then
        let k := (off - 0x58084) / 4
        (s.modD fun d => { d with tblStage := fset d.tblStage k (s.rd F.tblDataData k) }).showTbl
      else if off = 0x58100 then s.showPeri
      else if off = 0x57400 then s.showPlan
      else if 0xA010C ≤ off && off < 0xA0200 then
        let k := (off - 0xA0100) / 0x20
        let o := (off - 0xA0100) % 0x20
        if o = 0x0C || o = 0x10 then s.wr F.elsStatBolSet 1 k else s
      else s

/-- The words of TSU_KEY_DATA take a write; a read of them gives 0 (R5, R332). -/
def State.keepKey (s : State) (off v : Nat) : State :=
  if 0x9014 ≤ off && off < 0x9034 then s.modT fun t => { t with keyData := fset t.keyData ((off - 0x9014) / 4) v } else s

/-! ### The rows -/

/-- REGISTER_WRITE (R351 to R354): a write to a register that has no row of its own; the fields that have one
keep their values, and a write to an unassigned offset is discarded. -/
def execRegisterWrite (p : Part) (off : Nat) (v : Word) (whole rot : Bool) (s : State) : Res :=
  onLive p s fun s =>
    if (fieldsAt p off).isEmpty then s
    else if p == Part.dbx && !whole then s.logErr .dbx 0x0003 noPort off
    else if p == Part.tsu && rotOffset off && !rot then s.emit .tsu (.cfgErr off)
    else match ringOf p off with
      | some (r, o) =>
        if s.ringRefuses p r o v.toNat then s.wr (F.ringStatusCfgRefused p) 1 r
        else s.regWrite p off v.toNat rot false
      | none =>
        if p == Part.dbx && s.condHeld off then s.wr F.condStatusCfgRefused 1
        else
          let s := (s.regWrite p off v.toNat rot false).afterWrite p off
          match p with
          | .tsu => s.keepKey off v.toNat
          | .dbx => s

/-- The regions that the set-up enables. -/
def State.regionOn (s : State) (r : Nat) : Bool := s.is F.regionCfgEnable r

/-- Cause of Table 17.3 for which a TSU refuses the lock; 0 for none. -/
def State.lockCauseTsu (s : State) : Nat :=
  let on := (List.range 64).filter s.regionOn
  let tops := on.filter fun r => s.is F.regionCfgFromTsu r
  let wired := (List.range 256).filter fun t => s.is F.targetCfgWired t
  let carve := s.rd F.carveBaseLoBase + 2 ^ 7 * s.rd F.carveBaseHiBase
  let result := s.rd F.resultBaseLoBase + 2 ^ 10 * s.rd F.resultBaseHiBase
  if on.any fun r => (s.regionDepth 15 r).isNone then 1
  else if tops.any fun r => tops.any fun q => q != r && q % 8 == r % 8 then 2
  else if wired.any fun t => !s.regionOn (s.rd F.targetCfgRegion t) then 3
  else if result / 8 == carve then 4
  else 0

/-- Cause of Table 17.3 for which a part refuses the lock. -/
def State.lockCause (s : State) (p : Part) : Nat :=
  match p with
  | .tsu => s.lockCauseTsu
  | .dbx => if s.is F.nodeCfgValid then 0 else 5

/-- SETUP_LOCK_SET (R357, R358): a write of _SETUP_LOCK; `set` sets the lock or is refused with its cause. -/
def execSetupLockSet (p : Part) (v : Word) (s : State) : Res :=
  onLive p s fun s =>
    let w := v.toNat
    let s1 :=
      if !bit w 1 || s.locked p then s
      else
        let c := s.lockCause p
        if c = 0 then s.wr (F.setupLockLock p) 1
        else ((s.wr (F.setupLockLockRefused p) 1).wr (F.setupLockRefuseCause p) c).logErr p 0x0002 noPort c
    if bit w 2 then s1.wr (F.setupLockLockRefused p) 0 else s1

/-- ERRLOG_POP (R360): the oldest entry leaves the error log. -/
def execErrlogPop (p : Part) (s : State) : Res :=
  onLive p s fun s => (s.modNode p fun n => { n with errlog := n.errlog.drop 1 }).showErrlog p

/-- What a write of pref does in LOCKED (Table 4.3): a switch to the preferred input, or pref_refused. -/
def State.prefAct (s : State) (y : Nat) (delta : Int) : State :=
  let x := s.rd F.selStatusSelected
  if s.rd F.selStatusSelState = 1 && y ≠ x then
    if s.qualified y then s.switchTo y x 1 delta else s.wr F.refCtrlPrefRefused 1
  else s

/-- PREF_WRITE (R75): a write of DBX_REF_CTRL that carries pref. -/
def execPrefWrite (v : Word) (delta : Int) (s : State) : Res :=
  onLive .dbx s fun s =>
    let w := v.toNat
    let s1 := (s.regPut .dbx 0x1100 w false true).prefAct (bits w 0 2) delta
    ((s1.applyRefEnables delta).applyForceFree).regClear .dbx 0x1100 w

end Sys2Proof.Machine
end

