-- ==== Sys2Proof/Machine/Conductor.lean ====
section
/-! DEFINITION. The conductor beside its plan words: emission and metering (R148, R152), inputs and their commit
(R163), lockstep of the two members (R164 to R168), completion contributions (R154, R243) and layout reports (R109,
R157). -/

namespace Sys2Proof.Machine

/-! ### Emission (R123, R152) -/

/-- The group of a channel index (R164). -/
def groupOf (ch : Nat) : Nat := ch / 4096 % 64

/-- The member stays silent for a channel: a shadow whose group is under resync. -/
def State.silentFor (s : State) (ch : Nat) : Bool :=
  s.condRole == 1 && s.d.resync.any fun j => j % 64 == groupOf ch

/-- CROZIER_EMISSION: the croziers of a slot placed up to the next link frame leave for its positions, aborts first, at
most 2 × cz_pos of them in one link frame. -/
def execCrozierEmission (slot : Nat) (s : State) : Res :=
  onLive .dbx s fun s =>
    if s.condRole = 3 || !s.slotServes slot then s
    else
      let lf := s.dbx.lfn + 1
      let sent := match fget? s.d.czSent slot with | some (l, n) => if l = lf then n else 0 | none => 0
      let q := s.czQueue slot
      let now := (q.filter fun x => x.at_ ≤ lf).take (s.czCap slot - sent)
      if now.isEmpty then s
      else
        let part := s.slotPart slot
        let s := s.modD fun d => { d with czq := fset d.czq slot (q.filter fun x => !now.contains x),
                                          czSent := fset d.czSent slot (lf, sent + now.length) }
        now.foldl (fun s x =>
          let s := if x.abort then s
            else s.modD fun d =>
              let n := match fget? d.czMeter x.plan with | some (p, n) => if p = x.at_ / 16 then n else 0 | none => 0
              { d with czMeter := fset d.czMeter x.plan (x.at_ / 16, n + 1) }
          if s.silentFor x.ch then s else s.sendDown part 1 (s.czRoles part x.cz) (.crozier x.cz)) s

/-- METER_PERIOD (R148): at a map period's start the meters begin anew, and what waits for one runs. -/
def execMeterPeriod (s : State) : Res :=
  onLive .dbx s fun s =>
    if s.dbx.lfn % 16 ≠ 0 then s
    else
      let s := s.modD fun d => { d with meters := [] }
      (s.d.chans.filter fun x => x.2.wait == .meter && x.2.r.exec == 2).foldl (fun s x => s.runCh x.1) s

/-! ### Inputs at their commit count (R163) -/

/-- An input applies before another: earlier commit count, then the order of the list, then the channel index, then
the time it was held. -/
def inputBefore (a b : Input) : Bool :=
  let x := a.commitAt.getD 0
  let y := b.commitAt.getD 0
  let i := (inputOrder a.kind, inputIndex a.kind)
  let j := (inputOrder b.kind, inputIndex b.kind)
  x < y || (x == y && (i.1 < j.1 || (i.1 == j.1 && (i.2 < j.2 || (i.2 == j.2 && a.id < b.id)))))

/-- A partition soredium reaches its channel (R226). -/
def State.applySoredium (s : State) (q : Soredium) : State :=
  let ch := hIndex q.handle
  match s.bound q.handle with
  | none => s
  | some c =>
    if c.r.attempt ≠ q.attempt || (lastStep c.r) ≠ q.step then s
    else
      let s := s.modCh ch fun c => { c with sor := some q }
      if c.wait == .digest then s.runCh ch else s

/-- A poll releases the ARMED peristomes of its slot and operation whose bit is 1 (R141). -/
def State.applyPoll (s : State) (slot op : Nat) (bits : List Nat) : State :=
  (s.d.peris.filter fun x => x.2.state == 1 && !x.2.gated && x.2.slot == slot && x.2.op == op
    && bits.contains x.2.tsuIndex).foldl (fun s x => s.releasePeri x.1) s

/-- A layout report of a partition (R157). -/
def State.applyLayout (s : State) (part uid port dir : Nat) (degraded : Bool) : State :=
  let x := (part, uid, port, dir)
  let l := s.d.degraded.filter fun y => y != x
  let s := s.modD fun d => { d with degraded := if degraded then l ++ [x] else l }
  match s.apexSlot part with
  | some k => s.wr F.condPartStatDegraded (b2n (s.partDegraded part)) k
  | none => s

/-- A hang verdict (R255): counted, and acted on while the step is outstanding. -/
def State.applyVerdict (s : State) (handle : Nat) (hang : Bool) : State :=
  let ch := hIndex handle
  match s.bound handle with
  | none => s
  | some c =>
    let s := s.bump (if hang then F.dfltHangCount else F.dfltSlowCount)
    let out := if hang then 4 else 5
    if c.queried && c.r.stepOpen then s.faultMode ch (if hang then abHang else abFault) (some out)
    else if c.aborted then s
    else if s.fltMode c.r.slot = 0 then s.fltLog c out
    else (s.bump F.dfltAbortLateCount).fltLog c 3

/-- A ready or not-ready report (R246, R268, R308): the lists, the restore conditions, and an insertion record of the
role. -/
def State.applyReady (s : State) (part role : Nat) (ready : Bool) : State :=
  let x := (part, role)
  let s := s.modD fun d =>
    if ready then { d with notReady := d.notReady.filter (· != x),
                           readyRoles := d.readyRoles.filter (· != x) ++ [x] }
    else { d with notReady := d.notReady.filter (· != x) ++ [x], readyRoles := d.readyRoles.filter (· != x) }
  if !ready then s.showSec
  else
    let s := (List.range 64).foldl (fun s i =>
      if s.rd F.insertState i = 1 && s.rd F.insertRole i = role && s.slotPart (s.rd F.insertSlot i) = part then
        (s.wr F.insertState 2 i).modD fun d => { d with insertBy := fdel d.insertBy i } else s) s
    s.d.chans.foldl (fun s y =>
      if y.2.r.exec = 6 && y.2.wait == .restore && ivHas y.2.roles role && s.slotPart y.2.r.slot = part then
        (s.modCh y.1 fun c => { c with readySeen := c.readySeen.filter (· != role) ++ [role] }).tryRestore y.1
      else s) s.showSec

/-- A conductor descriptor starts at its commit count, in commit order (R198): at the active member one of its ring pairs'
descriptors in flight, at the shadow the one forwarded (R167), which stands under the number of the twin's ring pair. -/
def State.commitDesc (s : State) (ring seq : Nat) (d : Desc) (tenant kind : Nat) : State :=
  let n := s.dbx.starts
  let s := s.modNode .dbx fun x => { x with starts := x.starts + 1 }
  if s.condRole = 1 then
    s.modRing .dbx (256 + ring) fun t => { t with flight := t.flight ++
      [{ seq := seq, desc := d, committed := true, tenant := tenant, kind := kind, order := n }] }
  else s.modRing .dbx ring fun t => { t with flight := t.flight.map fun f =>
    if f.seq = seq then { f with committed := true, order := n } else f }

/-- An input takes its effect. -/
def State.applyInput (s : State) (k : InputKind) : State :=
  match k with
  | .aggregate c => s.applyAggregate c
  | .result h st v ts => s.applyResult h st v ts
  | .soredium q => s.applySoredium q
  | .poll slot op bits => s.applyPoll slot op bits
  | .descriptor ring seq d tenant kind => s.commitDesc ring seq d tenant kind
  | .layout part uid port dir deg => s.applyLayout part uid port dir deg
  | .divergence => (s.bump F.condDivergeCount).modD fun d => { d with cmpNow := true }
  | .stepEvent => s.d.chans.foldl (fun s x => s.modRec x.1 fun r => { r with stepEvt := true }) s
  | .verdict h hang => s.applyVerdict h hang
  | .ready part role r => s.applyReady part role r

/-- INPUT_COMMIT: an input whose commit count has come, and before which no other stands, is applied. -/
def execInputCommit (id : Nat) (s : State) : Res :=
  onLive .dbx s fun s =>
    match s.d.inputs.find? fun x => x.id == id with
    | none => s
    | some x =>
      match x.commitAt with
      | none => s
      | some t =>
        if s.dbx.lfn < t || s.condRole = 3 || s.d.inputs.any fun y => y.commitAt.isSome && inputBefore y x then s
        else (s.modD fun d => { d with inputs := d.inputs.filter fun y => y.id != id }).applyInput x.kind

/-- Channels that an input concerns (R163). -/
def State.concerned (s : State) (k : InputKind) : List Nat :=
  match k with
  | .poll slot _ _ => s.slotChans slot
  | .layout part .. => (s.d.chans.filter fun x => s.slotPart x.2.r.slot == part).map (·.1)
  | .ready part .. => (s.d.chans.filter fun x => s.slotPart x.2.r.slot == part).map (·.1)
  | .divergence | .stepEvent => s.d.chans.map (·.1)
  | .descriptor _ _ d _ _ => if namesChannel .dbx d then [hIndex d.handle] else []
  | k => [inputIndex k]

/-- The slot of an input, whose commit_lf it takes. -/
def State.inputSlot (s : State) (k : InputKind) : Option Nat :=
  match k with
  | .aggregate c => s.apexSlot c.partition
  | .result h .. => (s.bound h.handle).map (·.r.slot)
  | .soredium q => (s.bound q.handle).map (·.r.slot)
  | .verdict h _ => (s.bound h).map (·.r.slot)
  | .poll slot .. => some slot
  | .descriptor _ _ d _ _ => s.descSlot d
  | .layout part .. => s.apexSlot part
  | .ready part .. => s.apexSlot part
  | .divergence | .stepEvent => none

/-- A group's channels wait for their records from the twin (R164). -/
def State.enterResync (s : State) (j : Nat) : State :=
  let s := (s.modD fun d => { d with resync := d.resync.filter (· % 64 != j) ++ [j] }).wr F.condStatusResyncBusy 1
  if s.condRole = 1 then
    s.d.chans.foldl (fun s x => if groupOf x.1 = j then s.modRec x.1 fun r => { r with exec := 7 } else s) s
  else s

/-- COMMIT_NOTICE_RECEIVED: a pair message about an input. The shadow schedules the input at the count named, or, when that
count has passed, puts the channels concerned into resync; a forwarded descriptor it holds from then on, and for another input
that it does not hold yet the notice waits. An active member that the shadow sends an input commits it on receipt (R163,
log 54). -/
def execCommitNoticeReceived (k : InputKind) (commitLfn : Nat) (s : State) : Res :=
  onLive .dbx s fun s =>
    if s.condRole = 0 then
      if s.d.inputs.any fun x => x.kind == k then s else s.holdInput (s.inputSlot k) k
    else if s.condRole ≠ 1 then s
    else
      let late := commitLfn < s.dbx.lfn
      match s.d.inputs.find? fun x => x.kind == k && x.commitAt.isNone with
      | some x =>
        if late then
          ((s.concerned k).map groupOf).eraseDups.foldl State.enterResync
            (s.modD fun d => { d with inputs := d.inputs.filter fun y => y.id != x.id })
        else s.modD fun d =>
          { d with inputs := d.inputs.map fun y => if y.id = x.id then { y with commitAt := some commitLfn } else y }
      | none =>
        if late then ((s.concerned k).map groupOf).eraseDups.foldl State.enterResync s
        else match k with
          | .descriptor .. => s.modD fun d =>
            { d with inputs := d.inputs ++ [⟨d.nextId, k, s.dbx.lfn, some commitLfn, s.inputSlot k⟩], nextId := d.nextId + 1 }
          | _ => s.modD fun d => { d with notices := d.notices ++ [(k, commitLfn)] }

/-- COMMIT_NOTICE_TIMEOUT: an input without a notice after 2 × commit_lf is sent to the active member. -/
def execCommitNoticeTimeout (id : Nat) (s : State) : Res :=
  onLive .dbx s fun s =>
    match s.d.inputs.find? fun x => x.id == id with
    | none => s
    | some x =>
      if s.condRole = 1 && x.commitAt.isNone && x.heldAt + 2 * s.commitLf x.slot ≤ s.dbx.lfn then
        s.emit .dbx (.input 2 x.kind none)
      else s

/-! ### Records as words (R162, R164, R168) -/

/-- A number as its low and high word. -/
def lohi (n : Nat) : List Nat := [n % 2 ^ 32, n / 2 ^ 32 % 2 ^ 32]

/-- The 64 words of a record, Table 7.6. -/
def recWords (r : ChRec) : List Nat :=
  [r.handle, r.plan % 2 ^ 12 + 2 ^ 12 * (r.exec % 16) + 2 ^ 16 * (r.variant % 256) + 2 ^ 24 * (r.baseVariant % 256),
   r.pc % 2 ^ 20 + 2 ^ 20 * b2n r.epochStrict + 2 ^ 21 * b2n r.stepEvt + 2 ^ 22 * b2n r.diverged
     + 2 ^ 23 * b2n r.digestBad + 2 ^ 24 * b2n r.periTmo + 2 ^ 25 * b2n r.stepOpen,
   r.stepPc % 2 ^ 20 + 2 ^ 20 * (r.slot % 256)]
  ++ lohi (r.step % 2 ^ 48 + 2 ^ 48 * (r.ring % 256) + 2 ^ 56 * (r.replays % 4) + 2 ^ 58 * (r.attempt % 16))
  ++ lohi r.tick ++ lohi r.emit
  ++ [r.expected % 2 ^ 22, r.aggCount % 2 ^ 22, r.aggStatus % 2 ^ 16 + 2 ^ 16 * (r.grid % 2 ^ 10), r.aggSlack % 2 ^ 32,
      r.counters.getD 0 0 + 2 ^ 16 * r.counters.getD 1 0, r.counters.getD 2 0 + 2 ^ 16 * r.counters.getD 3 0]
  ++ (List.range 8).flatMap (fun i => lohi (r.g.getD i 0))
  ++ [r.token, r.tokensOut, r.maxTokens, r.stop.getD 0 0, r.stop.getD 1 0, r.temperature, r.topP,
      r.topK % 2 ^ 16 + 2 ^ 16 * (r.draftN % 256) + 2 ^ 24 * (r.accepted % 256)]
  ++ lohi r.seed ++ (List.range 8).map (r.draft.getD · 0) ++ (List.range 8).map (r.target.getD · 0)
  ++ [r.epoch, r.pending, r.periPos % 2 ^ 12 + 2 ^ 16 * (r.holdLeft % 2 ^ 16), r.postSeq, 2 ^ 31 * b2n r.pendingOk, 0]

/-- The polynomial digest of a record mixed with the channel index: its four 64-byte blocks as output blocks of the
index as role (R164, R222; log 26). -/
def recDigest (ch : Nat) (r : ChRec) : Nat :=
  let w := recWords r
  (List.range 4).foldl (fun a b => Nat.xor a (digestBlock ch 0 (64 * b)
    ((List.range 8).map fun i => w.getD (16 * b + 2 * i) 0 + 2 ^ 32 * w.getD (16 * b + 2 * i + 1) 0))) 0

/-- The digest of a group. -/
def State.groupDigest (s : State) (j : Nat) : Nat :=
  s.d.chans.foldl (fun a x =>
    if groupOf x.1 = j && x.2.state = 2 then Nat.xor a (recDigest x.1 x.2.r) else a) 0

/-- CH_SEL_SNAPSHOT (R168): a write of DBX_COND_CH_SEL shows the record of a channel; the seed reads 0. -/
def execChSelSnapshot (v : Word) (s : State) : Res :=
  onLive .dbx s fun s =>
    let s := s.regWrite .dbx 0x57000 v.toNat false true
    let w := match s.chan (s.rd F.condChSelIndex) with
      | some c => recWords c.r
      | none => []
    (List.range 64).foldl (fun s k =>
      s.wr F.condChDataData (if k = 40 || k = 41 then 0 else w.getD k 0) k) s

/-! ### The two members (R164 to R168) -/

/-- X0, or X1 in its place, is UP. -/
def State.pairUp (s : State) : Bool := s.up .dbx s.xPort

/-- A compare is due: at every LFN ≡ 0 (mod 64), or at once after a divergence record (R164, R165). -/
def State.compareDue (s : State) : Bool := s.dbx.lfn % 64 == 0 || s.d.cmpNow

/-- The member's role changes. -/
def State.setRole (s : State) (r : Nat) : State := s.wr F.condStatusRole r

/-- A group differs (R164): it is counted and logged and goes into resync; the active member replays the channels
whose records differ and that have an outstanding step. -/
def State.groupDiffers (s : State) (j : Nat) (chans : List Nat) : State :=
  let s := (((s.bump F.condMismatchCount).penalise .dbx 19).wr F.condStatusMismatchEvt 1).wr F.condMismatchLogGroup j
  let again := if s.condRole = 1 then [] else chans.filter fun ch =>
    groupOf ch == j && match s.chan ch with | some c => c.state == 2 && c.r.stepOpen | none => false
  let s := s.wr F.condMismatchLogReplayed again.length
  let s := s.enterResync j
  again.foldl (fun s ch => (s.modRec ch fun r => { r with diverged := true }).doReplay ch) s

/-- A member that becomes active fixes the commit counts of the inputs that it holds without one (R163). -/
def State.commitHeld (s : State) : State :=
  s.modD fun d => { d with notices := [], inputs := d.inputs.map fun x =>
    if x.commitAt.isNone then { x with commitAt := some (s.dbx.lfn + s.commitLf x.slot) } else x }

/-- The first post sequence of a channel record that the member has not reported (R164, R167): that of its first completion
still queued, or the next one. -/
def State.reportedOf (s : State) (r : ChRec) : Nat :=
  ((s.d.posts.find? fun y => y.2.q0 % 2 ^ 32 == r.handle).map fun y => y.2.q0 / 2 ^ 32).getD r.postSeq

/-- That of each bound channel, and of each destroyed one whose event is owed. -/
def State.reported (s : State) : List (Nat × Nat) :=
  (s.d.chans.filter fun x => x.2.state == 2).map (fun x => (x.1, s.reportedOf x.2.r))
    ++ s.d.destroyed.map fun x => (x.1, s.reportedOf x.2.r)

/-- Completions that a shadow still queues once the active member has reported others: of each channel those from the first
post sequence not reported; a channel that the member reports nothing of has ended there (R167, R216). -/
def unreported (l : List (Nat × Completion)) (reported : List (Nat × Nat)) : List (Nat × Completion) :=
  l.filter fun x => match fget? reported (hIndex (x.2.q0 % 2 ^ 32)) with
    | some n => n ≤ x.2.q0 / 2 ^ 32
    | none => false

/-- GROUP_DIGEST_COMPARE (R164, R165, R168): the twin's 64 digests have come at a compare count; `differing` lists, by
group, the channels whose records differ. The active member's message carries what it has reported and whether it hands
its activity over, by which the shadow becomes active at this count. -/
def execGroupDigestCompare (twin : List Nat) (differing : List (Nat × List Nat)) (msg : TwinMsg) (s : State) : Res :=
  onLive .dbx s fun s =>
    if s.condRole = 3 || !s.pairUp || !s.compareDue then s
    else
      let own := (List.range 64).map s.groupDigest
      let s := s.emit .dbx (.compare own (if s.condRole = 1 then [] else s.reported) s.d.handing)
      let busy := s.d.resync.filter (· < 64)
      let bad := (List.range 64).filter fun j => own.getD j 0 != twin.getD j 0 && !busy.contains j
      let s := s.modD fun d => { d with resync := busy, lastCmp := s.dbx.lfn, cmpNow := false,
                                        posts := if s.condRole = 1 then
                                          unreported d.posts msg.posts else d.posts }
      let s := (s.wr F.condStatusInStep (b2n (bad.isEmpty && busy.isEmpty))).showSec
      let s := bad.foldl (fun s j => s.groupDiffers j ((differing.filter fun x => x.1 == j).flatMap (·.2))) s
      let s := if s.condRole = 2 then s.setRole 0 else s
      if s.d.handing && s.condRole = 0 then (s.setRole 1).modD fun d => { d with handing := false }
      else if msg.handback && s.condRole = 1 then
        (s.d.posts.map (·.1)).eraseDups.foldl State.flushPosts (s.setRole 0).commitHeld
      else s

/-- A channel taken over from the twin, as the twin holds it: its record, and what a channel that waits waits for; it is
ready from now on. -/
def State.takeRecord (s : State) (x : Nat × CondChan) : State :=
  (s.modD fun d => { d with chans := fset d.chans x.1 { x.2 with readyAt := s.dbx.lfn }
                            badRecs := d.badRecs.filter (· != x.1), foundRecs := d.foundRecs.filter (· != x.1) }).showBound x.2.r.slot

/-- RESYNC_COPY_COMPLETE (R164): the records of a group have been copied; the shadow emits for it again from the next
compare count on. A record whose store parity fails takes its copy from the twin at either member. -/
def execResyncCopyComplete (group : Nat) (records : List (Nat × CondChan)) (s : State) : Res :=
  onLive .dbx s fun s =>
    let mine := records.filter fun x => groupOf x.1 == group
    if !s.d.resync.contains group then
      (mine.filter fun x => s.d.badRecs.contains x.1).foldl State.takeRecord s
    else
      let sh := s.condRole = 1
      let rest := s.d.resync.filter (· != group)
      let s := s.modD fun d => { d with resync := if sh then rest ++ [group + 64] else rest }
      let s := (mine.filter fun x => sh || s.d.badRecs.contains x.1).foldl State.takeRecord s
      s.wr F.condStatusResyncBusy (b2n (s.d.resync.any (· < 64)))

/-- REPLAY_RESTART (R161): at the replay abort's fire count the channel runs again from step_pc. -/
def execReplayRestart (ch : Nat) (s : State) : Res :=
  onLive .dbx s fun s =>
    match s.chan ch with
    | none => s
    | some c =>
      if c.r.exec = 6 && c.wait == .none && c.replayAt ≤ s.dbx.lfn && s.condRole ≠ 3 then s.runCh ch else s

/-- More than half of the downlinks in UP report set_valid clear for the port toward the twin (R166). -/
def State.twinLost (s : State) : Bool :=
  let up := (List.range 128).filter (s.up .dbx)
  let toB := !s.sideB
  let clear := up.filter fun i => let t := s.port .dbx i; t.cAt.isSome && !(if toB then t.cSet1 else t.cSet0)
  up.length < 2 * clear.length

/-- The member becomes active without a twin (R166, R167): inputs without a commit count get one, and the posts that
the twin had not reported are written. -/
def State.takeOver (s : State) : State :=
  let s := (((s.setRole 2).wr F.condStatusTakeoverEvt 1).bump F.condTakeoverCount).commitHeld
  (s.d.posts.map (·.1)).eraseDups.foldl State.flushPosts s

/-- CONDUCTOR_TAKEOVER (R166): at a compare count the shadow becomes active when it judges the active member lost; one
whose X0 is not UP without that judgement becomes passive. -/
def execConductorTakeover (s : State) : Res :=
  onLive .dbx s fun s =>
    if s.condRole ≠ 1 || s.dbx.lfn % 64 ≠ 0 then s
    else if s.pairUp then (if s.d.lastCmp + 128 ≤ s.dbx.lfn then s.takeOver else s)
    else if s.twinLost then s.takeOver
    else s.setRole 3

/-- HANDBACK (R168): a write of DBX_COND_CTRL with handback set is accepted for the next compare, which tells the twin, or
refused. -/
def execHandback (v : Word) (s : State) : Res :=
  onLive .dbx s fun s =>
    let s := s.regWrite .dbx 0x50000 v.toNat false true
    if !bit v.toNat 0 then s
    else if s.condRole = 0 && s.is F.condStatusInStep && s.pairUp && s.d.resync.isEmpty then
      s.modD fun d => { d with handing := true }
    else s.wr F.condStatusHandbackRefused 1

/-! ### Completion contributions (R154, R243, R264) -/

/-- Two contributions of one key. -/
def sameCompl (a b : CompContrib) : Bool :=
  a.partition == b.partition && a.handle == b.handle && a.step == b.step && a.tickLo == b.tickLo

/-- The sum of counts, the OR of status and the minimum slack. -/
def joinCompl (a b : CompContrib) : CompContrib :=
  { a with count := a.count + b.count, status := orSt a.status b.status, slack := min a.slack b.slack }

/-- A contribution joins one of its key that still waits in a queue, or is added to it; one with a fault status stands
by itself and ahead of the others (R243, log 27). -/
def queueCompl (part share : Nat) (c : CompContrib) : List QItem → List QItem
  | [] => [⟨4, part, share, .compl c, 0, 0⟩]
  | x :: l =>
    match x.content with
    | .compl y =>
      if hasSt c.status faultMask then
        if hasSt y.status faultMask then x :: queueCompl part share c l else ⟨4, part, share, .compl c, 0, 0⟩ :: x :: l
      else if sameCompl y c && !hasSt y.status faultMask then { x with content := .compl (joinCompl y c) } :: l
      else x :: queueCompl part share c l
    | _ => x :: queueCompl part share c l

/-- A completion partial goes up on both uplinks. -/
def State.forwardCompl (s : State) (part : Nat) (c : CompContrib) : State :=
  (uplinks .dbx).foldl (fun s port =>
    if s.up .dbx port && s.peerTakes .dbx port then
      let k := s.shareFor .dbx port 4 part
      s.modPort .dbx port fun t => { t with queue := queueCompl part k c t.queue }
    else s.bump (F.portDropCount .dbx) port) s

/-- COMPLETION_CONTRIBUTION: the first copy from a child position that holds roles of the partition; at the apex it is
an input, elsewhere it combines on the way up. -/
def execCompletionContribution (pos : Nat) (second : Bool) (c : CompContrib) (s : State) : Res :=
  onLive .dbx s fun s =>
    if (s.rolesAt c.partition pos).isEmpty then s.bump F.condLateDiscCount
    else if second then s
    else match s.apexSlot c.partition with
      | some k => s.holdInput (some k) (.aggregate c)
      | none => s.forwardCompl c.partition c

/-! ### Layout reports (R109, R157, R256) -/

/-- LAYOUT_REPORT: at the apex of the partition an input; below it, it climbs. -/
def execLayoutReport (partition uid port dir : Nat) (degraded : Bool) (s : State) : Res :=
  onLive .dbx s fun s =>
    match s.apexSlot partition with
    | some k => s.holdInput (some k) (.layout partition uid port dir degraded)
    | none => s.mgmtUp .dbx 7 partition [port, dir, b2n degraded, uid]

end Sys2Proof.Machine
end

