-- ==== Sys2Proof/Machine/Launch.lean ====
section
/-! DEFINITION. Croziers at a TSU (chapter 6): admission, staging, fires, the non-launch types, aborts, frame ticks
and the TSU's peristomes; one meaning for each command. -/

namespace Sys2Proof.Machine

/-! ### FRAME_TICK (R32, R35, R37, R138, R239) -/



/-- While CMP_RST_ACK is high, every step whose tick falls now sends RESET (R239). -/
def State.resetSteps (s : State) : State :=
  if s.t.cmpAck then
    (s.t.steps.filter fun o => !o.sent && o.tick == s.tsu.lfn).foldl (fun s o => s.sendContribution o stReset) s
  else s

/-- The compute-domain resets of the last esc_window seconds are counted in esc_seen (R259). -/
def State.ageResets (s : State) : State :=
  let now := s.tsu.lfn
  let l := s.t.resets.filter fun c => now < c + lfOfS (s.rd F.fltCfgEscWindow)
  (s.modT fun t => { t with resets := l }).wr F.fltStatusEscSeen (satN 4 l.length)

/-- Records of steps that nothing can concern any more leave: complete, their contribution sent, and 64 frames old;
so do resets of the compute domain older than esc_window, and fires that no abort can name any more (R29). -/
def State.purgeSteps (s : State) : State :=
  let now := s.tsu.lfn
  State.ageResets (s.modT fun t => { t with
    steps := t.steps.filter fun o =>
      !(o.sent && (o.missing.isEmpty || o.aborted) && o.tick + 64 * s.frameLen < now)
    fires := t.fires.filter fun x => now < x.2.lfn + 2 ^ 31
    classes := t.classes.filter fun c => now ≤ c.tick + 64 * s.frameLen })

/-- A frequency entry whose fire count is this tick sets the cap (R138). -/
def State.takeCap (s : State) (e : Nat) : State :=
  match s.dueEntry e 2 with
  | none => s
  | some a => if !s.timeValid .tsu || !s.isTick s.tsu.lfn then s.entryVoid e
    else (s.wr F.lvlCapCap (a.cz.payload % 16)).entryFired e

/-- FRAME_TICK (R32): the frame before closes, LVL_REQ is sampled, and the commit of this tick is made with the cap that a
frequency crozier sets from it, as one commit (R138). -/
def execFrameTick (lvlReq : List Nat) (s : State) : Res :=
  onLive .tsu s fun s =>
    if s.isTick s.tsu.lfn && s.timeState .tsu ≠ 0 then
      let s := s.t.steps.foldl (fun s o => s.closeStep o) s
      let s := s.resetSteps.purgeSteps
      let s := (s.t.arm.map (·.1)).foldl (fun s e => s.takeCap e) s
      (s.sampleLvl lvlReq).commitLvl
    else s

/-! ### CROZIER_ADMISSION (R119 to R130) -/

/-- The margin between a first copy's release and its fire count (R126); that of an abort, which acts whatever its margin,
does not count (log 164). -/
def State.noteMargin (s : State) (m : Int) : State :=
  let v := min (2 ^ 32 - 1) m.toNat
  if v < s.rd F.armMarginMinMargin then s.wr F.armMarginMinMargin v else s

/-- A second copy of an armed entry's key (R124, R125, R129). -/
def State.secondCopy (s : State) (e : Nat) (a : ArmEntry) (c : Crozier) : State :=
  let s := (s.bump F.czDupCount).modEntry e fun a =>
    { a with twoSeen := true, state := if a.state = 1 && (czDiffers a.cz c).isNone then 2 else a.state }
  s.divergeCz a.cz c a.port

/-- A copy of a key that is known: in the table, among the aborts, retired or refused. None: a first copy. -/
def State.knownCopy (s : State) (c : Crozier) : Option State :=
  match s.t.arm.find? fun x => czSameKey x.2.cz c with
  | some (e, a) => some (s.secondCopy e a c)
  | none =>
    match s.t.aborts.find? fun x => czSameKey x.cz c with
    | some x => some ((s.bump F.czDupCount).divergeCz x.cz c x.port)
    | none =>
      if s.t.retired.any fun x => czSameKey x.1 c then some (s.bump F.czLateCopyCount)
      else if s.t.refused.any fun x => czSameKey x c then some (s.bump F.czDupCount)
      else none

/-- An entry is armed in the lowest FREE place, and a launch opens its step (R129, R130). -/
def State.arm (s : State) (port : Nat) (c : Crozier) (fire : MTime) (e : Nat) : State :=
  let ts := if [1, 5, 6].contains c.ctype then s.czTargets c else []
  let a : ArmEntry := { cz := c, fire := fire, state := 1, targets := ts, port := port, since := s.tsu.lfn }
  let s := ((s.modT fun t => { t with arm := fset t.arm e a }).bump F.czArmedCount).showArm
  if c.ctype = 1 then
    let o := s.openStep c fire.lfn
    s.setStep { o with targets := o.targets ++ ts.map fun t => 256 * e + t }
  else s

/-- The checks of R130 after the form, the target and the range: in their order. -/
def State.admitLater (s : State) (port : Nat) (c : Crozier) (fire : MTime) (margin : Int) : State :=
  let idx := hIndex c.handle
  if margin < s.guardUnits then s.refuseCz c fire.lfn 0x1
  else if c.handle ≠ 0 && s.gen .tsu idx ≠ hGen c.handle then s.bump F.czStaleCount
  else if c.handle ≠ 0 && !((s.chanOf c.handle).any fun ch => ch.state == 2) then s.refuseCz c fire.lfn 0x3
  else
  let s := if c.handle = 0 then s else s.cacheLook idx
  if c.ctype = 1 && s.is F.thealthRolePending then s.refuseCz c fire.lfn 0x3
  else if c.ctype = 2 && !(fire.sub == 0 && s.isTick fire.lfn) then s.refuseCz c fire.lfn 0xB
  else match s.freeEntry? with
    | none => s.refuseCz c fire.lfn 0x2
    | some e => s.arm port c fire e

/-- A first copy is admitted, refused or dropped (R130). -/
def State.admitCz (s : State) (port : Nat) (c : Crozier) (now : MTime) : State :=
  if czMalformed c then s.refuseCz c 0 0xA
  else
    let fire : MTime := ⟨extend32 c.fireLfn now.lfn, c.fireSub % 8192⟩
    let margin := mtDiff fire now
    if !s.targetsMe c then s.refuseCz c fire.lfn 0xC
    else if !s.timeValid .tsu then s.refuseCz c fire.lfn 0x4
    else if s.maxLeadUnits < margin then s.refuseCz c fire.lfn 0x9
    else if c.ctype = 3 then
      if c.handle ≠ 0 && s.gen .tsu (hIndex c.handle) ≠ hGen c.handle then s.bump F.czStaleCount
      else
        let act := if mtBefore fire now then now else fire
        s.modT fun t => { t with aborts := t.aborts ++ [⟨c, act, port, false⟩] }
    else (s.noteMargin margin).admitLater port c fire margin

/-- CROZIER_ADMISSION (R130): a released copy at the port, at a SUB of this link frame. An idle half is nothing. -/
def execCrozierAdmission (port : Nat) (cz : Crozier) (sub : Nat) (s : State) : Res :=
  onLive .tsu s fun s =>
    if czIdle cz then s
    else match s.knownCopy cz with
      | some s => s
      | none => s.admitCz (port % 2) cz ⟨s.tsu.lfn, sub % 8192⟩

/-! ### Staging, fires and ends of entries -/

/-- The entry is armed, stages words, and its time has come. -/
def State.dueStage (s : State) (e : Nat) : Option ArmEntry :=
  (fget? s.t.arm e).filter fun a =>
    [1, 5, 6].contains a.cz.ctype && a.state < 3 && !mtBefore (s.now .tsu) (mtSub a.fire 100000)

/-- LAUNCH_STAGE (R133): one microsecond before its fire count an armed launch, token or time-event entry hands
its words to the regions; a launch that finds a region's buffer of 32 words full is missed (R132), and another type waits
for room until its fire count (log 153). -/
def execLaunchStage (entry : Nat) (fullRegions : List Nat) (s : State) : Res :=
  onLive .tsu s fun s =>
    match s.dueStage entry with
    | none => s
    | some a =>
      let full := !s.stageFits a || a.targets.any fun t => fullRegions.contains (s.regionOf t)
      if !full then s.stageWords entry a
      else if a.cz.ctype = 1 then (s.entryVoid entry).missLaunch a.cz a.fire.lfn 0x6
      else s

/-- The launches of an entry run from its fire count in the regions that fire it; the fire is kept for aborts (R136). -/
def State.noteFires (s : State) (entry : Nat) (a : ArmEntry) : State :=
  let live := s.firing a
  let s := if live.isEmpty then s else s.modT fun t => { t with fires := (a.cz.handle, a.fire) :: t.fires }
  match s.stepOf a.cz.handle a.cz.step with
  | some o => s.setStep { o with fires := o.fires ++ live.map fun t => (256 * entry + t, a.fire) }
  | none => s

/-- An entry whose fire edge is here: the count runs to the edge, words not yet staged are staged where there is room, and
the words fire (R133, R134). -/
def State.fireEntry (s : State) (entry : Nat) (a : ArmEntry) : State :=
  let s := s.modNode .tsu fun n => n.runTo (fireEdge a.fire).sub
  let s := if a.state < 3 then s.stageWords entry a else s
  s.fireWords entry ((fget? s.t.arm entry).getD a)

/-- LAUNCH_FIRE (R131 to R134, R239): a launch fires in every valid region of its targets, at the region's own count and at no
other time (R41). It is cancelled by an abort that acts at or before its fire count; it is missed where its fire count
comes, or has been passed by a jump of the count (log 155), while the TSU is not in VALID, where its words find no room, and
where a region lacks region_valid. -/
def execLaunchFire (entry : Nat) (s : State) : Res :=
  onLive .tsu s fun s =>
    match s.liveEntry entry 1 with
    | none => s
    | some a =>
      let edge := fireEdge a.fire
      if s.tsu.lfn < edge.lfn then s
      else if s.abortCovers a then s.cancelEntry entry
      else if s.t.cmpAck then s.entryVoid entry
      else if !s.timeValid .tsu || edge.lfn < s.tsu.lfn then (s.entryVoid entry).missLaunch a.cz a.fire.lfn 0x4
      else if a.state < 3 && !s.stageFits a then (s.entryVoid entry).missLaunch a.cz a.fire.lfn 0x6
      else
        let bad := a.targets.any fun t => !s.regionValid (s.regionOf t)
        let s := ((s.fireEntry entry a).noteFires entry a).entryFired entry
        if bad then s.missLaunch a.cz a.fire.lfn 0x5 else s

/-- ARM_ENTRY_FREE (R129): a FIRED launch ends at the tick that ends its frame, another type 16 link frames after
its fire count. -/
def execArmEntryFree (entry : Nat) (s : State) : Res :=
  onLive .tsu s fun s =>
    match fget? s.t.arm entry with
    | none => s
    | some a =>
      let end_ : MTime := if a.cz.ctype = 1 then ⟨s.tickOf a.fire.lfn + s.frameLen, 0⟩ else ⟨a.fire.lfn + 16, a.fire.sub⟩
      if a.state = 4 && !mtBefore (s.now .tsu) end_ then s.endEntry entry else s

/-- RETIRED_KEY_EXPIRY (R129): keys leave the retired table after 512 link frames, and aborts with them. -/
def execRetiredKeyExpiry (s : State) : Res :=
  onLive .tsu s fun s =>
    s.modT fun t => { t with retired := t.retired.filter fun x => s.tsu.lfn < x.2 + 512,
                             aborts := t.aborts.filter fun x => !(x.done && x.act.lfn + 512 ≤ s.tsu.lfn) }

/-! ### Non-launch types (R137, R138) -/

/-- The marker or token words of an entry fire at its edge; with no room for them, and at any other time, none does. -/
def State.fireOther (s : State) (entry : Nat) (a : ArmEntry) : State :=
  if s.t.cmpAck || (fireEdge a.fire).lfn < s.tsu.lfn || a.state < 3 && !s.stageFits a then s.entryVoid entry
  else (s.fireEntry entry a).entryFired entry

/-- TOKEN_APPLY (R137): the payload becomes the channel's token record, and the token words fire. -/
def execTokenApply (entry : Nat) (s : State) : Res :=
  onLive .tsu s fun s =>
    match s.liveEntry entry 5 with
    | none => s
    | some a =>
      if s.tsu.lfn < (fireEdge a.fire).lfn then s
      else if s.abortCovers a then s.cancelEntry entry
      else if !s.timeValid .tsu then s.entryVoid entry
      else (s.modChan a.cz.handle fun c => { c with token := a.cz.payload }).fireOther entry a

/-- A channel's epoch becomes `e` from a step on (R137). -/
def TsuChan.setEpoch (c : TsuChan) (step e : Nat) : TsuChan :=
  { c with epoch := e, epochs := (step, e) :: c.epochs.filter fun x => x.1 < step }

/-- EPOCH_APPLY (R137): from the crozier's step on, the epoch of its channel, or of every channel in its target set, becomes
the payload. -/
def execEpochApply (entry : Nat) (s : State) : Res :=
  onLive .tsu s fun s =>
    match s.dueEntry entry 4 with
    | none => s
    | some a =>
      if s.abortCovers a then s.cancelEntry entry
      else if !s.timeValid .tsu then s.entryVoid entry
      else
        let l := s.abortChannels a.cz
        (l.foldl (fun s x => s.modT fun t =>
          { t with chans := fset t.chans x.1 (x.2.setEpoch a.cz.step a.cz.payload) }) s).entryFired entry

/-- TIME_EVENT_FIRE (R137): the marker words fire. -/
def execTimeEventFire (entry : Nat) (s : State) : Res :=
  onLive .tsu s fun s =>
    match s.liveEntry entry 6 with
    | none => s
    | some a =>
      if s.tsu.lfn < (fireEdge a.fire).lfn then s
      else if s.abortCovers a then s.cancelEntry entry
      else if !s.timeValid .tsu then s.entryVoid entry
      else s.fireOther entry a

/-- FREQUENCY_CROZIER_FIRE (R138): the cap takes its new value and acts with the local commit of the same tick. -/
def execFrequencyCrozierFire (entry : Nat) (lvlReq : List Nat) (s : State) : Res :=
  onLive .tsu s fun s =>
    match s.dueEntry entry 2 with
    | none => s
    | some _ =>
      let s1 := s.takeCap entry
      if !s.timeValid .tsu || !s.isTick s.tsu.lfn then s1 else (s1.sampleLvl lvlReq).commitLvl

/-! ### Aborts (R131, R136, R217, R250) -/

/-- Launches of a channel fired at or after a count (R136). -/
def State.firedAfter (s : State) (handle : Nat) (t : MTime) : Nat :=
  (s.t.fires.filter fun x => x.1 == handle && !mtBefore x.2 t).length

/-- An abort closes a channel's steps from a step on (R136): the open one sends its contribution with ABORTED where it has
not left, later ones are discarded; what stays of them raises no tick overrun. -/
def State.abortSteps (s : State) (h from_ : Nat) : State :=
  let mine := fun (o : OpenStep) => o.handle == h && from_ ≤ o.step
  let s := (s.t.steps.filter mine).foldl (fun s o =>
    if !o.sent && o.tick ≤ s.tsu.lfn then s.sendContribution o stAborted
    else if !o.sent then s.discardDigest o else s) s
  s.modT fun t => { t with
    steps := (t.steps.filter fun o => !(mine o && !o.sent)).map fun o => if mine o then { o with aborted := true } else o }

/-- A channel is torn down at the TSU (R217): its entries are cancelled, its targets killed, its digest discarded,
its generation advanced and its quarantine begun. -/
def State.tearDown (s : State) (idx : Nat) (ch : TsuChan) : State :=
  let h := mkHandle ch.gen idx
  let s := (s.entriesFrom h 0).foldl (fun s e => s.cancelEntry e) s
  let s := s.fireKills h (s.attempt idx) ch.targets
  let s := (s.t.steps.filter fun o => o.handle == h && !o.sent).foldl (fun s o => s.discardDigest o) s
  let s := s.modT fun t => { t with chans := fdel t.chans idx
                                    steps := t.steps.filter fun o => o.handle != h
                                    fires := t.fires.filter fun x => x.1 != h
                                    rfe := t.rfe.filter fun k => k.hdr.handle != h }
  (s.showRfe.teardown .tsu idx s.tsu.lfn).genUpdate idx

/-- An abort other than DESTROY acts on one channel (R131, R136, R250). -/
def State.abortChannel (s : State) (c : Crozier) (fire : MTime) (idx : Nat) (ch : TsuChan) : State :=
  let h := mkHandle ch.gen idx
  let s := s.bump F.fltFiredAfterCount 0 (s.firedAfter h fire)
  let s := (s.entriesFrom h c.step).foldl (fun s e => s.cancelEntry e) s
  let s := (s.fireKills h (s.attempt idx) ch.targets).abortSteps h c.step
  let s := s.modT fun t => { t with
    attempts := fset t.attempts idx ((fgetD t.attempts idx 0 + 1) % 16)
    rfe := t.rfe.filter fun k =>
      k.hdr.handle != h || 32768 ≤ (k.hdr.stepLo + 65536 - c.step % 65536) % 65536 }
  (s.showRfe.logAbort h c.step c.payload).genUpdate idx

/-- A DESTROY abort acts on one channel (R136, R217): its contributions and its count of fires as any abort's, and the channel
is torn down. -/
def State.destroyChannel (s : State) (c : Crozier) (fire : MTime) (idx : Nat) (ch : TsuChan) : State :=
  let h := mkHandle ch.gen idx
  let s := (s.bump F.fltFiredAfterCount 0 (s.firedAfter h fire)).abortSteps h c.step
  (s.logAbort h c.step 2).tearDown idx ch

/-- The first abort whose acting count has come. -/
def State.dueAbort (s : State) : Option PendAbort :=
  s.t.aborts.find? fun x => !x.done && !mtBefore (s.now .tsu) x.act

/-- ABORT_ACT (R136, R217): the first abort that is due acts; abort code DESTROY tears its channels down. -/
def execAbortAct (s : State) : Res :=
  onLive .tsu s fun s =>
    match s.dueAbort with
    | none => s
    | some x =>
      let s := s.modT fun t => { t with aborts := t.aborts.map fun y => if y = x then { y with done := true } else y }
      let fire : MTime := ⟨extend32 x.cz.fireLfn x.act.lfn, x.cz.fireSub⟩
      (s.abortChannels x.cz).foldl (fun s y =>
        if x.cz.payload = 2 then s.destroyChannel x.cz fire y.1 y.2 else s.abortChannel x.cz fire y.1 y.2) s

/-! ### Peristomes of the TSU (R139, R140) -/

/-- A contribution of a poll: the state vector as four 64-bit elements of an AND (op 5) or OR (op 6) over the
partition, under handle 0 and the number of the poll (R140, log 30). -/
def State.sendPoll (s : State) (op : Nat) (v : List Nat) : State :=
  let h : PHdr :=
    { handle := 0, stepLo := s.tsu.lfn / 64 % 2 ^ 16, tag := op - 5, op := op, format := 14, nM1 := 3, scope := 1,
      domain := 0, count := 1, ordered := false, blkJ := 0, status := 0, blkA := 0, contribErr := false, attempt := 0,
      entries := 0 }
  s.sendUp .tsu 2 s.diePartition
    (.part ⟨h, .elems ((List.range 4).map fun w => some (wordOfBits v w 64))⟩)

/-- PERISTOME_POLL (R140): at every LFN that is a multiple of 64 the state vector is taken and contributed; a
neutral peristome counts 1 in AND and 0 in OR. -/
def execPeristomePoll (s : State) : Res :=
  onLive .tsu s fun s =>
    let on := (List.range 256).filter fun k => s.rd F.periCfgSource k != 0
    if s.tsu.lfn % 64 ≠ 0 || on.isEmpty then s
    else
      let v := on.filter fun k => s.periBit k == 1
      let s := (List.range 256).foldl (fun s k => s.showTsuPeri k) s
      let off := (List.range 256).filter fun k => s.rd F.periCfgSource k == 0
      let s := (s.emit .tsu (.periVector (v ++ off))).emit .tsu (.periVector v)
      (s.sendPoll 5 (v ++ off)).sendPoll 6 v

/-- PERISTOME_CONFIG (R139): a management message sets the source and the argument of a peristome. -/
def execPeristomeConfig (index source arg : Nat) (s : State) : Res :=
  onLive .tsu s fun s =>
    if index < 256 && source < 7 then
      ((s.wr F.periCfgSource source index).wr F.periCfgArg arg index).showTsuPeri index
    else s

/-! ### Scope, grid and margin -/

/-- CLR_MARGIN (R143): a write of TSU_ARM_CFG; clr_margin resets min_margin. -/
def execClrMargin (v : Word) (s : State) : Res :=
  onLive .tsu s fun s =>
    let s := s.regWrite .tsu 0x5800 v.toNat false false
    if bit v.toNat 31 then s.wr F.armMarginMinMargin 0xFFFFFFFF else s

/-- SCOPE_TABLE_LOAD (R121, R267): the role, the domains and the core sets of the die; with the pending flag the
role is pending and not valid. A load without a role leaves the die without one. -/
def execScopeTableLoad (tbl : ScopeTable) (pend : Bool) (s : State) : Res :=
  onLive .tsu s fun s =>
    let s := (((((s.wr F.scopePodPod tbl.pod).wr F.scopePkgBrdPackage tbl.package).wr F.scopePkgBrdBoard tbl.board).wr
      F.scopeChassisChassis tbl.chassis).wr F.scopeChassisNested (b2n tbl.nested))
    let s := (List.range 15).foldl (fun s i => (List.range 8).foldl (fun s w =>
      s.wr F.coresetMask (bits (tbl.coresets.getD i 0) (32 * w) 32) i w) s) s
    let s := s.modT fun t => { t with partition := tbl.role.map fun _ => tbl.partition, readySent := false }
    match tbl.role with
    | none => ((s.wr F.roleRole 0).wr F.roleRoleValid 0).wr F.thealthRolePending 0
    | some r => ((((s.wr F.roleRole r).wr F.roleRoleValid (b2n (!pend))).wr F.thealthRolePending (b2n pend))).oweReady

/-- FRAME_GRID_LOAD (R19, R32, R33, R138): a grid whose length is 8 to 1,048,576 link frames and whose origin
lies at least 1,024 link frames ahead; any other is refused. A spare whose role is pending takes over that role's running
grid, whose origin lies behind it. A new grid sets the cap back to 15. -/
def execFrameGridLoad (f origin : Nat) (s : State) : Res :=
  onLive .tsu s fun s =>
    match (List.range 21).find? fun k => 3 ≤ k && 2 ^ k == f with
    | none => s
    | some k =>
      if origin < s.tsu.lfn + 1024 && !s.is F.thealthRolePending then s
      else
        let changed := !(s.gridValid && s.rd F.frameCfgFLog2 == k && s.gridOrigin == origin)
        let s := ((s.wr F.frameCfgFLog2 k).wr64 F.frameOriginLoOrigin F.frameOriginHiOrigin origin).wr
          (F.timeStatusGridValid .tsu) 1
        if changed then (s.wr F.lvlCapCap 15).modT fun t => { t with lvlReq := [], lvlSampleAt := none }
        else s

end Sys2Proof.Machine
end

