-- ==== Sys2Proof/Machine/Reduce.lean ====
section
/-! DEFINITION. Reductions and sampling (chapter 8): the die's front end (R169, R328), a node's tree arithmetic unit
(R170 to R173), broadcasts to the die (R188, R189, R329), soredia as they combine on the way up (R225), and the KCG test
(R194). -/

namespace Sys2Proof.Machine

/-! ### The front end (R169, R183 to R186, R328) -/

/-- The header of the die's partial for a contribution header. -/
def rfeHdr (h : CtHdr) (role : Nat) : PHdr :=
  let ordered := h.op == opSum && fmtOrdered h.format
  { handle := h.handle, stepLo := h.stepLo, tag := h.tag, op := h.op, format := h.format, nM1 := h.nM1, scope := h.scope,
    domain := h.domain, count := 1, ordered := ordered, blkJ := 0, status := 0,
    blkA := if ordered || oneRole h.scope then role else 0, contribErr := false, attempt := h.attempt, entries := 0 }

/-- A key as its first header opens it. -/
def rfeOpen (h : CtHdr) (role : Nat) : RfeKey :=
  { hdr := rfeHdr h role, exact := List.replicate (h.nM1 + 1) none, spec := List.replicate (h.nM1 + 1) 0,
    codes := List.replicate (h.nM1 + 1) none, source := h.target }

/-- One element of a target enters the die's key. -/
def rfeElem (k : RfeKey) (i c : Nat) : RfeKey :=
  let f := k.hdr.format
  let op := k.hdr.op
  if k.hdr.nM1 < i then { k with err := true }
  else if op = opSum && !k.hdr.ordered then
    { k with exact := k.exact.set i (some ((k.exact.getD i none).getD 0 + toAcc f c))
             spec := k.spec.set i (specialJoin (k.spec.getD i 0) (specialOf f c))
             codes := k.codes.set i (some c) }
  else if op = opCount then
    let old := (k.exact.getD i none).getD 0
    { k with exact := k.exact.set i (some (if c % 2 ^ fmtBits f = 0 then old else 2 ^ 192)), codes := k.codes.set i (some c) }
  else if op = opArgmax || op = opTopk || op = opPass1 then
    { k with codes := k.codes.set i (some c), ents := k.ents ++ [⟨c, 0, i⟩] }
  else if op = opSum then { k with codes := k.codes.set i (some c) }
  else { k with codes := k.codes.set i (joinOpt (joinCode f op) (k.codes.getD i none) (some c)) }

/-- Elements enter from an index on. -/
def rfeElems (k : RfeKey) (i : Nat) : List Nat → RfeKey
  | [] => k
  | c :: l => rfeElems (rfeElem k i c) (i + 1) l

/-- The elements that the data bytes of a header hold, packed from its first element on (R176, R328), up to index n_m1; bytes
beyond those that these take hold elements beyond n_m1 (log 159). -/
def rfePacked (k : RfeKey) (first : Nat) (data : List Byte) : RfeKey :=
  let w := fmtBits k.hdr.format
  let want := k.hdr.nM1 + 1 - first
  let n := min want (8 * data.length / max 1 w)
  let k := rfeElems k first ((List.range n).map (elemAt w data))
  if ceilDiv (w * want) 8 < data.length then { k with err := true } else k

/-- The pairs of bin and count of a HIST contribution, at most 4,096 (R186): a 16-bit bin and a count in the format. -/
def rfeBins (k : RfeKey) : List (Nat × Nat) → RfeKey
  | [] => k
  | (b, c) :: l =>
    if 4096 ≤ k.pairs || k.hdr.nM1 < b then rfeBins { k with err := true, pairs := k.pairs + 1 } l
    else rfeBins { k with bins := binAdd b (intValue k.hdr.format c) k.bins, pairs := k.pairs + 1 } l

/-- The pairs that data bytes hold. -/
def histPairs (f : Nat) (data : List Byte) : List (Nat × Nat) :=
  let n := 2 + fmtBits f / 8
  (List.range (data.length / n)).map fun i => (leNat data (n * i) 2, leNat data (n * i + 2) (n - 2))

/-- A header and its data words enter an open key; words of another kind, or of a second stream of an ordered sum, are
dropped. -/
def rfeWord (k : RfeKey) (h : CtHdr) (role : Nat) (data : List Byte) : RfeKey :=
  if !sameKind k.hdr (rfeHdr h role) || (k.hdr.ordered && k.source != h.target) then { k with err := true }
  else if h.op = opHist then rfeBins k (histPairs h.format data) else rfePacked k h.first data

/-- FP64 value of an element of an ordered sum. -/
def orderedValue (f c : Nat) : Nat :=
  let v := if f = 15 then lpToF64 c else c
  if decodeFloat 1 v = .nan then nan64 else v

/-- The body of the die's contribution, and its status. -/
def rfeBody (k : RfeKey) (role : Nat) : PBody × Nat :=
  let h := k.hdr
  if h.op = opHist then (.hist k.bins, 0)
  else if h.op = opArgmax || h.op = opTopk || h.op = opPass1 then
    (.entries ((rankEntries h.format (k.ents.map fun e => { e with role := role })).take (keepEntries h.op)), 0)
  else if h.op = opCount || (h.op = opSum && !h.ordered) then (.exact (k.exact.map fun x => x.getD 0) k.spec, 0)
  else if h.ordered then
    let vs := k.codes.map fun c => c.map (orderedValue h.format)
    (.ordered vs, if vs.any (· == some nan64) then 2 else 0)
  else (.elems k.codes, 0)

/-- An element that no data word covers (R169). -/
def rfeUnwritten (k : RfeKey) : Bool := k.hdr.op != opHist && k.codes.any (·.isNone)

/-- The die's contribution closes and leaves on both uplinks; a sample's logits are kept for pass 2, or the contribution
is dropped for want of buffer. -/
def State.closeRfe (s : State) (k : RfeKey) : State :=
  let role := s.rd F.roleRole
  let logits := k.codes.filterMap id
  let noRoom := k.hdr.op == opPass1 && 65536 < s.rfeHeld + logits.length
  let k := { k with err := k.err || rfeUnwritten k || noRoom, ents := if noRoom then [] else k.ents }
  let b := rfeBody k role
  let p : PPartial := ⟨{ k.hdr with contribErr := k.err, status := b.2, entries := bodyEntries b.1 }, b.1⟩
  let s := if noRoom then s.bump F.rfeNoBufferCount else s
  let s := if k.err then s.bump F.rfeContribErrCount else s
  let s := s.modT fun t =>
    { t with rfe := t.rfe.filter fun x => !samePKey x.hdr k.hdr, closed := t.closed ++ [k.hdr],
             logits := if k.hdr.op = opPass1 && !noRoom then t.logits ++ [⟨k.hdr, logits, s.tsu.lfn⟩] else t.logits }
  ((s.showRfe).sendUp .tsu 2 s.diePartition (.part p)).bump F.rfeSentCount

/-- CONTRIBUTION_WORD: a header with its data words, as the bytes that hold its elements. A header of another attempt is dropped with its words and counted,
as is a word of a key that the die has closed; with `last` the die's contribution closes. -/
def execContributionWord (hdr : CtHdr) (data : List Byte) (last : Bool) (s : State) : Res :=
  onLive .tsu s fun s =>
    let role := s.rd F.roleRole
    let h := rfeHdr hdr role
    if !s.hasRole || (s.chanOf hdr.handle).isNone || s.attempt (hIndex hdr.handle) ≠ hdr.attempt
        || s.t.closed.any (samePKey h) then s.bump F.rfeContribErrCount
    else
      let k := rfeWord ((s.t.rfe.find? fun x => samePKey x.hdr h).getD (rfeOpen hdr role)) hdr role data
      if last then s.closeRfe k
      else
        (s.modT fun t => { t with rfe := (t.rfe.filter fun x => !samePKey x.hdr h) ++ [k] }).showRfe

/-! ### Broadcasts to the die (R188, R189, R329) -/

/-- The die lies in a key's scope. -/
def State.dieInScope (s : State) (h : PHdr) : Bool :=
  s.hasRole && match h.scope with
    | 0 => h.domain == s.rd F.scopePodPod
    | 1 => true
    | 10 => h.domain == s.rd F.scopePkgBrdPackage
    | 11 => h.domain == s.rd F.scopePkgBrdBoard
    | 12 => h.domain == s.rd F.scopeChassisChassis
    | 8 | 9 => h.blkA == s.rd F.roleRole
    | _ => false

/-- Two broadcasts as bytes, for the first in which they differ: of a pass-2 broadcast the body is open. -/
def bcastBytes (h : PHdr) (body : List Nat) : List Byte := phdrBytes h ++ (if h.op = opPass2 then Config.pass2Body body else body)

/-- The first copy of a broadcast is kept for 4,096 link frames; a second one is compared with it, and one that differs is
logged with the first copy's port and the first differing byte (R125, log 161). The state, and whether the copy is acted on. -/
def State.keepBcast (s : State) (port : Nat) (h : PHdr) (body : List Nat) : State × Bool :=
  match s.t.bcasts.find? fun b => samePKey b.hdr h && s.tsu.lfn < b.atLfn + 4096 with
  | some b =>
    if b.hdr = h && b.body = body then (s, false)
    else
      ((((((s.bump F.rfeDivergeCount).wr F.divLog0Handle h.handle).wr F.divLog1StepLo h.stepLo).wr F.divLog2FirstPort
        b.port).wr F.divLog2Byte (min 31 (firstDiff (bcastBytes b.hdr b.body) (bcastBytes h body)))).faultRecord
          3 h.handle h.stepLo |>.penalise .tsu 20, false)
  | none =>
    (s.modT fun t => { t with bcasts := (t.bcasts.filter fun b => !samePKey b.hdr h) ++ [⟨h, body, s.tsu.lfn, port, 0⟩] }, true)

/-- A broadcast at a distributor travels as a crozier does (R123, R188): the first copy is sent on to every downlink that is UP
and whose roles lie in its scope, and a second one within the compare window is compared with it. -/
def State.passDown (s : State) (at_ : BcastAt) (h : PHdr) (body : List Nat) (c : Content) : State :=
  if !s.is F.shareValid at_.share then s
  else
    let part := s.rd F.sharePartition at_.share
    let window := max 1 (s.rd F.czCfgWindow)
    let live := s.d.bcasts.filter fun b => s.dbx.lfn < b.atLfn + window
    match live.find? fun b => b.partition == part && samePKey b.hdr h with
    | some b =>
      if b.hdr = h && b.body = body then s
      else (s.divLog h.handle h.stepLo b.port at_.port (firstDiff (bcastBytes b.hdr b.body) (bcastBytes h body))).pairDiverges
    | none =>
      (s.modD fun d => { d with bcasts := live ++ [⟨h, body, s.dbx.lfn, at_.port, part⟩] }).sendDown part 3
        (s.scopeRoles part h.scope h.domain h.blkA) c

/-- The step number of a result: the record of the channel's step whose low 16 bits its header carries, or those bits alone. -/
def State.wholeStep (s : State) (h : PHdr) : Nat :=
  match s.t.steps.find? fun o => o.handle == h.handle && o.step % 65536 == h.stepLo with
  | some o => o.step
  | none => h.stepLo

/-- A result goes into the lowest free slot, and each target bound to the channel is told by a word of kind 5. -/
def State.fillSlot (s : State) (slot : Nat) (h : PHdr) (body : List Nat) : State :=
  let ts := match s.chanOf h.handle with | some c => c.targets | none => []
  let s := s.emit .tsu (.slotWrite slot h body)
  if ts.isEmpty || s.t.cmpAck then s
  else
    let s := s.modT fun t => { t with slots := fset t.slots slot ⟨h, body, ts⟩ }
    ts.foldl (fun s t => s.fireNow t (launchWord 5 t slot (s.attempt (hIndex h.handle)) 0 h.handle (s.wholeStep h)) none) s

/-- The lowest result slot that is free. -/
def State.freeSlot (s : State) : Option Nat := (List.range 64).find? fun i => (fget? s.t.slots i).isNone

/-- RESULT_BROADCAST: at a TSU the first copy is delivered into a result slot, or waits for one; a distributor sends it on. -/
def execResultBroadcast (at_ : BcastAt) (hdr : PHdr) (body : List Byte) (nowSub : Nat) (s : State) : Res :=
  onLive at_.part s fun s =>
    match at_.part with
    | .dbx => s.passDown at_ hdr body (.result hdr body)
    | .tsu =>
      let s := s.modNode .tsu fun n => { n with sub := max n.sub (nowSub % 8192) }
      let r := s.keepBcast at_.port hdr body
      if !r.2 then r.1
      else match r.1.freeSlot, r.1.t.slotWait with
        | some i, [] => r.1.fillSlot i hdr body
        | _, _ => (r.1.bump F.busResultWaitCount).modT fun t => { t with slotWait := t.slotWait ++ [(hdr, body)] }

/-- RESULT_WAIT: the result that waits longest is delivered when a slot is free. -/
def execResultWait (s : State) : Res :=
  onLive .tsu s fun s =>
    match s.freeSlot, s.t.slotWait with
    | some i, (h, b) :: rest => (s.modT fun t => { t with slotWait := rest }).fillSlot i h b
    | _, _ => s

/-- RESULT_KEY_EXPIRY: broadcast keys older than 4,096 link frames are dropped. -/
def execResultKeyExpiry (s : State) : Res :=
  onLive .tsu s fun s =>
    s.modT fun t => { t with bcasts := t.bcasts.filter fun b => s.tsu.lfn < b.atLfn + 4096 }

/-- The die's pass-2 partial: its weight sum, or 0 with a contribution error. -/
def State.sendPass2 (s : State) (h : PHdr) (z : Int) (err : Bool) : State :=
  let p : PPartial :=
    ⟨{ h with count := 1, status := 0, contribErr := err, entries := 0, ordered := false, blkJ := 0,
              blkA := if oneRole h.scope then s.rd F.roleRole else 0 }, .exact [z] [0]⟩
  let s := if err then s.bump F.rfeContribErrCount else s
  (s.sendUp .tsu 2 s.diePartition (.part p)).bump F.rfeSentCount

/-- Logits of a pass-2 key. -/
def logitsOf (l : List LogitBuf) (h : PHdr) : Option LogitBuf :=
  l.find? fun b => samePKey b.hdr { h with op := opPass1 }

/-- PASS2_BROADCAST: on the first copy the die weighs the logits it holds, releases them and sends the sum; with `skip`
it only releases them. A distributor sends the first copy on. -/
def execPass2Broadcast (at_ : BcastAt) (hdr : PHdr) (m s_ : Nat) (skip : Bool) (s : State) : Res :=
  onLive at_.part s fun s =>
    let hdr := { hdr with op := opPass2 }
    match at_.part with
    | .dbx => s.passDown at_ hdr [m, s_, b2n skip] (.pass2 hdr m s_ skip)
    | .tsu =>
      let r := s.keepBcast at_.port hdr [m, s_, b2n skip]
      if !r.2 then r.1
      else
        let held := logitsOf r.1.t.logits hdr
        let s := (r.1.modT fun t => { t with logits := t.logits.filter fun b => some b != held }).showRfe
        if skip then s
        else match held with
          | some b => s.sendPass2 hdr (sumNat (b.logits.map fun x => weightAcc (logitWeight hdr.format x m s_)) : Nat) false
          | none => if s.dieInScope hdr then s.sendPass2 hdr 0 true else s

/-- LOGIT_RELEASE: logits held for 4,096 link frames without a broadcast are released and counted. -/
def execLogitRelease (s : State) : Res :=
  onLive .tsu s fun s =>
    let gone := s.t.logits.filter fun b => b.atLfn + 4096 ≤ s.tsu.lfn
    if gone.isEmpty then s
    else
      ((s.modT fun t => { t with logits := t.logits.filter fun b => s.tsu.lfn < b.atLfn + 4096 }).showRfe).bump
        F.rfeReleasedCount 0 (sumNat (gone.map fun b => b.logits.length))

/-! ### Partials at a node (R170 to R174, R264) -/

/-- A key of a peristome poll at the apex closes: the bits of its reduction are an input (R140, R141). -/
def State.closePoll (s : State) (k : TauKey) : State :=
  let ws := match k.body with | some (.elems l) => l.map fun x => x.getD 0 | _ => []
  let s := s.shutTau k
  match s.apexSlot k.partition with
  | some slot => s.holdInput (some slot) (.poll slot (k.first.op - 5) (bitsOfWords ws 64))
  | none => s

/-- A key of the apex or of another node after a partial joined it. -/
def State.joined (s : State) (k : TauKey) (apex : Bool) : State :=
  if !apex then (if s.tauExpected k ≤ k.count then s.tauClose k else s.showTau)
  else if k.first.handle = 0 then (if s.tauExpected k ≤ k.count then s.closePoll k else s.showTau)
  else (s.showTau).judgeKey k

/-- A partial joins an open key: one of another kind, or of another role of a scope of one role, is dropped with
CONTRIB_ERR. -/
def State.joinPartial (s : State) (k : TauKey) (port : Nat) (p : PPartial) (apex : Bool) : State :=
  let first := if k.parts.isEmpty && k.first.op != opPass2 then p.hdr else k.first
  if !sameKind first p.hdr || (oneRole first.scope && p.hdr.blkA != first.blkA) then
    let k' := { k with err := true }
    (s.modD fun d => { d with tau := putTau k k' d.tau }).bump F.tauContribErrCount
  else
    let k' := { k with first := first, parts := k.parts ++ [(port, p)], atLfn := if k.parts.isEmpty then s.dbx.lfn else k.atLfn }
    (s.modD fun d => { d with tau := putTau k k' d.tau }).joined k' apex

/-- A node without space passes a partial on, and keeps it for the comparison with its second copy; with the last of them
the key closes (R170, R173). -/
def State.passPartial (s : State) (k : TauKey) (port : Nat) (p : PPartial) : State :=
  let k' := { k with parts := k.parts ++ [(port, p)] }
  let s := ((s.modD fun d => { d with tau := putTau k k' d.tau }).sendUp .dbx 2 k.partition (.part p)).bump F.tauOutCount
  if s.tauExpected k' ≤ k'.count then s.shutTau k' else s

/-- What a partial is against the first copies of its key (R170, R173). -/
def State.partCopy (s : State) (k : TauKey) (port : Nat) (p : PPartial) : Copy :=
  let at_ := s.posOf port
  let have_ := sumNat ((k.parts.filter fun x => s.posOf x.1 == at_).map fun x => x.2.hdr.count)
  let roles := ivMeet (s.rolesAt k.partition at_) (s.scopeRoles k.partition k.first.scope k.first.domain k.first.blkA)
  s.copyKind k.parts k.seen port p (fun q => sameBlock q.hdr p.hdr) (have_ + p.hdr.count ≤ ivCount roles)

/-- A second copy has been compared with the first at an index (R170). -/
def State.seenCopy (s : State) (k : TauKey) (i : Nat) : State :=
  let mark := fun x => if x = k then { k with seen := k.seen ++ [i] } else x
  s.modD fun d => { d with tau := d.tau.map mark, tauShut := d.tauShut.map mark }

/-- A second copy that differs is pair divergence, logged with the ports of both copies and the first differing byte. -/
def State.partDiffers (s : State) (k : TauKey) (i port : Nat) (p : PPartial) : State :=
  match k.parts[i]? with
  | some x =>
    (((s.seenCopy k i).bump F.tauDivergeCount).divLog p.hdr.handle p.hdr.stepLo x.1 port
      (firstDiff (partBytes x.2) (partBytes p))).pairDiverges
  | none => s

/-- A key of the apex for which there is no space completes at once (R173). -/
def State.noTauSpace (s : State) (k : TauKey) : State :=
  let k' := { k with noSpace := true, due := true }
  ((s.modD fun d => { d with tau := if d.tau.contains k then putTau k k' d.tau else d.tau ++ [k'] }).bump
    F.tauNoSpaceCount).settleKey k'

/-- PARTIAL_RECEIVED, on a downlink: a partial from a position without roles of its scope is dropped (R264); a second copy is
compared; a first one joins its key, passes a node without space, or comes too late. -/
def execPartialReceived (port partition : Nat) (part : PPartial) (s : State) : Res :=
  onLive .dbx s fun s =>
    let h := part.hdr
    let s := s.bump F.tauInCount
    let apex := (s.apexSlot partition).isSome
    if (ivMeet (s.rolesAt partition (s.posOf port)) (s.scopeRoles partition h.scope h.domain h.blkA)).isEmpty then
      s.bump F.tauLateDiscCount
    else match s.d.tau.find? fun k => k.partition == partition && samePKey k.first h with
      | some k =>
        match s.partCopy k port part with
        | .same i => s.seenCopy k i
        | .differs i => s.partDiffers k i port part
        | .surplus => s.bump F.tauLateDiscCount
        | .first =>
          if k.due then s.bump F.tauLateDiscCount
          else if k.through then s.passPartial k port part
          else if k.parts.isEmpty && !s.tauRoom { k with first := h } then s.noTauSpace k
          else s.joinPartial k port part apex
      | none =>
        match s.d.tauShut.find? fun k => k.partition == partition && samePKey k.first h with
        | some k =>
          match s.partCopy k port part with
          | .same i => s.seenCopy k i
          | .differs i => s.partDiffers k i port part
          | _ => s.bump F.tauLateDiscCount
        | none =>
          let k : TauKey := { partition := partition, first := h, atLfn := s.dbx.lfn, parts := [(port, part)]
                              deadline := if apex then some s.firstDeadline else none }
          if s.tauRoom k then (s.modD fun d => { d with tau := d.tau ++ [k] }).joined k apex
          else if apex then s.noTauSpace k
          else
            let k := { k with through := true, parts := [] }
            ((s.modD fun d => { d with tau := d.tau ++ [k] }).bump F.tauPassthroughCount).passPartial k port part

/-! ### Soredia on the way up (R225, R264) -/

/-- Highest epoch of a soredium. -/
def sorMax (q : Soredium) : Nat := q.eMin + q.span

/-- Two soredia of one key. Of two different variants, and of two different intervals, the spec states neither the variant
nor the split of the combination: `v` and `w` are free values (log 9). -/
def joinSor (a b : Soredium) (v w : Nat) : Soredium :=
  let lo := min a.eMin b.eMin
  let same := a.eMin == b.eMin && a.span == b.span && a.split == b.split
  { a with digest := Nat.xor a.digest b.digest, weight := a.weight || b.weight, count := a.count + b.count, eMin := lo,
           span := min 15 (max (sorMax a) (sorMax b) - lo), varMixed := a.varMixed || b.varMixed || a.variant != b.variant,
           variant := if a.variant = b.variant then a.variant else v % 256, split := if same then a.split else w % 1024,
           multi := a.multi || b.multi || !same, incomplete := a.incomplete || b.incomplete }

/-- Two soredia have one key. -/
def sameSor (a b : Soredium) : Bool := a.handle == b.handle && a.step == b.step && a.attempt == b.attempt

/-- The registers that show the soredia. -/
def State.showSor (s : State) : State :=
  (s.wr F.sorStatusRecords s.d.hist.length).wr F.sorStatusOpen (s.d.sors.filter fun k => !k.through).length

/-- A record of the node's history of 65,536, the oldest overwritten; under freeze one that would overwrite counts as
lost (R227). The tick of a step whose channel the node does not hold is free (log 9). -/
def State.keepSor (s : State) (q : Soredium) (part : Nat) : State :=
  let same := fun (x : Nat × Soredium × Nat) => x.2.1.handle == q.handle && x.2.1.step == q.step
  let v := s.orFree ((s.bound q.handle).map fun c => c.r.tick % 2 ^ 16) 16
  let tick := v.1
  let s := v.2
  if s.is F.sorCfgFreeze && (s.d.hist.any same || 65536 ≤ s.d.hist.length) then s.bump F.sorLostCount
  else
    (s.modD fun d => { d with hist := (part, q, tick) :: (d.hist.filter fun x => !same x).take 65535 }).showSor

/-- A soredia key closes: forwarded below the apex, an input at it; short of its count it is incomplete. One whose soredia the
node has passed on only closes. -/
def State.closeSor (s : State) (k : SorKey) : State :=
  let n := ivCount (s.rolesBelow k.partition)
  let k := { k with acc := { k.acc with incomplete := k.acc.incomplete || k.acc.count < n } }
  let s := (s.modD fun d => { d with sors := d.sors.filter fun x => !sameSor x.acc k.acc || x.partition != k.partition
                                     sorShut := d.sorShut ++ [k] }).showSor
  if k.through then s
  else
    let s := (s.keepSor k.acc k.partition).showSor
    match s.apexSlot k.partition with
    | some slot => s.holdInput (some slot) (.soredium k.acc)
    | none => (s.sendUp .dbx 5 k.partition (.soredium k.acc)).bump F.sorOutCount

/-- What a soredium is against the first copies of its key (R225). -/
def State.sorCopy (s : State) (k : SorKey) (port : Nat) (q : Soredium) : Copy :=
  let at_ := s.posOf port
  let have_ := sumNat ((k.parts.filter fun x => s.posOf x.1 == at_).map fun x => x.2.count)
  s.copyKind k.parts k.seen port q (fun _ => true) (have_ + q.count ≤ ivCount (s.rolesAt k.partition at_))

/-- A second copy has been compared with the first at an index. -/
def State.seenSor (s : State) (k : SorKey) (i : Nat) : State :=
  let mark := fun x => if x = k then { k with seen := k.seen ++ [i] } else x
  s.modD fun d => { d with sors := d.sors.map mark, sorShut := d.sorShut.map mark }

/-- A second copy that differs. -/
def State.sorDiffers (s : State) (k : SorKey) (i port : Nat) (q : Soredium) : State :=
  match k.parts[i]? with
  | some x =>
    ((s.seenSor k i).divLog q.handle q.step x.1 port
      (firstDiff ((soredWords x.2).flatMap (toLe 4)) ((soredWords q).flatMap (toLe 4)))).pairDiverges
  | none => s

/-- A first copy of a soredium goes on uncombined, since the node has no room for its key, and is counted; at the apex it is
an input of its own, short of its count (R225, log 162). -/
def State.passSor (s : State) (k : SorKey) (q : Soredium) : State :=
  let s := s.bump F.sorPassthroughCount
  match s.apexSlot k.partition with
  | some slot => s.holdInput (some slot) (.soredium { q with incomplete := true })
  | none => (s.sendUp .dbx 5 k.partition (.soredium q)).bump F.sorOutCount

/-- A first copy enters its key, which closes with its count; a node without room passes it on. -/
def State.joinSorKey (s : State) (k : SorKey) (port : Nat) (q : Soredium) : State :=
  let v := s.draw
  let w := v.2.draw
  let s := if k.parts.isEmpty then s else w.2
  let k' : SorKey :=
    { k with acc := if k.parts.isEmpty then q else joinSor k.acc q v.1 w.1, parts := k.parts ++ [(port, q)] }
  let s := s.modD fun d => { d with sors := d.sors.map fun x => if x = k then k' else x }
  let s := if k.through then s.passSor k q else s
  if ivCount (s.rolesBelow k.partition) ≤ k'.acc.count then s.closeSor k' else s.showSor

/-- SOREDIUM_RECEIVED, on a downlink: the first copies combine under their key, second ones are compared (R170, R225). -/
def execSorediumReceived (port partition : Nat) (q : Soredium) (s : State) : Res :=
  onLive .dbx s fun s =>
    let s := s.bump F.sorInCount
    let same := fun (k : SorKey) => k.partition == partition && sameSor k.acc q
    if (s.rolesAt partition (s.posOf port)).isEmpty then s.bump F.sorLateDiscCount
    else match s.d.sors.find? same with
      | some k =>
        match s.sorCopy k port q with
        | .same i => s.seenSor k i
        | .differs i => s.sorDiffers k i port q
        | .surplus => s.bump F.sorLateDiscCount
        | .first => s.joinSorKey k port q
      | none =>
        match s.d.sorShut.find? same with
        | some k =>
          match s.sorCopy k port q with
          | .same i => s.seenSor k i
          | .differs i => s.sorDiffers k i port q
          | _ => s.bump F.sorLateDiscCount
        | none =>
          let full := decide (4096 ≤ (s.d.sors.filter fun k => !k.through).length)
          let k : SorKey := { partition := partition, acc := q, atLfn := s.dbx.lfn, parts := [], through := full }
          (s.modD fun d => { d with sors := d.sors ++ [k] }).joinSorKey k port q

/-! ### Flush and deadline (R171, R172, R225, R255) -/

/-- Flush time; 0 acts as 1. -/
def State.flushLf (s : State) : Nat := max 1 (s.rd F.tauCfgFlushLf)

/-- A wait reply combined below the apex leaves upward (R255). -/
def State.sendWait (s : State) (q : HangQ) : State :=
  (s.modD fun d => { d with waitAcc := d.waitAcc.filter (· != q) }).mgmtUp .dbx 4 q.partition
    [q.handle, q.step, q.done, q.blocked, b2n q.isLocal, q.running, q.first, q.last]

/-- FLUSH_EXPIRY: `key` counts the open keys of the TAU, then the soredia keys, then the wait replies under combination.
flush_lf after its first partial a node below the apex forwards what it holds and closes the key; a poll closes at the
apex so too. -/
def execFlushExpiry (key : Nat) (s : State) : Res :=
  onLive .dbx s fun s =>
    let n := s.d.tau.length
    let m := s.d.sors.length
    let late := fun (t : Nat) => t + s.flushLf ≤ s.dbx.lfn
    match s.d.tau[key]?, s.d.sors[key - n]?, s.d.waitAcc[key - n - m]? with
    | some k, _, _ =>
      let apex := (s.apexSlot k.partition).isSome
      if !late k.atLfn then s
      else if !apex then s.tauClose k
      else if k.first.handle = 0 then s.closePoll k else s
    | none, some k, _ => if late k.atLfn && (s.apexSlot k.partition).isNone then s.closeSor k else s
    | none, none, some q => if late q.atLfn then s.sendWait q else s
    | none, none, none => s

/-- KEY_DEADLINE: `key` as in FLUSH_EXPIRY. A key of the apex at its deadline completes short, once its word is there;
a soredia key at the completion deadline of its step. -/
def execKeyDeadline (key : Nat) (s : State) : Res :=
  onLive .dbx s fun s =>
    match s.d.tau[key]?, s.d.sors[key - s.d.tau.length]? with
    | some k, _ =>
      if k.deadline.isSome && s.keyDeadline k ≤ s.dbx.lfn && !k.due then
        let k' := { k with due := true }
        (s.modD fun d => { d with tau := putTau k k' d.tau }).settleKey k'
      else s
    | none, some k =>
      let dl := match s.bound k.acc.handle with
        | some c => if (lastStep c.r) = k.acc.step then c.deadline + s.flushLf else k.atLfn + s.flushLf
        | none => k.atLfn + s.flushLf
      if (s.apexSlot k.partition).isSome && dl ≤ s.dbx.lfn then s.closeSor k else s
    | none, none => s

/-! ### KCG_TEST (R194) -/

/-- KCG_TEST: a write of DBX_KCG_TEST_CTRL; `go` computes the test word from the test inputs. -/
def execKcgTest (v : Word) (s : State) : Res :=
  onLive .dbx s fun s =>
    let s := s.regWrite .dbx 0x60110 v.toNat false true
    if !bit v.toNat 16 then s
    else
      let u := kcg (s.rd64 F.kcgSeedLoSeed F.kcgSeedHiSeed)
        (s.rd F.kcgStepLoStep + 2 ^ 32 * (s.rd F.kcgStepHiStep % 2 ^ 16)) (s.rd F.kcgCtrlDraw)
      (s.wr64 F.kcgOutLoOut F.kcgOutHiOut u).wr F.kcgCtrlDone 1

end Sys2Proof.Machine
end

