-- ==== Sys2Proof/Machine/Faults.lean ====
section
/-! DEFINITION. Faults, hangs and compute-domain resets (chapter 11): the completion bus, the wait graph, the verdicts,
suspects, the reset of the compute domain and its escalation. -/

namespace Sys2Proof.Machine

/-! ### Steps and completion words (R35, R36, R154, R243, R257, R327) -/

/-- A count lies at or after tick k+1 of a step. -/
def State.pastStep (s : State) (o : OpenStep) (t : MTime) : Bool := !mtBefore t ⟨o.tick + s.frameLen, 0⟩

/-- A step that a completion word may name: some launch has not completed, or its frame has not ended. -/
def State.stepOpen (s : State) (o : OpenStep) : Bool :=
  !o.missing.isEmpty || (s.tsu.lfn < o.tick + s.frameLen && !o.sent)

/-- The open step that a word's handle, step and attempt match. -/
def State.wordStep (s : State) (w : CbWord) : Option OpenStep :=
  s.t.steps.find? fun o => o.handle == w.handle && o.step % 65536 == w.stepLo && o.attempt == w.attempt && s.stepOpen o

/-- A launch completes (R35, R36, R154): the last one of a step sends its contribution, and one at or after tick k+1 of
a step that has sent it makes the channel's next contribution LATE. -/
def State.launchDone (s : State) (o : OpenStep) (key : Nat) (stamp : MTime) : State :=
  let late := s.pastStep o stamp
  let s := if late && !o.sent then s.closeStep o else s
  match s.stepOf o.handle o.step with
  | none => s
  | some o =>
    let o := { o with done := o.done ++ [key], lateDone := if late then o.lateDone ++ [key] else o.lateDone }
    if late then (s.setStep o).modChan o.handle fun c => { c with late := c.late || o.sent }
    else
      let o := { o with last := match o.last with
                                | some l => if mtBefore l stamp then some stamp else some l
                                | none => some stamp }
      let s := s.setStep o
      if o.missing.isEmpty && !o.sent then s.sendContribution o 0 else s

/-- A target's fault that names a channel (R257). -/
def State.namedFault (s : State) (o : OpenStep) : State :=
  ((s.stepFault o stTarget).faultRecord 4 o.handle o.step).penalise .tsu 3

/-- Fire counts of launches at a target by step: of those that have not completed, or of all. -/
def OpenStep.firesAt (o : OpenStep) (target : Nat) (running : Bool) : List MTime :=
  (o.fires.filter fun f => f.1 % 256 == target && !(running && o.done.contains f.1)).map (·.2)

/-- The steps whose launches reached a target in the fault window (R257). -/
def State.suspectSteps (s : State) (target : Nat) (fault : MTime) : List OpenStep :=
  match s.t.steps.flatMap fun o => o.firesAt target true with
  | [] => []
  | t :: l =>
    let first := l.foldl (fun a b => if mtBefore b a then b else a) t
    s.t.steps.filter fun o => (o.firesAt target false).any fun f => !mtBefore f first && !mtBefore fault f

/-- A rising list of numbers without repeats. -/
def insertNat (x : Nat) : List Nat → List Nat
  | [] => [x]
  | y :: l => if x < y then x :: y :: l else if x = y then y :: l else y :: insertNat x l
def sortNat (l : List Nat) : List Nat := l.foldl (fun a x => insertNat x a) []

/-- A target's fault that names no channel (R257): TARGET_FAULT in each suspect's contribution, and the report of up to
16 of them. -/
def State.suspectFault (s : State) (target : Nat) (stamp : MTime) : State :=
  let os := s.suspectSteps target stamp
  let idx := sortNat (os.map fun o => hIndex o.handle)
  let hs := idx.filterMap fun i => (os.find? fun o => hIndex o.handle == i).map (·.handle)
  let s := os.foldl (fun s o => s.stepFault o stTarget) s
  let s := (s.faultRecord 5 0 0).penalise .tsu 4
  if hs.isEmpty then s
  else
    let n := min 16 hs.length
    (s.bump F.fltSuspectCount).mgmtUp .tsu 2 s.diePartition
      ([s.rd F.roleRole, target, n, b2n (16 < hs.length), stamp.lfn % 2 ^ 32] ++ hs.take 16)

/-! ### The wait graph (R253) -/

/-- Wait nodes held. -/
def State.liveNodes (s : State) : List WaitNode := s.t.waits.filter fun n => n.ended.isNone

/-- The register that shows how many nodes are held. -/
def State.showNodes (s : State) : State := s.wr F.fltStatusNodes s.liveNodes.length

/-- A wait report that comes later than 1 µs counts. -/
def State.noteLate (s : State) (stamp now : MTime) : State :=
  if 100000 < mtDiff now stamp then s.bump F.fltWaitLateCount else s

/-- wait-begin: the queue's node, or an overflowed target when 4,096 are held. -/
def State.waitBegin (s : State) (w : CbWord) (stamp : MTime) : State :=
  let n : WaitNode := ⟨w.target, w.queue, w.handle, w.wRole, w.wTarget, w.wQueue, stamp, none⟩
  match s.liveNodes.find? fun x => x.target == w.target && x.queue == w.queue with
  | some x =>
    if { x with since := stamp } = n then s
    else s.modT fun t => { t with waits := t.waits.map (fun y => if y = x then { x with ended := some stamp } else y) ++ [n] }
  | none =>
    if 4096 ≤ s.liveNodes.length then
      (s.bump F.fltWaitFullCount).modT fun t =>
        { t with overflow := if t.overflow.contains w.target then t.overflow else t.overflow ++ [w.target] }
    else (s.modT fun t => { t with waits := t.waits ++ [n] }).showNodes

/-- wait-end: the node ends, and with the last one of a target its overflow. -/
def State.waitEnd (s : State) (w : CbWord) (stamp : MTime) : State :=
  let s := s.modT fun t => { t with waits := t.waits.map fun x =>
    if x.target = w.target && x.queue = w.queue && x.ended.isNone then { x with ended := some stamp } else x }
  let s := if s.liveNodes.any fun x => x.target == w.target then s
    else s.modT fun t => { t with overflow := t.overflow.filter (· != w.target) }
  s.showNodes

/-! ### Results read (R329) -/

/-- A target has read its result; with the last one the slot is free. -/
def State.resultRead (s : State) (slot target : Nat) : State :=
  match fget? s.t.slots slot with
  | none => s
  | some r =>
    let left := r.readers.filter (· != target)
    let s := s.modT fun t => { t with slots := if left.isEmpty then fdel t.slots slot
                                               else fset t.slots slot { r with readers := left } }
    s.wr F.resultStatusInUse s.t.slots.length

/-- COMPLETION_WORD (R327): by kind 1 done, 2 fault, 3 wait-begin, 4 wait-end, 5 kill acknowledged, 6 layer not ready,
7 result read; `stamp` is the repeater's count, `now` the count it comes at. -/
def execCompletionWord (_region : Nat) (stamp : MTime) (w : CbWord) (now : MTime) (s : State) : Res :=
  onLive .tsu s fun s =>
    if s.t.cmpAck then s
    else match w.kind with
    | 3 => (s.noteLate stamp now).waitBegin w stamp
    | 4 => (s.noteLate stamp now).waitEnd w stamp
    | 5 => s.modT fun t => { t with kills := t.kills.filter fun k => !(k.1 == w.target && k.2.1 == w.handle) }
    | 7 => s.resultRead w.entry w.target
    | k =>
      if k = 2 && w.handle = 0 then s.suspectFault w.target stamp
      else if !(k == 1 || k == 2 || k == 6) then s
      else
        let key := 256 * w.entry + w.target
        match (s.wordStep w).filter fun o => o.missing.contains key with
        | none => s.bump F.busCbStaleCount
        | some o =>
          if k = 1 then s.launchDone o key stamp
          else if k = 2 then s.namedFault o
          else if o.sent then s
          else s.setStep { o with status := orSt o.status stWeight }

/-! ### Classes (R254) -/

/-- Nodes as the wait graph held them at a tick. -/
def State.nodesAt (s : State) (t : Nat) : List WaitNode :=
  s.t.waits.filter fun n => !mtBefore ⟨t, 0⟩ n.since && match n.ended with
    | some e => mtBefore ⟨t, 0⟩ e
    | none => true

/-- A node has waited since t − hang_age or earlier (R253). -/
def State.nodeOld (s : State) (t : Nat) (n : WaitNode) : Bool :=
  !mtBefore ⟨t - s.rd F.fltCfgHangAge, 0⟩ n.since

/-- From a node the waits lead back to it within `fuel` steps. -/
def cycleFrom (l : List WaitNode) (home : Nat × Nat) : Nat → Nat × Nat → Bool
  | 0, _ => false
  | fuel + 1, at_ =>
    match l.find? fun n => n.target == at_.1 && n.queue == at_.2 with
    | none => false
    | some n => (n.wTarget, n.wQueue) == home || cycleFrom l home fuel (n.wTarget, n.wQueue)

/-- Some cycle of nodes. -/
def hasCycle (l : List WaitNode) : Bool := l.any fun n => cycleFrom l (n.target, n.queue) l.length (n.target, n.queue)

/-- Targets of a step that were launched and had not completed at tick k+1. -/
def OpenStep.liveTargets (o : OpenStep) : List Nat :=
  ((o.targets.filter fun k => o.fires.any (·.1 == k) && (!o.done.contains k || o.lateDone.contains k)).map
    (· % 256)).eraseDups

/-- Class of an overrunning step at tick k+1 and whether a local cycle was found: 0 DONE, 1 BLOCKED, 2 RUNNING. -/
def State.classOf (s : State) (o : OpenStep) (t : Nat) : Nat × Bool :=
  let own := (s.nodesAt t).filter fun n => n.handle == o.handle
  let live := o.liveTargets
  let here := fun (n : WaitNode) => n.wRole == s.rd F.roleRole
  let onC := fun (n : WaitNode) => !here n || (own.any fun m => m.target == n.wTarget && m.queue == n.wQueue)
    || !live.contains n.wTarget
  let cls :=
    if live.isEmpty then 0
    else if (live.all fun x => own.any fun n => n.target == x)
        && (own.filter fun n => live.contains n.target).all fun n => s.nodeOld t n && onC n then
      if live.any s.t.overflow.contains then 2 else 1
    else 2
  if hasCycle (own.filter fun n => s.nodeOld t n && here n) then (1, true) else (cls, false)

/-- The class of one step is recorded, with the records and counts that it brings. -/
def State.recordClass (s : State) (t : Nat) (o : OpenStep) : State :=
  let c := s.classOf o t
  let s := s.modT fun x => { x with classes := x.classes ++ [⟨o.handle, o.step, c.1, c.2, t⟩] }
  let s := if c.2 then
      (((s.bump F.fltLocalHangCount).faultRecord 6 o.handle o.step).penalise .tsu 2).record .tsu 4 2
    else s
  if c.1 = 1 then s.record .tsu 4 1 else s

/-- The latest tick that lies 1 µs or more back. -/
def State.evalTick (s : State) : Nat := s.tickOf (mtSub (s.now .tsu) 100000).lfn

/-- WAIT_GRAPH_EVALUATION (R254): 1 µs after a tick, once, each step that overran at it takes its class; nodes that
ended by then leave. -/
def execWaitGraphEvaluation (s : State) : Res :=
  onLive .tsu s fun s =>
    let t := s.evalTick
    if !s.isTick t || s.tsu.lfn * 8192 + s.tsu.sub < t * 8192 + 100000 || s.t.evalAt == some t then s
    else
      let s := s.modT fun x => { x with evalAt := some t }
      let overs := s.t.steps.filter fun o => o.tick + s.frameLen == t && o.overran
      let s := overs.foldl (fun s o => s.recordClass t o) s
      s.modT fun x => { x with waits := x.waits.filter fun n => match n.ended with
        | some e => mtBefore ⟨t, 0⟩ e
        | none => true }

/-! ### Wait queries, replies and verdicts (R255, R256) -/

/-- The class that a TSU answers: its latest record of the step; else DONE when the channel did not overrun there and
RUNNING when it did. -/
def State.answerClass (s : State) (handle step : Nat) : Nat × Bool :=
  match s.t.classes.reverse.find? fun c => c.handle == handle && c.step == step with
  | some c => (c.cls, c.isLocal)
  | none =>
    if s.t.steps.any fun o => o.handle == handle && o.step == step && o.overran then (2, false)
    else (0, false)

/-- WAIT_QUERY (R255): a member TSU replies with its class; the blocked roles of a reply that is not blocked are left
open (log 9). -/
def execWaitQuery (partition handle step : Nat) (s : State) : Res :=
  onLive .tsu s fun s =>
    if !s.hasRole || s.diePartition ≠ partition then s
    else
      let c := s.answerClass handle step
      let role := if c.1 = 1 then (s.rd F.roleRole, s) else (s.draw.1 % 2 ^ 21, s.draw.2)
      role.2.mgmtUp .tsu 4 partition
        [handle, step % 65536, b2n (c.1 == 0), b2n (c.1 == 1), b2n c.2, b2n (c.1 == 2), role.1, role.1]

/-- A reply joins a query's counts. -/
def joinWait (q : HangQ) (pos : Nat) (r : WaitReply) : HangQ :=
  { q with done := q.done + r.done
           blocked := q.blocked + r.blocked
           running := q.running + r.running
           isLocal := q.isLocal || r.isLocal
           first := if r.blocked = 0 then q.first else if q.blocked = 0 then r.firstRole else min q.first r.firstRole
           last := if r.blocked = 0 then q.last else max q.last r.lastRole
           seen := q.seen ++ [pos] }

/-- HANG: none runs, one or more is blocked, and all have replied. -/
def HangQ.hang (q : HangQ) : Bool := q.running == 0 && 0 < q.blocked && q.done + q.blocked == q.expected

/-- Replies counted. -/
def HangQ.count (q : HangQ) : Nat := q.done + q.blocked + q.running

/-- The verdict of a query is taken, as an input of its slot. -/
def State.takeVerdict (s : State) (q : HangQ) : State :=
  (s.modD fun d => { d with hangs := d.hangs.filter (· != q) }).holdInput (s.apexSlot q.partition) (.verdict q.handle q.hang)

/-- A reply at the apex. -/
def State.apexWait (s : State) (pos partition : Nat) (r : WaitReply) : State :=
  match s.d.hangs.find? fun q => q.partition == partition && q.handle == r.handle && q.step % 65536 == r.stepLo with
  | none => s
  | some q =>
    if q.seen.contains pos then s
    else
      let q2 := joinWait q pos r
      let s := s.modD fun d => { d with hangs := d.hangs.map fun x => if x = q then q2 else x }
      if q2.expected ≤ q2.count then s.takeVerdict q2 else s

/-- A reply below the apex combines with those of its step, and leaves when the node's roles have all replied. -/
def State.nodeWait (s : State) (pos partition : Nat) (r : WaitReply) : State :=
  let same := fun (q : HangQ) => q.partition == partition && q.handle == r.handle && q.step == r.stepLo
  let q := (s.d.waitAcc.find? same).getD { partition := partition, handle := r.handle, step := r.stepLo,
                                           atLfn := s.dbx.lfn, expected := ivCount (s.rolesBelow partition) }
  if q.seen.contains pos then s
  else
    let q2 := joinWait q pos r
    let s := s.modD fun d => { d with waitAcc := d.waitAcc.filter (fun x => !same x) ++ [q2] }
    if q2.expected ≤ q2.count then s.sendWait q2 else s

/-- WAIT_REPLY (R255): the first copy from a child position that holds roles of the partition. -/
def execWaitReply (pos partition : Nat) (r : WaitReply) (s : State) : Res :=
  onLive .dbx s fun s =>
    if (s.rolesAt partition pos).isEmpty then s
    else if (s.apexSlot partition).isSome then s.apexWait pos partition r
    else s.nodeWait pos partition r

/-- HANG_VERDICT_TIMEOUT (R255): 2 × flush_lf after the query's commit count the verdict of a channel is taken; a role
that has not replied counts as RUNNING. -/
def execHangVerdictTimeout (ch : Nat) (s : State) : Res :=
  onLive .dbx s fun s =>
    match s.d.hangs.find? fun q => hIndex q.handle == ch && q.atLfn + 2 * s.flushLf ≤ s.dbx.lfn with
    | none => s
    | some q => s.takeVerdict q

/-! ### Ready and suspect reports (R246, R256, R258) -/

/-- READY_REPORT: at the apex of its partition an input; below it, it climbs. -/
def execReadyReport (partition role : Nat) (ready : Bool) (lfn : Nat) (s : State) : Res :=
  onLive .dbx s fun s =>
    match s.apexSlot partition with
    | some k => s.holdInput (some k) (.ready partition role ready)
    | none => s.mgmtUp .dbx 1 partition [role, b2n ready, lfn]

/-- SUSPECT_REPORT: where the slot's mode is 1, suspect_en is set and overflow clear, the suspects are to replay one at
a time in ascending channel index; any other report is unresolved. Below the apex it climbs. -/
def execSuspectReport (partition role target : Nat) (handles : List Nat) (overflow : Bool) (faultLfn : Nat) (s : State) :
    Res :=
  onLive .dbx s fun s =>
    match s.apexSlot partition with
    | none => s.mgmtUp .dbx 2 partition ([role, target, handles.length, b2n overflow, faultLfn] ++ handles)
    | some k =>
      if s.fltMode k = 1 && s.is F.dfltCfgSuspectEn && !overflow then
        let chs := sortNat ((handles.filter fun h => (s.bound h).isSome).map hIndex)
        if chs.isEmpty then s
        else s.modD fun d => { d with suspects := d.suspects ++ [chs] }
      else s.bump F.dfltUnresolvedCount

/-- RESTORE_TIMEOUT (R246): restore_ms after the fault the condition has not held, and the channel is paused. -/
def execRestoreTimeout (ch : Nat) (s : State) : Res :=
  onLive .dbx s fun s =>
    match s.chan ch with
    | none => s
    | some c =>
      if c.r.exec = 6 && c.wait == .restore && c.restoreBy ≤ s.dbx.lfn then
        (s.bump F.dfltRestoreTmoCount).limitPause ch 3
      else s

/-! ### The compute domain's reset (R239, R259, R333) -/

/-- CMP_RST_REQ is asserted, until CMP_RST_ACK. -/
def State.requestReset (s : State) : State :=
  if s.t.cmpAck || s.rd F.fltStatusCmpState = 1 then s
  else (s.wr F.fltStatusCmpState 1).emit .tsu (.pin .cmpRstReq 1)

/-- CMP_RESET: a write of TSU_FLT_CTRL; cmp_reset asks for the reset. -/
def execCmpReset (v : Word) (s : State) : Res :=
  onLive .tsu s fun s => if bit v.toNat 0 then s.requestReset else s

/-- Link frames of kill_tmo; 0 acts as 1. -/
def State.killLf (s : State) : Nat := lfOfUs (max 1 (s.rd F.fltCfgKillTmo))

/-- KILL_TIMEOUT: a bound target has not acknowledged its kill word within kill_tmo. -/
def execKillTimeout (target handle : Nat) (s : State) : Res :=
  onLive .tsu s fun s =>
    match s.t.kills.find? fun k => k.1 == target && k.2.1 == handle && k.2.2 + s.killLf ≤ s.tsu.lfn with
    | none => s
    | some k =>
      let s := s.modT fun t => { t with kills := t.kills.filter (· != k) }
      (((s.bump F.fltKillTmoCount).penalise .tsu 1).faultRecord 7 handle 0).requestReset

/-- The resets counted within esc_window; when they reach esc_count the TSU asks to be taken out of service, once. -/
def State.escalate (s : State) : State :=
  let s := s.ageResets.modT fun t => { t with resets := t.resets ++ [s.tsu.lfn] }
  let n := s.t.resets.length
  let s := s.wr F.fltStatusEscSeen (satN 4 n)
  let lim := s.rd F.fltCfgEscCount
  if lim = 0 || n < lim || s.is F.fltStatusOosReq then s
  else
    ((((s.wr F.fltStatusOosReq 1).faultRecord 9 0 0).raiseAlert .tsu 0x259).interrupt .tsu 4).score .tsu |>.expelRequest

/-- The compute domain's launches end with it: what has fired runs no longer, what was staged is to be staged again. -/
def State.dropLaunches (s : State) : State :=
  let fired := (s.t.arm.filter fun x => x.2.state == 4).map (·.1)
  s.modT fun t => { t with
    steps := t.steps.map fun o => { o with targets := o.targets.filter fun k => !fired.contains (k / 256)
                                           fires := [] }
    arm := t.arm.map fun x => if x.2.state = 3 then (x.1, { x.2 with state := if x.2.twoSeen then 2 else 1 }) else x
    regions := t.regions.map fun x => (x.1, { x.2 with staged := [] })
    kills := []
    waits := []
    overflow := [] }

/-- CMP_RST_ACK_RISE: the compute domain is in reset. -/
def execCmpRstAckRise (s : State) : Res :=
  onLive .tsu s fun s =>
    if s.t.cmpAck then s
    else
      let s := ((s.modT fun t => { t with cmpAck := true }).wr F.fltStatusCmpState 2).emit .tsu (.pin .cmpRstReq 0)
      let s := s.dropLaunches.showNodes
      let s := (s.t.steps.filter fun o => !o.sent && o.tick ≤ s.tsu.lfn).foldl (fun s o => s.sendContribution o stReset) s
      let s := (s.t.steps.filter fun o => !o.layers.isEmpty).foldl (fun s o => s.discardDigest o) s
      let s := ((s.reportReady false).bump F.fltCmpResetCount).penalise .tsu 0
      (s.faultRecord 8 0 0).escalate

/-- CMP_RST_ACK_FALL: the compute domain runs; a die that serves its role says so, and fires from the next fire count
on. -/
def execCmpRstAckFall (s : State) : Res :=
  onLive .tsu s fun s =>
    if !s.t.cmpAck then s
    else
      let s := (s.modT fun t => { t with cmpAck := false }).wr F.fltStatusCmpState 0
      if s.is F.roleRoleValid then s.reportReady true else s

end Sys2Proof.Machine
end

