-- ==== Sys2Proof/Machine/PlanStore.lean ====
section
/-! DEFINITION. Plan images and the plan store (R144 to R150, R96, R20, R177): the image's fields, the checks of
PLAN_LOAD, and the rows that change the store. -/

namespace Sys2Proof.Machine

/-! ### The image (R144, R149) -/

/-- Header fields of an image. -/
def imWords (im : List Byte) : Nat := leNat im 4 4
def imVariants (im : List Byte) : Nat := leNat im 8 2
def imDvar (im : List Byte) : Nat := leNat im 10 2
def imTargets (im : List Byte) : Nat := leNat im 12 2
def imSelects (im : List Byte) : Nat := leNat im 14 2
def imTenant (im : List Byte) : Nat := leNat im 96 16

/-- Pages of an image (R146). -/
def imPages (im : List Byte) : Nat := ceilDiv im.length 4096

/-- Every header field lies in its range, the reserved bits and bytes are 0, and the image has the size that they
give. -/
def headerOk (im : List Byte) : Bool :=
  leNat im 0 2 == 0x0701 && leNat im 2 2 < 2
    && 1 ≤ imWords im && imWords im ≤ 1048575 && 1 ≤ imVariants im && imVariants im ≤ 256
    && (imDvar im == 0x1FF || imDvar im < imVariants im)
    && imTargets im ≤ 4096 && imSelects im ≤ 4096
    && 1 ≤ leNat im 16 4 && leNat im 16 4 ≤ 262144 && leNat im 20 2 ≤ 1024 && leNat im 22 2 ≤ 4096
    && zeroBytes im 30 32 && zeroBytes im 112 416
    && im.length == 512 + 16 * (imTargets im + imSelects im) + 8 * imWords im * imVariants im

/-- Entries of the target and select tables. -/
def imTarget (im : List Byte) (i : Nat) : TEntry :=
  let o := 512 + 16 * i
  ⟨leNat im o 8, bits (leNat im (o + 8) 1) 0 2, bits (leNat im (o + 8) 1) 2 4, leNat im (o + 12) 4⟩
def imSelect (im : List Byte) (i : Nat) : SEntry :=
  let v := leNat im (512 + 16 * (imTargets im + i)) 16
  ⟨bits v 0 21, bits v 21 21, bits v 42 8, bits v 64 32⟩

/-- 64-bit words from an offset. -/
def wordsFrom (im : List Byte) (off n : Nat) : List Nat := (List.range n).map fun i => leNat im (off + 8 * i) 8

/-- The plan of an image, at a slot and at a page. -/
def planOfImage (im : List Byte) (slot page : Nat) : Plan :=
  let base := 512 + 16 * (imTargets im + imSelects im)
  { slot := slot, tenant := imTenant im, nested := bit (leNat im 2 2) 0,
    dvar := if imDvar im = 0x1FF then none else some (imDvar im),
    targets := (List.range (imTargets im)).map (imTarget im), selects := (List.range (imSelects im)).map (imSelect im),
    maxChannels := leNat im 16 4, armPeak := leNat im 20 2, periUsed := leNat im 22 2, wordsMp := leNat im 24 2,
    czFull := leNat im 26 2, czDegr := leNat im 28 2, demand := (List.range 32).map fun i => leNat im (32 + 2 * i) 2,
    firstPage := page, pages := imPages im, retiring := false,
    variants := (List.range (imVariants im)).map fun v => wordsFrom im (base + 8 * imWords im * v) (imWords im) }

/-! ### Words (R145, R150, R177) -/

/-- Operation and format of a REDUCE or SAMPLE word keep Table 8.3; op 16 stands for SAMPLE. -/
def opFormatOk (op f : Nat) : Bool :=
  f != 0 && if op < 5 then true else if op < 10 then 10 ≤ f && f ≤ 14 else op == 16 && 2 ≤ f && f ≤ 6

/-- The bits that Table 7.3 lists for an opcode. -/
def wordMask (op : Nat) : Nat :=
  match op with
  | 1 => 2 ^ 51 - 1
  | 2 => 2 ^ 8 - 1
  | 3 => 2 ^ 46 - 1
  | 4 => 2 ^ 29 - 1 + (2 ^ 20 - 1) * 2 ^ 32
  | 5 => 2 ^ 6 - 1
  | 6 => 2 ^ 56 - 1
  | 7 => 2 ^ 39 - 1
  | 8 => 2 ^ 53 - 1 + 2 ^ 55
  | 9 => 2 ^ 49 - 1
  | 10 => 2 ^ 52 - 1
  | 11 => 2 ^ 43 - 1
  | 12 => 2 ^ 8 - 1
  | 13 => 2 ^ 23 - 1
  | 15 => 1
  | _ => 0

/-- Opcodes of Table 7.3. -/
def wordOp (w : Nat) : Nat := bits w 56 8
def opcodeOk (op : Nat) : Bool := (1 ≤ op && op ≤ 13) || op == 15

/-- Field values and references of a word, for a plan of `n` words. -/
def wordFieldsOk (q : Plan) (n w : Nat) : Bool :=
  let nt := q.targets.length
  match wordOp w with
  | 1 => [1, 2, 5, 6].contains (bits w 48 3) && bits w 33 12 < nt && (bits w 48 3 != 2 || bits w 0 33 == 0)
  | 3 => rwOp w < 10 && opFormatOk (rwOp w) (rwFormat w)
  | 4 => opFormatOk 16 (swFormat w) && swTref w < nt && (!swDraft w || swPositions w == 1)
  | 5 => 1 ≤ bits w 0 3
  | 6 => bits w 20 4 < 12 && bits w 0 20 < n
  | 7 => bits w 0 20 < n
  | 8 => bits w 0 12 < q.periUsed && bits w 33 3 < 7 && bits w 21 12 < nt
  | 9 => bits w 0 12 < nt
  | 10 => bits w 12 10 ≤ bits w 22 10 && bits w 0 12 + (bits w 22 10 - bits w 12 10) < q.periUsed && bits w 32 12 < nt
  | 11 => bits w 0 12 + bits w 12 8 ≤ q.selects.length
  | _ => true

/-- A word is legal by itself. -/
def wordOk (q : Plan) (n w : Nat) : Bool :=
  opcodeOk (wordOp w) && w % 2 ^ 56 - Nat.land (w % 2 ^ 56) (wordMask (wordOp w)) == 0 && wordFieldsOk q n w

/-- The last word ends every path (R145). -/
def lastOk (w : Nat) : Bool := wordOp w == 15 || (wordOp w == 6 && bits w 20 4 == 0 && !bit w 27)

/-- What two variants may differ in is set aside: off_sub, off_lf and tref of LAUNCH words. -/
def variantCore (w : Nat) : Nat := if wordOp w = 1 then w / 2 ^ 45 * 2 ^ 45 else w

/-! ### Steps (R151) -/

/-- A LAUNCH word without `last` is followed by the rest of a run: EPOCH words and then a LAUNCH; `fuel` words. -/
def runGoesOn (l : List Nat) : Nat → Nat → Bool
  | 0, _ => false
  | fuel + 1, pc =>
    match l[pc]? with
    | none => false
    | some w => wordOp w == 1 || (wordOp w == 9 && runGoesOn l fuel (pc + 1))

/-- A closing LAUNCH is followed by EPOCH, DIGEST and POST words and then WAITC. -/
def closedWaits (l : List Nat) : Nat → Nat → Bool
  | 0, _ => false
  | fuel + 1, pc =>
    match l[pc]? with
    | none => false
    | some w => wordOp w == 2 || ([9, 12, 13].contains (wordOp w) && closedWaits l fuel (pc + 1))

/-- The words of a variant keep R151. -/
def stepsOk (l : List Nat) : Bool :=
  (List.range l.length).all fun pc =>
    let w := l.getD pc 0
    wordOp w != 1 || if bit w 47 then closedWaits l l.length (pc + 1) else runGoesOn l l.length (pc + 1)

/-- Words that can follow a word. -/
def nextWords (l : List Nat) (pc : Nat) : List Nat :=
  let w := l.getD pc 0
  match wordOp w with
  | 6 => if bits w 20 4 = 0 then (if bit w 27 then [pc + 1] else [bits w 0 20]) else [bits w 0 20, pc + 1]
  | 7 => if bit w 22 then [pc + 1] else [bits w 0 20, pc + 1]
  | 15 => []
  | _ => [pc + 1]

/-- Croziers gathered when a path arrives at each word, at most `cap`: one round over the words. A word that is not
the closing LAUNCH passes its own crozier on; the closing one passes none. -/
def gatherRound (l : List Nat) (cap : Nat) (e : List Nat) : List Nat :=
  (List.range l.length).foldl (fun e pc =>
    let w := l.getD pc 0
    let out := if wordOp w = 1 && bit w 47 then 0
      else e.getD pc 0 + (if wordOp w = 1 || wordOp w = 9 then 1 else 0)
    (nextWords l pc).foldl (fun e t => if e.getD t 0 < min cap out then e.set t (min cap out) else e) e) e

/-- Rounds until nothing changes, `fuel` at most. -/
def gathered (l : List Nat) (cap : Nat) : Nat → List Nat → List Nat
  | 0, e => e
  | fuel + 1, e => let e' := gatherRound l cap e
                   if e' = e then e else gathered l cap fuel e'

/-- No step places more croziers than `cz` at its close, on any path (R145). -/
def stepCroziersOk (l : List Nat) (cz : Nat) : Bool :=
  let e := gathered l (cz + 1) (l.length * (cz + 1)) (List.replicate l.length 0)
  (List.range l.length).all fun pc =>
    let w := l.getD pc 0
    !(wordOp w == 1 && bit w 47) || e.getD pc 0 + 1 ≤ cz

/-! ### Scopes (R20, R122, R177) -/

/-- A scope code of the partition's model; code 1 in a nested one only for abort and epoch croziers. -/
def scopeListed (nested : Bool) (scope : Nat) (epoch : Bool) : Bool :=
  if nested then (scope == 1 && epoch) || (8 ≤ scope && scope ≤ 12) else scope ≤ 1

/-- The domain of a target entry has an entry at the apex. -/
def State.domainKnown (s : State) (part : Nat) (e : TEntry) : Bool :=
  e.form != 2 || !(s.domainRoles part (scopeKind e.scope) (e.target % 2 ^ 16)).isEmpty

/-- A target entry keeps Table 6.3 and names a listed scope and a known domain. -/
def State.targetOk (s : State) (part : Nat) (nested : Bool) (e : TEntry) : Bool :=
  czTargetOk (mkCz 1 e 1 0 0 0 ⟨0, 0⟩) && scopeListed nested e.scope true && s.domainKnown part e

/-- Roles that a REDUCE of a scope can hold (R177). -/
def State.reduceRoles (s : State) (part scope : Nat) : Nat :=
  if scope = 1 then ivCount (s.rolesBelow part)
  else if scope = 8 || scope = 9 then 1
  else
    let k := scopeKind scope
    let es := (s.scopesOf part).filter fun x => x.1 == k
    es.foldl (fun a x => max a (ivCount (s.domainRoles part k x.2.1))) 0

/-- Scope codes of the words, and the limit on ranked roles, which are roles of the partition: code 1 of a nested one
serves EPOCH words alone. -/
def State.wordScopeOk (s : State) (part : Nat) (q : Plan) (w : Nat) : Bool :=
  match wordOp w with
  | 1 => scopeListed q.nested (q.entry (bits w 33 12)).scope false
  | 3 => scopeListed q.nested (rwScope w) false
    && (!(rwOp w == opArgmax || rwOp w == opTopk) || s.reduceRoles part (rwScope w) * (rwNm1 w + 1) ≤ 2 ^ 32)
  | 4 => let e := q.entry (swTref w)
         scopeListed q.nested e.scope false
          && ivCount (ivMeet (s.targetRoles part e.form e.scope e.target) (s.rolesBelow part)) * (swNm1 w + 1) ≤ 2 ^ 32
  | 8 => !bit w 55 || scopeListed q.nested (q.entry (bits w 21 12)).scope false
  | 10 => scopeListed q.nested (q.entry (bits w 32 12)).scope false
  | _ => true

/-! ### The checks of PLAN_LOAD (R145) -/

/-- A plan breaks none of the checks that answer PLAN_INVALID. -/
def State.planValid (s : State) (slot : Nat) (im : List Byte) : Bool :=
  headerOk im &&
  (let q := planOfImage im slot 0
   let part := s.slotPart slot
   let n := imWords im
   q.nested == s.is F.condPartNested slot
    && q.variants.all (fun l => l.all (fun w => wordOk q n w && s.wordScopeOk part q w) && lastOk (l.getD (n - 1) 0)
        && stepsOk l)
    && q.variants.all (fun l => l.map variantCore == (q.variants.getD 0 []).map variantCore)
    && stepCroziersOk (q.variants.getD 0 []) (min q.czFull q.czDegr)
    && q.selects.all (fun e => e.variant < imVariants im)
    && q.targets.all (s.targetOk part q.nested))

/-- Bound plans of a slot. -/
def State.slotPlans (s : State) (slot : Nat) : List Plan :=
  (s.d.plans.filter fun x => x.2.slot == slot).map (·.2)

/-- Positions of a class that a partition's shares hold in a template, by layout (R95, R96). -/
def State.classCap (s : State) (part t cls y : Nat) : Nat :=
  ((List.range (if y = 0 then 96 else 48)).filter fun i =>
    let e := s.tmplEntry .dbx t (i + 96 * y)
    entryClass e == cls && s.is F.shareValid (entryShare e) && s.rd F.sharePartition (entryShare e) == part).length

/-- Demand of some plans for a class at a hop level, in positions per map period (R147). -/
def classDemand (qs : List Plan) (cls y h : Nat) : Nat :=
  sumNat (qs.map fun q =>
    if cls = 1 then ceilDiv (if y = 0 then q.czFull else q.czDegr) 2
    else q.demand.getD ((4 * (cls - 2) + h) * 2 + y) 0)

/-- The plans fit the shares of one template in a class and layout, with one position in sixteen kept back. -/
def State.classFits (s : State) (part : Nat) (qs : List Plan) (t cls y : Nat) : Bool :=
  let c := s.classCap part t cls y
  classDemand qs cls y (s.level - 1) ≤ c - ceilDiv c 16

/-- The plans fit the shares of a class and layout on the links of a hop level below the node's own, of whose templates it
has no record (log 28). -/
def State.farFits (s : State) (part : Nat) (qs : List Plan) (h cls y : Nat) : Bool :=
  let c := Config.farCapacity part h cls y s.dbx.lfn
  classDemand qs cls y h ≤ c - ceilDiv c 16

/-- Links of the node that the partition's traffic crosses downward. -/
def State.partPorts (s : State) (part : Nat) : List Nat :=
  ((s.positionsOf part).flatMap s.portsAt).filter fun p => s.is (F.portCtrlEnable .dbx) p

/-- The checks of R147 with the partition's other plans: at every hop level of the partition's paths, on this node's own
links by their templates and on those below by the capacity that their shares have (R96, log 28). -/
def State.planFits (s : State) (slot : Nat) (q : Plan) : Bool :=
  let qs := q :: s.slotPlans slot
  let part := s.slotPart slot
  (s.partPorts part).all (fun p =>
    [0, 1].all fun y =>
      [1, 3].all (fun c => s.classFits part qs (s.txTmpl .dbx p) c y)
        && [2, 4, 5].all fun c => s.classFits part qs (s.rxTmpl .dbx p) c y)
    && (List.range (s.level - 1)).all (fun h => [0, 1].all fun y => [1, 2, 3, 4, 5].all fun c => s.farFits part qs h c y)
    && sumNat (qs.map (·.armPeak)) ≤ 1024
    && sumNat (qs.map (·.wordsMp)) ≤ 16 * s.rd F.condShareRateWordsLf slot
    && sumNat (qs.map (·.pages)) ≤ s.rd F.condShareMemPages slot
    && sumNat (s.d.plans.map (·.2.pages)) + q.pages ≤ 8192
    && s.d.plans.length < 4096
    && q.periUsed ≤ s.rd F.condSharePeriCount slot

/-! ### The store (R146) -/

/-- The registers that show the store. -/
def State.showStore (s : State) (slot : Nat) : State :=
  let qs := s.slotPlans slot
  (((s.wr F.condLoadPages (sumNat (s.d.plans.map (·.2.pages)))).wr F.condPartPagesPages (sumNat (qs.map (·.pages))) slot).wr
    F.condPartPagesPlans qs.length slot).showPlan

/-- The first page where an image fits between those held, or page 0 (log 29). -/
def State.freePage (s : State) (n : Nat) : Nat :=
  let ends := 0 :: s.d.plans.map fun x => x.2.firstPage + x.2.pages
  let free := fun c => c + n ≤ 8192 && s.d.plans.all fun x => x.2.firstPage + x.2.pages ≤ c || c + n ≤ x.2.firstPage
  match ends.filter free with
  | [] => 0
  | c :: l => l.foldl min c

/-- The lowest plan index that is free (log 29). -/
def State.freePlan (s : State) : Nat :=
  ((List.range 4096).find? fun i => (fget? s.d.plans i).isNone).getD 0

/-- Channels bound to a plan. -/
def State.planChans (s : State) (i : Nat) : List Nat :=
  (s.d.chans.filter fun x => x.2.state == 2 && x.2.r.plan == i).map (·.1)

/-- A retired plan without channels leaves the store. -/
def State.dropPlan (s : State) (i : Nat) : State :=
  match fget? s.d.plans i with
  | some q =>
    if q.retiring && (s.planChans i).isEmpty then
      (s.modD fun d => { d with plans := fdel d.plans i }).showStore q.slot
    else s
  | none => s

/-- The digest that an image's signature covers (R144). -/
def imDigest (im : List Byte) : Nat := Config.sha384 (im.take 416 ++ List.replicate 96 0 ++ im.drop 512)

/-- PLAN_LOAD (R145 to R147): the checks in their order, and the binding of the image. -/
def execPlanLoad (ring seq : Nat) (s : State) : Res :=
  onLive .dbx s fun s =>
    s.withDesc .dbx ring seq 0x10 fun f s =>
      let im := f.desc.ext
      let slot := opnd f.desc 40 1
      let key := (fgetD s.d.owners slot (0, 0)).2
      if imTenant im ≠ f.tenant then s.finish .dbx ring seq 7 0 0
      else if !Config.ecdsaVerify key (imDigest im) (leNat im 416 96) then s.finish .dbx ring seq 0x10 0 0
      else if !s.planValid slot im then s.finish .dbx ring seq 0x11 0 0
      else
        let q := planOfImage im slot (s.freePage (imPages im))
        if !s.planFits slot q then s.finish .dbx ring seq 0x12 0 0
        else
          let i := s.freePlan
          ((s.modD fun d => { d with plans := fset d.plans i q }).showStore slot).finish .dbx ring seq 0 i 0

/-- PLAN_RETIRE (R146): no further channel is bound to the plan, and its pages are freed with its last channel. -/
def execPlanRetire (ring seq : Nat) (s : State) : Res :=
  onLive .dbx s fun s =>
    s.withDesc .dbx ring seq 0x11 fun f s =>
      let i := opnd f.desc 40 2
      match fget? s.d.plans i with
      | none => s.finish .dbx ring seq 0x13 0 0
      | some q =>
        if q.retiring then s.finish .dbx ring seq 0x13 0 0
        else if q.tenant ≠ f.tenant then s.finish .dbx ring seq 7 0 0
        else
          (((s.modD fun d => { d with plans := fset d.plans i { q with retiring := true } }).showPlan).dropPlan i).finish
            .dbx ring seq 0 0 0

/-- STORE_RELOAD_COMPLETE (R146): the word is available again from the image in host memory, and the channel that waits for
it goes on. -/
def execStoreReloadComplete (ch : Nat) (s : State) : Res :=
  onLive .dbx s fun s =>
    match s.chan ch with
    | some c =>
      if c.wait == .reload then
        (s.modD fun d => { d with badWords := d.badWords.filter (· != (c.r.plan, c.r.variant, c.r.pc)) }).runCh ch
      else s
    | none => s

/-- SHADOW_COPY_COMPLETE (R166): a member that returns, or leaves passive, has copied every channel record and every
plan page from the active member; it becomes the shadow and emits. -/
def execShadowCopyComplete (records : List (Nat × CondChan)) (images : List PlanCopy) (s : State) : Res :=
  onLive .dbx s fun s =>
    if !s.pairUp || !(s.condRole = 3 || s.d.chans.isEmpty) then s
    else
      let s := s.modD fun d => { d with chans := [], plans := [], inputs := [], notices := [], lastCmp := s.dbx.lfn }
      let s := images.foldl (fun s x =>
        let q := { planOfImage x.image x.slot x.page with retiring := x.retiring }
        (s.modD fun d => { d with plans := fset d.plans x.index q }).showStore x.slot) s
      (records.foldl State.takeRecord s).setRole 1

end Sys2Proof.Machine
end

