-- ==== Sys2Proof/Machine/Rings.lean ====
section
/-! DEFINITION. Ring pairs (R195 to R209): enable, doorbells, the checks of a fetched descriptor, completions that wait,
interrupt moderation, and NOP. -/

namespace Sys2Proof.Machine

/-! ### Enable and doorbells (R196, R197) -/

/-- RING_ENABLE (R196, R201): a bound ring pair starts from counts of 0; an unbound one refuses. -/
def execRingEnable (p : Part) (ring : Nat) (s : State) : Res :=
  onLive p s fun s =>
    if ringCount p ≤ ring || s.is (F.ringCfgEnable p) ring then s
    else if s.ringKind p ring = 0 then s.wr (F.ringStatusCfgRefused p) 1 ring
    else
      let s := s.modRing p ring fun t => { t with sqTail := 0, cqHead := 0 }
      ((((s.wr (F.ringCfgEnable p) 1 ring).wr (F.ringSqHeadConsumed p) 0 ring).wr (F.ringCqTailWritten p) 0 ring).wr
        (F.ringStatusRunning p) 1 ring).wr (F.ringStatusErr p) 0 ring

/-- A ring pair's enable clears: fetching stops. -/
def State.disableRing (s : State) (p : Part) (ring : Nat) : State :=
  (s.wr (F.ringCfgEnable p) 0 ring).wr (F.ringStatusRunning p) 0 ring

/-- RING_DISABLE (R196): fetching stops at once; what has been fetched completes. -/
def execRingDisable (p : Part) (ring : Nat) (s : State) : Res :=
  onLive p s fun s => if s.is (F.ringCfgEnable p) ring then s.disableRing p ring else s

/-- A ring pair stops with an error of _RING_STATUS.err (R197, R331). -/
def State.stopRing (s : State) (p : Part) (ring err : Nat) : State :=
  ((s.wr (F.ringStatusRunning p) 0 ring).wr (F.ringStatusErr p) err ring).interrupt p 1

/-- Enabled and not stopped. -/
def State.ringRuns (s : State) (p : Part) (ring : Nat) : Bool := s.is (F.ringStatusRunning p) ring

/-- Forward distance from one 32-bit count to another. -/
def ahead32 (from_ dest : Nat) : Nat := (dest + 2 ^ 32 - from_ % 2 ^ 32) % 2 ^ 32

/-- A TSU's read of the next descriptor below the tail, one at a time for a ring pair (R331, R198). -/
def State.fetchAhead (s : State) (p : Part) (ring : Nat) : State :=
  if p == Part.dbx || s.rd (F.ringSqHeadConsumed p) ring == (s.ring p ring).sqTail
      || s.t.memReqs.any fun x => x.2 == .ring ring false then s
  else s.memRequest (.ring ring false)

/-- SQ_TAIL_WRITE (R197): the tail moves on, or the ring stops when it would move back or pass the ring's size. -/
def execSqTailWrite (p : Part) (ring : Nat) (v : Word) (s : State) : Res :=
  onLive p s fun s =>
    if !s.ringRuns p ring then s
    else
      let n := v.toNat
      let size := 2 ^ s.rd (F.ringCfgSqLog2 p) ring
      let back := ahead32 n (s.ring p ring).sqTail
      if (0 < back && back < 2 ^ 31) || size < ahead32 (s.rd (F.ringSqHeadConsumed p) ring) n then s.stopRing p ring 1
      else (s.modRing p ring fun t => { t with sqTail := n }).fetchAhead p ring

/-- CQ_HEAD_WRITE (R197): the head moves on and frees space, or the ring stops when it would move back or pass what has
been written. -/
def execCqHeadWrite (p : Part) (ring : Nat) (v : Word) (s : State) : Res :=
  onLive p s fun s =>
    if !s.ringRuns p ring then s
    else
      let n := v.toNat
      let w := s.rd (F.ringCqTailWritten p) ring
      if ahead32 (s.ring p ring).cqHead w < ahead32 n w then s.stopRing p ring 1
      else s.modRing p ring fun t => { t with cqHead := n }

/-! ### Completions that wait (R199, R200) -/

/-- COMPLETION_WRITE (R199, R160): the completion that waits longest is written when the ring has space; then the
conductor's posts to that ring. -/
def execCompletionWrite (p : Part) (ring : Nat) (s : State) : Res :=
  onLive p s fun s =>
    match (s.ring p ring).waiting with
    | c :: rest =>
      if s.cqFull p ring then s
      else (s.modRing p ring fun t => { t with waiting := rest }).writeCompletion p ring c
    | [] => if p == Part.dbx then s.flushPosts ring else s

/-- MSIX_MODERATION (R200): the oldest unsignalled completion has waited mod_time, and the message is sent. -/
def execMsixModeration (p : Part) (ring : Nat) (s : State) : Res :=
  onLive p s fun s =>
    match (s.ring p ring).unsig with
    | [] => s
    | t :: _ =>
      if t + lfOfUs (s.rd (F.ringModModTime p) ring) ≤ s.lfn p then
        s.message p ring
      else s

/-! ### The opcodes (Table 9.3) -/

/-- Opcodes that the table lists. -/
def opListed (op : Nat) : Bool :=
  op ≤ 6 || [0x10, 0x11, 0x20, 0x21, 0x30, 0x31, 0x32, 0x40, 0x41, 0x42, 0x50, 0x51].contains op

/-- Opcodes that a part accepts. -/
def opAccepted (p : Part) (op : Nat) : Bool :=
  match p with
  | .tsu => [0, 1, 2, 6, 0x20, 0x30, 0x31, 0x40, 0x41, 0x42, 0x50, 0x51].contains op
  | .dbx => opListed op && op != 0x20

/-- Kinds of ring that an opcode may come on: 1 open, 2 tenant, 3 manager. -/
def opRings (op : Nat) : List Nat :=
  if [0, 0x31, 0x40, 0x50].contains op then [1, 2, 3]
  else if op = 0x41 then [1, 3]
  else if [0x32, 0x42, 0x51].contains op then [3]
  else if [6, 0x30].contains op then [2, 3]
  else [2]

/-- Conductor descriptors (R205). -/
def opConductor (p : Part) (op : Nat) : Bool :=
  p == Part.dbx && ((1 ≤ op && op ≤ 6) || [0x10, 0x11, 0x21, 0x32].contains op)

/-- Bits of the eight operand bytes that an opcode uses. -/
def opMask (p : Part) (op : Nat) : Nat :=
  match p, op with
  | .dbx, 1 => 0xFF
  | .dbx, 2 => 0x3FFFFFF0FFF
  | .dbx, 3 => 0xFFFFF
  | .tsu, 6 => 1
  | _, 0x10 => 0xFF
  | _, 0x11 => 0xFFFF
  | _, 0x20 => 0xFFFFFFFF
  | _, 0x21 => 0xFF01FFFFFFFF
  | .tsu, 0x30 => 0x9FFFFFFFFFFFFFFF
  | .dbx, 0x30 => 0x1FFFFFFFFFFFFFFF
  | _, 0x32 => 1
  | _, 0x41 => 0xFF
  | .dbx, 0x42 => 0xFF
  | _, 0x50 => 0xFF
  | _, _ => 0

/-- The opcode carries an extension, and its length is allowed. -/
def extWanted (p : Part) (op : Nat) : Option (Nat → Bool) :=
  match p, op with
  | .tsu, 1 => some (· == 64)
  | .tsu, 2 => some fun n => n == 32 || n == 96
  | .dbx, 2 => some (· == 128)
  | _, 0x10 => some (0 < ·)
  | _, 0x20 => some (0 < ·)
  | _, 0x32 => some (· == 32)
  | _, 0x40 => some (0 < ·)
  | _, 0x41 => some (0 < ·)
  | _, 0x51 => some (· == 64)
  | _, _ => none

/-- Record count of DIGEST_READ. -/
def digestCount (d : Desc) : Nat := bits (opnd d 46 2) 0 13

/-- Smallest result buffer of an opcode; none where it has no result. -/
def resNeed (op : Nat) (d : Desc) : Option Nat :=
  match op with
  | 0x31 => some 32
  | 0x30 => some ((if bit (opnd d 46 2) 15 then 16 else 32) * digestCount d)
  | 0x40 => some 0
  | 0x41 => some 0
  | 0x50 => some (match opnd d 40 1 with | 0 => 64 | 1 => 544 | _ => 0)
  | _ => none

/-! ### Checks (R207) -/

/-- The 48 bytes that the tag covers (R202, Table 9.1). -/
def descBody (d : Desc) : List Byte :=
  [d.opcode, d.flags] ++ toLe 2 d.rsv2 ++ toLe 4 d.handle ++ toLe 8 d.cookie ++ toLe 8 d.extAddr ++ toLe 8 d.resAddr
    ++ toLe 4 d.extLen ++ toLe 4 d.resLen ++ (d.ops ++ List.replicate 8 0).take 8

/-- A descriptor's tag holds; the open ring checks none. -/
def State.tagOk (s : State) (p : Part) (ring seq : Nat) (d : Desc) : Bool :=
  s.ringKind p ring == 1 || d.tag == Config.gcmTag (s.ring p ring).key (seq % 2 ^ 64) (descBody d)

/-- Operand values in their ranges, other than reserved bits (R205, R276). -/
def State.operandsOk (s : State) (p : Part) (d : Desc) : Bool :=
  match p, d.opcode with
  | .dbx, 1 => s.slotServes (opnd d 40 1)
  | .dbx, 2 =>
    let g := opnd d 44 2
    let fl := s.rd F.condGridFLog2 g
    s.is F.condGridValid g && 3 ≤ fl && fl ≤ 20
      && match s.chan (hIndex d.handle) with
         | some c => c.r.handle != d.handle || s.rd F.condGridSlot g == c.r.slot
         | none => true
  | .tsu, 1 => hGen d.handle != 0
  | _, 0x10 => s.slotServes (opnd d 40 1)
  | _, 0x21 => s.slotServes (opnd d 45 1)
  | _, 0x30 => 1 ≤ digestCount d && digestCount d ≤ 4096
  | .dbx, 0x42 => s.is F.condPartValid (opnd d 40 1)
  | .tsu, 0x50 => opnd d 40 1 == 0
  | .dbx, 0x50 => opnd d 40 1 ≤ 1 || (opnd d 40 1 == 2 && s.isRoot)
  | _, _ => true

/-- No reserved bit is set, and every field and buffer lies in its range (R204, R205). -/
def State.fieldsOk (s : State) (p : Part) (d : Desc) : Bool :=
  let ops := leNat d.ops 0 8
  d.flags / 4 == 0 && d.rsv2 == 0
    && d.extLen % 16 == 0 && d.extLen ≤ 2 ^ 25 && d.resLen % 16 == 0
    && d.extAddr % 16 == 0 && d.resAddr % 16 == 0
    && (d.extLen != 0 || d.extAddr == 0) && (d.resLen != 0 || d.resAddr == 0)
    && ops - Nat.land ops (opMask p d.opcode) == 0
    && ((extWanted p d.opcode).isSome || d.extLen == 0)
    && (match resNeed d.opcode d with | some n => n ≤ d.resLen | none => d.resLen == 0)
    && s.operandsOk p d

/-- The extension was read whole, has an allowed length and its tag holds (R202). -/
def State.extOk (s : State) (p : Part) (ring seq : Nat) (d : Desc) : Bool :=
  match extWanted p d.opcode with
  | none => true
  | some ok =>
    !d.extErr && ok d.extLen && d.ext.length == d.extLen
      && (s.ringKind p ring == 1 || d.extTag == Config.gcmTag (s.ring p ring).key (seq % 2 ^ 64 + 2 ^ 64) d.ext)

/-- Op of a policy block (Table 12.8). -/
def policyOp (d : Desc) : Nat := d.ext.getD 0 0

/-- Ops of the policy block that are conductor inputs (R268). -/
def policyInput (p : Part) (d : Desc) : Bool := p == Part.dbx && d.opcode == 0x51 && 1 ≤ policyOp d && policyOp d ≤ 3

/-- A policy block has an op that the part accepts, its reserved bytes 0 and its slot served (R277). -/
def State.policyOk (s : State) (p : Part) (e : List Byte) : Bool :=
  zeroBytes e 1 4 &&
  match p, e.getD 0 0 with
  | .tsu, 0 => zeroBytes e 6 64 && leNat e 4 2 < 1024
  | .tsu, 4 => zeroBytes e 4 64
  | .dbx, 0 => zeroBytes e 8 64 && leNat e 6 2 < 4096
  | .dbx, 1 => zeroBytes e 5 8 && zeroBytes e 36 64 && leNat e 8 4 < 2 ^ 21 && leNat e 12 4 < 2 ^ 21
                && s.slotServes (e.getD 4 0)
  | .dbx, 2 => zeroBytes e 5 8 && zeroBytes e 12 64 && leNat e 8 4 < 2 ^ 21 && s.slotServes (e.getD 4 0)
  | .dbx, 3 => zeroBytes e 5 8 && zeroBytes e 12 64 && leNat e 8 4 < 2 ^ 21 && s.slotServes (e.getD 4 0)
  | _, _ => false

/-- The fields of an extension lie in their ranges (R206, R215, R277). -/
def State.contentOk (s : State) (p : Part) (d : Desc) : Bool :=
  match p, d.opcode with
  | .dbx, 2 => leNat d.ext 72 2 ≤ 256 && d.ext.getD 74 0 < 2 && d.ext.getD 75 0 == 0 && zeroBytes d.ext 100 128
  | .tsu, 2 => (bitsOfWords (d.ext.take 32) 8).all s.wired
  | _, 0x32 => zeroBytes d.ext 24 32
  | _, 0x51 => s.policyOk p d.ext
  | _, _ => true

/-- The part scrubs. -/
def State.scrubbing (s : State) (p : Part) : Bool := (s.node p).scrub.isSome

/-- The checks of R207 in their order up to the channel's, which are made when the descriptor executes; 0 when all
hold. -/
def State.descStatus (s : State) (p : Part) (ring seq : Nat) (d : Desc) : Nat :=
  let k := s.ringKind p ring
  let slotOk : Bool := match slotNamed p d with
    | some n => (s.ring p ring).slots.contains n
    | none => true
  if !s.tagOk p ring seq d then 1
  else if !opListed d.opcode then 2
  else if p == Part.dbx && d.opcode == 0x32 && !s.isRoot then 0x20
  else if !opAccepted p d.opcode then 3
  else if !(opRings d.opcode).contains k then 4
  else if opConductor p d.opcode && s.condRole == 1 then 0xB
  else if s.scrubbing p && !([0, 0x31, 0x40, 0x50].contains d.opcode) then 0xC
  else if !s.fieldsOk p d then 5
  else if !s.extOk p ring seq d then 6
  else if !s.contentOk p d then 5
  else if policyInput p d && s.condRole == 1 then 0xB
  else if !slotOk then 7
  else 0

/-- DESCRIPTOR_FETCH (R197 to R209): the next descriptor below the tail is fetched while no completion waits; one with
fence set waits for those before it. It consumes a sequence number and is checked: one that fails completes with its
status, one of the conductor's is held for commit, another is ready to execute. -/
def execDescriptorFetch (p : Part) (ring : Nat) (d : Desc) (s : State) : Res :=
  onLive p s fun s =>
    let t := s.ring p ring
    let n := s.rd (F.ringSqHeadConsumed p) ring
    if !s.ringRuns p ring || !t.waiting.isEmpty || n == t.sqTail || (bit d.flags 1 && !t.flight.isEmpty) then s
    else
      let q := s.rd64 (F.ringSeqLoSeq p) (F.ringSeqHiSeq p) ring
      let seq := q + 2 ^ 64 * t.bind
      let s := ((s.wr (F.ringSqHeadConsumed p) (n + 1) ring).wr64 (F.ringSeqLoSeq p) (F.ringSeqHiSeq p) (q + 1)
        ring).fetchAhead p ring
      let st := s.descStatus p ring q d
      let input := opConductor p d.opcode || policyInput p d
      let f : InFlight := { seq := seq, desc := if st = 1 then { d with cookie := 0 } else d, committed := !input, tenant := t.tenant
                            kind := s.ringKind p ring, key := t.key, slots := t.slots, order := (s.node p).starts }
      let s := (s.modRing p ring fun t => { t with flight := t.flight ++ [f] }).modNode p fun x => { x with starts := x.starts + 1 }
      if st = 1 then (s.bump (F.ringBadTagCount p) ring).finish p ring seq 1 0 0
      else if st ≠ 0 then s.finish p ring seq st 0 0
      else if input then s.holdInput (s.descSlot d) (.descriptor ring seq d f.tenant f.kind)
      else s

/-- NOP (R205): completes OK. -/
def execNop (p : Part) (ring seq : Nat) (s : State) : Res :=
  onLive p s fun s => s.withDesc p ring seq 0 fun _ s => s.finish p ring seq 0 0 0

end Sys2Proof.Machine
end

