-- ==== Sys2Proof/Machine/Channels.lean ====
section
/-! DEFINITION. The life of a channel at both parts (R210 to R218): CH_CREATE to CH_DESTROY, quarantine, the DESTROYED
event, and EPOCH_SWAP. -/

namespace Sys2Proof.Machine

/-! ### The channel checks (R207, R217) -/

/-- Status of the channel checks of R207 for a tenant: 8 where the handle names no current channel, 7 where it is
another tenant's and the ring is no manager's; 0 when they hold. -/
def gateStatus (current : Option Nat) (tenant kind : Nat) : Nat :=
  match current with
  | none => 8
  | some t => if t ≠ tenant && kind ≠ 3 then 7 else 0

/-- Tenant of the channel that a handle names at the conductor. -/
def State.condTenant (s : State) (handle : Nat) : Option Nat :=
  ((s.chan (hIndex handle)).filter fun c => c.r.handle == handle).map (·.tenant)

/-- Tenant of the channel that a handle names at a TSU; with any_gen that of the index, whatever its generation. -/
def State.tsuTenant (s : State) (handle : Nat) (anyGen : Bool) : Option Nat :=
  ((fget? s.t.chans (hIndex handle)).filter fun c => anyGen || c.gen == hGen handle).map (·.tenant)

/-- A conductor descriptor that names a channel: the checks, then what it does with the channel. -/
def State.withChan (s : State) (ring seq : Nat) (x : InFlight) (f : CondChan → State → State) : State :=
  let d := x.desc
  let g := gateStatus (s.condTenant d.handle) x.tenant x.kind
  if g ≠ 0 then s.finish .dbx ring seq g 0 0
  else match s.chan (hIndex d.handle) with
    | some c => f c s
    | none => s

/-! ### CH_CREATE (R211) -/

/-- The first number that a list of numbers lacks, of `n` tried. -/
def firstFree (l : List Nat) : Nat → Nat → Nat
  | 0, k => k
  | n + 1, k => if l.contains k then firstFree l n (k + 1) else k

/-- The lowest index of the conductor that is free and out of quarantine. -/
def State.freeIndex (s : State) : Nat :=
  let used := s.d.chans.map (·.1) ++ s.dbx.quar.map (·.1)
  firstFree used (used.length + 1) 0

/-- One more index is in use. -/
def State.countCreate (s : State) (p : Part) : State :=
  (s.wr (F.chCountInUse p) (s.rd (F.chCountInUse p) + 1)).bump (F.chCreatedCount p)

/-- CH_CREATE at the conductor. -/
def State.condCreate (s : State) (ring seq : Nat) (f : InFlight) : State :=
  let d := f.desc
  let slot := opnd d 40 1
  let i := s.freeIndex
  if 2 ^ 18 ≤ i || s.rd F.condShareChChannels slot ≤ (s.d.chans.filter fun x => x.2.r.slot == slot).length then
    s.finish .dbx ring seq 0xA 0 0
  else
    let h := mkHandle (s.gen .dbx i) i
    let c : CondChan :=
      { state := 1, tenant := f.tenant,
        r := { handle := h, slot := slot, attempt := fgetD s.d.attempts i 0 } }
    ((s.modD fun x => { x with chans := fset x.chans i c }).countCreate .dbx).finish .dbx ring seq 0 h 0

/-- CH_CREATE at a TSU: the handle that host software gives becomes current. -/
def State.tsuCreate (s : State) (ring seq : Nat) (f : InFlight) : State :=
  let d := f.desc
  let i := hIndex d.handle
  if (fget? s.t.chans i).isSome then s.finish .tsu ring seq 9 0 0
  else if s.inQuarantine .tsu i then s.finish .tsu ring seq 0xA 0 0
  else
    let g := hGen d.handle
    let old := s.gen .tsu i
    let c : TsuChan := { state := 1, gen := g, tenant := f.tenant, ctx := d.ext.take 64 }
    let s := (s.modT fun t => { t with chans := fset t.chans i c }).modNode .tsu fun n => { n with gens := fset n.gens i g }
    let s := if old = g then s else s.genUpdate i
    (s.countCreate .tsu).finish .tsu ring seq 0 0 0

/-- CH_CREATE. -/
def execChCreate (p : Part) (ring seq : Nat) (s : State) : Res :=
  onLive p s fun s =>
    s.withDesc p ring seq 1 fun f s =>
      match p with
      | .tsu => s.tsuCreate ring seq f
      | .dbx => s.condCreate ring seq f

/-! ### CH_BIND (R206, R213, R215, R147, R162) -/

/-- The channel may be bound: CREATED, or BOUND and idle or halted (Table 9.6). -/
def restful (c : CondChan) : Bool := c.r.exec == 0 || c.r.exec == 5

/-- A LAUNCH word of a plan reaches beyond a frame of `f` link frames (R34, R147). -/
def Plan.reaches (q : Plan) (f : Nat) : Bool :=
  q.variants.any fun l => l.any fun w => wordOp w == 1 && f * 8192 ≤ bits w 13 20 * 8192 + bits w 0 13

/-- The record that a bind block gives (Table 9.4, R162). -/
def bindRecord (old : ChRec) (plan : Nat) (d : Desc) : ChRec :=
  let e := d.ext
  { handle := old.handle, slot := old.slot, attempt := old.attempt,
    plan := plan, variant := opnd d 42 1, baseVariant := opnd d 42 1, ring := opnd d 43 1, grid := opnd d 44 2,
    g := (List.range 8).map fun i => leNat e (8 * i) 8,
    temperature := leNat e 64 4, topP := leNat e 68 4, topK := leNat e 72 2, epochStrict := bit (e.getD 74 0) 0,
    maxTokens := leNat e 76 4, stop := [leNat e 80 4, leNat e 84 4], seed := leNat e 88 8, epoch := leNat e 96 4 }

/-- CH_BIND at the conductor: after the channel checks the plan, the base variant, the POST ring and the limits. The POST
ring is one of the active member's, where it is checked (R206, log 54). -/
def State.condBind (s : State) (ring seq : Nat) (d : Desc) (c : CondChan) : State :=
  let i := hIndex d.handle
  let pi := bits (opnd d 40 2) 0 12
  let post := opnd d 43 1
  let slot := c.r.slot
  if !(c.state == 1 || restful c) then s.finish .dbx ring seq 9 0 0
  else if s.rd F.condGridSlot (opnd d 44 2) ≠ slot then s.finish .dbx ring seq 5 0 0
  else match (fget? s.d.plans pi).filter fun q => q.slot == slot && !q.retiring with
    | none => s.finish .dbx ring seq 0x13 0 0
    | some q =>
      let others := s.d.chans.filter fun x => x.2.state == 2 && x.1 != i
      if q.variants.length ≤ opnd d 42 1 then s.finish .dbx ring seq 5 0 0
      else if ring < 256 && (s.ringKind .dbx post ≠ 2 || (s.ring .dbx post).tenant ≠ c.tenant) then s.finish .dbx ring seq 7 0 0
      else if s.rd F.condShareChChannels slot ≤ (others.filter fun x => x.2.r.slot == slot).length
          || q.maxChannels ≤ (others.filter fun x => x.2.r.plan == pi).length
          || q.reaches (s.condFrame (opnd d 44 2)) then s.finish .dbx ring seq 0x14 0 0
      else
        let b : CondChan := { state := 2, tenant := c.tenant, r := bindRecord c.r pi d, chosen := opnd d 42 1,
                              aborts := c.aborts }
        let s := (s.modD fun x => { x with chans := fset x.chans i b }).showBound slot
        let s := if c.state = 2 then s.dropPlan c.r.plan else s
        s.finish .dbx ring seq 0 0 0

/-- CH_BIND at a TSU: the target mask, and the context word when the extension carries one. -/
def State.tsuBind (s : State) (ring seq : Nat) (f : InFlight) : State :=
  let d := f.desc
  let i := hIndex d.handle
  let g := gateStatus (s.tsuTenant d.handle false) f.tenant f.kind
  if g ≠ 0 then s.finish .tsu ring seq g 0 0
  else if s.t.arm.any fun x => x.2.cz.handle == d.handle then s.finish .tsu ring seq 9 0 0
  else
    let ts := bitsOfWords (d.ext.take 32) 8
    let s := s.modT fun t => { t with chans := fmod t.chans i { state := 1, gen := hGen d.handle, tenant := 0 } fun c =>
      { c with state := 2, targets := ts, ctx := if d.extLen = 96 then d.ext.drop 32 else c.ctx } }
    s.finish .tsu ring seq 0 0 0

/-- CH_BIND. -/
def execChBind (p : Part) (ring seq : Nat) (s : State) : Res :=
  onLive p s fun s =>
    s.withDesc p ring seq 2 fun f s =>
      match p with
      | .tsu => s.tsuBind ring seq f
      | .dbx => s.withChan ring seq f fun c s => s.condBind ring seq f.desc c

/-! ### CH_ARM, CH_PAUSE, CH_RESUME (R214, R252, R269) -/

/-- CH_ARM: an idle or halted channel runs from a word, its step number kept. -/
def execChArm (ring seq : Nat) (s : State) : Res :=
  onLive .dbx s fun s =>
    s.withDesc .dbx ring seq 3 fun f s =>
      s.withChan ring seq f fun c s =>
        let pc := bits (opnd f.desc 40 4) 0 20
        if !(c.state == 2 && restful c) then s.finish .dbx ring seq 9 0 0
        else if !((s.planOf c).any fun q => pc < (q.variants.getD 0 []).length) then s.finish .dbx ring seq 5 0 0
        else
          (s.modCh (hIndex f.desc.handle) fun c =>
            { c with r := { c.r with exec := 1, pc := pc, stepOpen := false }
                     readyAt := s.dbx.lfn
                     wait := .none, inRun := false, run := keptRun c.run, resume := 0 }).finish .dbx ring seq 0 c.r.step 0

/-- CH_PAUSE: of a paused channel nothing changes; a replay that waits is paused at once, another channel at the first
word of its next step. -/
def execChPause (ring seq : Nat) (s : State) : Res :=
  onLive .dbx s fun s =>
    s.withDesc .dbx ring seq 4 fun f s =>
      s.withChan ring seq f fun c s =>
        let i := hIndex f.desc.handle
        if c.state ≠ 2 || restful c then s.finish .dbx ring seq 9 0 0
        else if c.r.exec = 4 then s.finish .dbx ring seq 0 c.r.step 0
        else if c.pauseBy.contains (ring, seq) then s
        else
          let s := s.modCh i fun c => { c with pauseBy := c.pauseBy ++ [(ring, seq)] }
          if c.r.exec = 6 then s.pauseNow i 6 else s

/-- CH_RESUME: the channel continues where its pause left it; a step that waits for its replay is replayed, its count of
replays at 0 again. A channel whose role's state was lost does not resume. -/
def execChResume (ring seq : Nat) (s : State) : Res :=
  onLive .dbx s fun s =>
    s.withDesc .dbx ring seq 5 fun f s =>
      s.withChan ring seq f fun c s =>
        let i := hIndex f.desc.handle
        if c.state ≠ 2 || c.r.exec ≠ 4 || c.stLost then s.finish .dbx ring seq 9 0 0
        else
          let s :=
            if c.resume = 6 then
              let s := s.modCh i fun c => { c with r := { c.r with exec := 6, replays := 0 }, resume := 0, faulted := false }
              if c.faulted then s.doReplay i else s.tryRestore i
            else s.modCh i fun c => { c with r := { c.r with exec := c.resume }, resume := 0, readyAt := s.dbx.lfn }
          s.finish .dbx ring seq 0 0 0

/-! ### CH_DESTROY (R216, R217) -/

/-- The swap of a destroyed channel ends without an epoch, and the channels held by it pass. -/
def State.dropSwap (s : State) (slot : Nat) (x : SwapRt) : State :=
  let s := (s.modD fun d => { d with swaps := fdel d.swaps slot }).wr F.condPartStatSwapActive 0 slot
  s.leaveSwap slot x

/-- The channel leaves the conductor at a commit count: its index takes the next generation and enters quarantine, its
holds, swaps and pauses end, and the DESTROY abort is queued; T_d is its emission count plus lead_lf. -/
def State.condDestroy (s : State) (ring seq ch : Nat) (c : CondChan) : State :=
  let slot := c.r.slot
  let ab := s.queueAbort slot ch c.r.handle 0 abDestroy (s.lead slot)
  let td := ab.2 + s.lead slot
  let s := ab.1.teardown .dbx ch td
  let s := s.modD fun d => { d with chans := fdel d.chans ch
                                    attempts := fset d.attempts ch c.r.attempt
                                    destroyed := fset d.destroyed ch ⟨ring, seq, td, c.r, c.state == 2⟩
                                    suspects := (d.suspects.map fun l => l.filter (· != ch)).filter fun l => !l.isEmpty }
  let s := c.pauseBy.foldl (fun s x => s.finish .dbx x.1 x.2 8 0 0) s
  let s := match s.swapOf slot with
    | some x => if x.ch = ch then s.dropSwap slot x else s
    | none => s
  (if c.state = 2 then (s.showBound slot).dropPlan c.r.plan else s).showPeri

/-- CH_DESTROY at a TSU: the channel is torn down at the processing count, which is the result. -/
def State.tsuDestroy (s : State) (ring seq : Nat) (f : InFlight) : State :=
  let d := f.desc
  let i := hIndex d.handle
  let g := gateStatus (s.tsuTenant d.handle (bit (opnd d 40 1) 0)) f.tenant f.kind
  if g ≠ 0 then s.finish .tsu ring seq g 0 0
  else match fget? s.t.chans i with
    | none => s
    | some c => (s.tearDown i c).finish .tsu ring seq 0 s.tsu.lfn 0

/-- CH_DESTROY. At the conductor the descriptor completes after T_d, by DESTROYED_EVENT. -/
def execChDestroy (p : Part) (ring seq : Nat) (s : State) : Res :=
  onLive p s fun s =>
    s.withDesc p ring seq 6 fun f s =>
      match p with
      | .tsu => s.tsuDestroy ring seq f
      | .dbx =>
        if s.d.destroyed.any fun x => x.2.ring == ring && x.2.seq == seq then s
        else s.withChan ring seq f fun c s => s.condDestroy ring seq (hIndex f.desc.handle) c

/-- DESTROYED_EVENT (R216, R167): at T_d the event is written to the POST ring when it has space, or queued at a shadow, and
then the completion of the descriptor with T_d and the quarantine. -/
def execDestroyedEvent (index : Nat) (s : State) : Res :=
  onLive .dbx s fun s =>
    match fget? s.d.destroyed index with
    | none => s
    | some x =>
      if s.dbx.lfn < x.td || (x.bound && !s.ringFree x.r.ring) then s
      else
        let s := s.modD fun d => { d with destroyed := fdel d.destroyed index }
        let e := chanPost x.r 2 0x84 0 0 true
        let s := if !x.bound then s
          else if s.isActive then s.writeCompletion .dbx x.r.ring e
          else s.modD fun d => { d with posts := d.posts ++ [(x.r.ring, e)] }
        s.finish .dbx x.ring x.seq 0 x.td (s.quarantineLf .dbx)

/-- The register that counts the indices in quarantine. -/
def State.showQuar (s : State) (p : Part) : State :=
  s.wr (F.chQuarQuarantined p) (if (s.node p).quarAll.isSome then 2 ^ 18 else (s.node p).quar.length)

/-- QUARANTINE_END (R212): the index returns to FREE at the first link frame at or after the end of its quarantine. The
quarantine in which a scrub has put every index ends for all of them at once, but for those that an earlier one keeps
longer (R297). -/
def execQuarantineEnd (p : Part) (index : Nat) (s : State) : Res :=
  onLive p s fun s =>
    match fget? (s.node p).quar index, (s.node p).quarAll with
    | some t, _ =>
      if s.lfn p < t then s else (s.modNode p fun n => { n with quar := fdel n.quar index }).showQuar p
    | none, some t => if s.lfn p < t then s else (s.modNode p fun n => { n with quarAll := none }).showQuar p
    | none, none => s

/-! ### EPOCH_SWAP (R205, R159) -/

/-- EPOCH_SWAP: every bound channel of the slot takes the epoch as its pending one, for an epoch crozier at its next step
close; with `all` that crozier names every channel (log 31). -/
def execEpochSwap (ring seq : Nat) (s : State) : Res :=
  onLive .dbx s fun s =>
    s.withDesc .dbx ring seq 0x21 fun f s =>
      let e := opnd f.desc 40 4
      let all := bit (opnd f.desc 44 1) 0
      let chs := s.slotChans (opnd f.desc 45 1)
      let s := chs.foldl (fun s i => s.modCh i fun c =>
        { c with r := { c.r with pending := e, pendingOk := true }
                 run := c.run.filter (fun x => x.addr != outsideWord) ++ [⟨outsideWord, true, all, 4096, 4, 0, 0, 0, .none⟩] }) s
      s.finish .dbx ring seq 0 0 chs.length

end Sys2Proof.Machine
end

