-- ==== Sys2Proof/Machine/Keys.lean ====
section
/-! DEFINITION. Link keys (R103 to R106, R285, R291): epochs, ratchets and the messages of a key exchange. A
distributor's security core runs its ports' exchanges; a TSU port passes its messages to the root of trust
(R291, R292), which installs the keys that result. -/

namespace Sys2Proof.Machine

/-- LINK_EPOCH_EXCHANGE_START (R104): the exchange for the next epoch, once half of the present one has passed. -/
def execLinkEpochExchangeStart (p : Part) (port : Nat) (s : State) : Res :=
  onLive p s fun s =>
    let t := s.port p port
    if t.keyed && s.up p port && 2 ^ 31 ≤ s.lfn p % 2 ^ 32 && !(t.nextOk && t.nextEpoch = s.lfn p / 2 ^ 32 + 1)
        && !(t.exch && t.exEpoch = s.lfn p / 2 ^ 32 + 1) then
      s.startExchange p port (s.lfn p / 2 ^ 32 + 1)
    else s

/-- KEY_RATCHET (R104): an end whose exchange is not complete at 0xFF00_0000 derives the next keys from the
current ones; a third ratchet in a row is not made. -/
def execKeyRatchet (p : Part) (port : Nat) (s : State) : Res :=
  onLive p s fun s =>
    let t := s.port p port
    let e := s.lfn p / 2 ^ 32 + 1
    if t.keyed && 0xFF000000 ≤ s.lfn p % 2 ^ 32 && !((t.nextOk || t.nextRat) && t.nextEpoch = e)
        && s.rd (F.portStateRatchets p) port < 2 then
      (s.ratchetTo p port e).bump (F.portStateRatchets p) port
    else s

/-- The transmit keys of an epoch come into force; keys of an exchange end the run of ratchets (R104). -/
def State.takeNextTx (s : State) (p : Part) (port e : Nat) : State :=
  let ok := (s.port p port).nextOk
  let s := s.modPort p port fun t => { t with txKey := t.nextTx, txEpoch := e }
  if ok then s.wr (F.portStateRatchets p) 0 port else s

/-- EPOCH_BOUNDARY (R104, R105): the node's labels have entered a later key epoch. The keys of that epoch come
into force; with none, a third ratchet in a row ends in AUTH_DOWN, and a jump ratchets once and starts a new
exchange. -/
def execEpochBoundary (p : Part) (port : Nat) (s : State) : Res :=
  onLive p s fun s =>
    let t := s.port p port
    let e := s.label p / 2 ^ 32
    let jump := (s.node p).jumpTo = some e || t.txEpoch + 1 < e
    if !t.keyed || e ≤ t.txEpoch then s
    else if (t.nextOk || t.nextRat) && t.nextEpoch = e || jump && t.nextOk && t.nextEpoch ≤ e then s.takeNextTx p port e
    else if !jump && s.rd (F.portStateRatchets p) port = 2 then s.authDown p port
    else (((s.ratchetTo p port e).takeNextTx p port e)).startExchange p port (e + 1)

/-- A peer is refused (R291): counted, an alert and the security interrupt. -/
def State.refusePeer (s : State) (p : Part) (port : Nat) : State :=
  let s := match p with
    | .tsu => s.bump F.tsecCertFailCount
    | .dbx => s.bump F.dsecCertFailCount
  ((s.interrupt p 6).raiseAlert p 0x291).modPort p port fun t =>
    { t with shared := false, sigOk := false }

/-- The peer is acceptable (R1, R285, R291): its chain verifies, its UID is that of the ident page, and a part of
its kind may stand at the port. -/
def State.acceptPeer (s : State) (p : Part) (port : Nat) (c : PeerCert) : Bool :=
  c.chainOk && c.uid == s.rd64 (F.portPeerLoUid p) (F.portPeerHiUid p) port && (p == Part.dbx || c.isDbx)

/-- LINK_CERT (R291): the peer's chain is accepted or refused; a TSU passes the message on. -/
def execLinkCert (p : Part) (port : Nat) (cert : PeerCert) (s : State) : Res :=
  onLive p s fun s =>
    if portCount p ≤ port then s
    else
      let s := match p with
        | .tsu => s.mbLink port (toLe 8 1 ++ toLe 4 cert.chain.length ++ cert.chain)
        | .dbx => s
      if s.acceptPeer p port cert then s.modPort p port fun t => { t with cert := some cert }
      else (s.refusePeer p port).modPort p port fun t => { t with cert := none }

/-- The keys of an exchange at a distributor port (R291): T, the two direction keys and the confirm key. -/
def State.deriveKeys (s : State) (port epoch nonce pub : Nat) : State :=
  let t := s.port .dbx port
  let ix := exchIndex .dbx port (t.exCount - 1)
  let par := s.parentEnd .dbx port
  let mine := shareBytes epoch (Config.ephemeralNonce ix) (Config.ephemeralPub ix)
  let theirs := shareBytes epoch nonce pub
  let uid := toLe 8 (s.rd64 (F.uidLoUid .dbx) (F.uidHiUid .dbx))
  let peer := toLe 8 (s.rd64 (F.portPeerLoUid .dbx) (F.portPeerHiUid .dbx) port)
  let tr := Config.sha384 (if par then mine ++ theirs ++ uid ++ peer else theirs ++ mine ++ peer ++ uid)
  let n0 := toLe 32 (Config.ephemeralNonce ix)
  let n1 := toLe 32 nonce
  let okm := Config.hkdf (if par then n0 ++ n1 else n1 ++ n0) (Config.ecdhX ix pub) (infoLink ++ toLe 8 epoch) 96
  let k := dirKeys par (leNat okm 0 32, leNat okm 32 32)
  s.modPort .dbx port fun t =>
    { t with shared := true, pendTx := k.1, pendRx := k.2, confirm := (okm.drop 64).take 32, transcript := tr }

/-- LINK_SHARE (R291): the keys of the exchange are derived and SIG is sent; a peer that has begun first starts
this end's exchange. -/
def execLinkShare (p : Part) (port epoch nonce pub : Nat) (s : State) : Res :=
  onLive p s fun s =>
    if portCount p ≤ port || !(s.node p).labelled || s.rd (F.portStateState p) port < 3 then s
    else match p with
      | .tsu => s.mbLink port (shareBytes epoch nonce pub)
      | .dbx =>
        let t := s.port .dbx port
        let s := if t.exch && t.exEpoch = epoch then s else s.startExchange .dbx port epoch
        let s := s.deriveKeys port epoch nonce pub
        s.sendKey .dbx port 3 [Config.aliasSign (s.port .dbx port).transcript]

/-- LINK_SIG (R291): a valid signature of the peer's alias key over T is answered with CONFIRM. -/
def execLinkSig (p : Part) (port sig : Nat) (s : State) : Res :=
  onLive p s fun s =>
    if portCount p ≤ port then s
    else match p with
      | .tsu => s.mbLink port (toLe 8 3 ++ toLe 96 sig)
      | .dbx =>
        let t := s.port .dbx port
        match t.cert with
        | none => if t.exch then s.refusePeer .dbx port else s
        | some c =>
          if !(t.exch && t.shared) then s
          else if Config.ecdsaVerify c.alias_ t.transcript sig then
            (s.modPort .dbx port fun t => { t with sigOk := true }).sendKey .dbx port 4
              [Config.hmacConfirm t.confirm t.transcript]
          else s.refusePeer .dbx port

/-- An exchange is complete: its keys come into force on a port that had none, and wait for their epoch on a
port that has (R104, R106, R107). -/
def State.exchangeDone (s : State) (p : Part) (port epoch tx rx : Nat) : State :=
  if (s.port p port).keyed then
    s.modPort p port fun t =>
      { t with exch := false, nextEpoch := epoch, nextTx := tx, nextRx := rx, nextOk := true, nextRat := false }
  else
    let s := (s.modPort p port fun t =>
      { t with exch := false, keyed := true, txKey := tx, txEpoch := epoch, rxKey := rx, rxEpoch := epoch,
               nextOk := false, nextRat := false, tagFails := [] }).wr (F.portStateRatchets p) 0 port
    if [3, 7].contains (s.rd (F.portStateState p) port) then s.setPort p port 4 else s

/-- LINK_CONFIRM (R103, R104, R107, R291): the peer's confirmation completes the exchange. -/
def execLinkConfirm (p : Part) (port mac : Nat) (s : State) : Res :=
  onLive p s fun s =>
    if portCount p ≤ port then s
    else match p with
      | .tsu => s.mbLink port (toLe 8 4 ++ toLe 16 mac)
      | .dbx =>
        let t := s.port .dbx port
        if !(t.exch && t.shared && t.sigOk) then s
        else if Config.hmacConfirm t.confirm t.transcript = mac then
          s.exchangeDone .dbx port t.exEpoch t.pendTx t.pendRx
        else s.refusePeer .dbx port

/-! ### Keys installed by the root of trust (R292) -/

/-- Key words of TSU_KEY_DATA as one number. -/
def State.keyData (s : State) : Nat := (List.range 8).foldr (fun w a => fgetD s.t.keyData w 0 + 2 ^ 32 * a) 0

/-- A link key is installed at a TSU port; both directions complete the pair, for the epoch of the port's labels
or the next one (log 17). -/
def State.installLinkKey (s : State) (port : Nat) (rx next : Bool) (key : Nat) : State :=
  let s := s.modPort .tsu port fun t =>
    if rx then { t with pendRx := key, gotRx := true } else { t with pendTx := key, gotTx := true }
  let t := s.port .tsu port
  if t.gotTx && t.gotRx then
    let s := s.modPort .tsu port fun t => { t with gotTx := false, gotRx := false }
    let e := s.label .tsu / 2 ^ 32
    if next then s.exchangeDone .tsu port (e + 1) t.pendTx t.pendRx
    else (s.modPort .tsu port fun t => { t with keyed := false }).exchangeDone .tsu port e t.pendTx t.pendRx
  else s

end Sys2Proof.Machine
end

