-- ==== Sys2Proof/Machine/Frame.lean ====
section
/-! DEFINITION. The link frames a port sends (R86 to R94, R98, R99, R102, R107, R112 to R114): its slots with their check words,
the replayed slots and their descriptors, the message area, the window of the degraded layout, and the tag. -/

namespace Sys2Proof.Machine

/-! ### Slots and the tag -/

/-- A slot of data words, filled with zero words to 15, with its check word (R89, R90). -/
def mkSlot (ws : List Nat) (replay : Bool) : Slot :=
  let d := (List.range 15).map fun i => ws.getD i 0 % 2 ^ 32
  ⟨d, checkWord d replay⟩

/-- The additional data of a link frame's tag (R102). -/
def tagData (layout : Nat) (slots : List Slot) : List Byte :=
  wordsToBytes ((slots.zipIdx).flatMap fun x =>
    if layout = 0 && x.2 = 7 then (x.1.words.drop 4).take 9
    else if layout ≠ 0 && x.2 = 0 then x.1.words.take 8 ++ x.1.words.drop 11
    else x.1.words)

/-- The 64-bit tag that a link frame carries (Table 5.4, R94). -/
def tagCarried (layout : Nat) (slots : List Slot) : Nat :=
  let w := fun i k => ((slots.getD i ⟨[], 0⟩).words.getD k 0)
  if layout = 0 then w 7 13 + 2 ^ 32 * w 7 14 else w 0 9 + 2 ^ 32 * w 0 10

/-- The tag that a link frame carries under a key (R102). -/
def frameTag (key dir label layout : Nat) (slots : List Slot) : Nat :=
  Config.gcmTag key (label + 2 ^ 64 * dir) (tagData layout slots) % 2 ^ 64

/-- A port's link frames in the full layout (0), or in the degraded one on lane 0 or 1 (1, 2). -/
def State.txLayout (s : State) (p : Part) (port : Nat) : Nat :=
  let lanes := s.rd (F.portStateTxLanes p) port
  if lanes = 1 || lanes = 2 then lanes else 0

/-! ### Plan positions and replays (R98, R99) -/

/-- The plan positions in the order in which they begin, of two that begin together that of lane 0 first (Table 5.1). -/
def planOrder (layout : Nat) : List Nat := if layout = 0 then [4, 1, 5, 2, 3, 6] else [1, 2, 3]

/-- The carrier that announces a replayed slot: the first that begins at or after the slot does. 0 is the first carrier of
the same link frame, 1 is its S7, 2 the first carrier of the next one (R99). -/
def carrierOf (layout k : Nat) : Nat :=
  if layout ≠ 0 then 2 else if k = 4 then 0 else if k = 3 || k = 6 then 2 else 1

/-- A replay descriptor entry: label and slot, carrying position, and prev (Table 5.4). -/
def rdwEntry (x : Nat × Nat) (pos : Nat) (prev : Bool) : Nat :=
  x.1 % 256 + 2 ^ 8 * (x.2 % 8) + 2 ^ 11 * (pos % 8) + 2 ^ 14 * b2n prev + 2 ^ 15

/-- The words of a slot that the retry buffer holds; a requested S7 goes as its words w4 to w14 (R99). -/
def PortRt.heldWords (t : PortRt) (x : Nat × Nat) : Option (List Nat) :=
  match t.retry.find? fun f => f.label == x.1 with
  | none => none
  | some f => (f.slots[x.2]?).map fun w =>
      if f.layout = 0 && x.2 = 7 then List.replicate 4 0 ++ w.words.drop 4 else w.words

/-- What the plan positions of a link frame hold: their slots by position, the descriptor entries by carrier, and what is
left of the queues and of the replays. -/
structure Placed where
  slots : List (Nat × Slot)
  ann   : List (Nat × Nat)
  queue : List QItem
  left  : List (Nat × Nat)
deriving DecidableEq, Repr

/-- The entries that a carrier announces. -/
def Placed.entries (a : Placed) (c : Nat) : List Nat := (a.ann.filter fun x => x.1 == c).map (·.2)

/-- One plan position: a replayed slot first, where its carrier still has an entry for it, else the head of the queue of the
position's share and class (R98). -/
def State.placeSlot (s : State) (p : Part) (layout : Nat) (es : List Nat) (t : PortRt) (a : Placed) (k : Nat) : Placed :=
  let c := carrierOf layout k
  let room : Bool := (if c = 0 then t.rdwNext.length else 0) + (a.entries c).length < 2
  match a.left, room with
  | x :: rest, true =>
    { a with slots := a.slots ++ [(k, mkSlot ((t.heldWords x).getD []) true)],
             ann := a.ann ++ [(c, rdwEntry x k (c == 2))], left := rest }
  | _, _ =>
    let r := s.fillPosition p (es.getD (k - 1) 0) a.queue
    { a with slots := a.slots ++ [(k, mkSlot (positionWords r.1) false)], queue := r.2 }

/-- The plan positions of a link frame of a port that is UP; replays of link frames no longer held are ignored (R100). -/
def State.placeFrame (s : State) (p : Part) (layout : Nat) (es : List Nat) (t : PortRt) : Placed :=
  (planOrder layout).foldl (s.placeSlot p layout es t)
    ⟨[], [], t.queue, t.replayQ.filter fun x => (t.heldWords x).isSome⟩

/-! ### The message area (R112 to R114) -/

/-- The age of a dynamic record, by its first LFN (R113). -/
def dynAge (now : Nat) (r : DynRec) : Nat := (now + 2 ^ 16 - r.firstLfn) % 2 ^ 16

/-- The oldest record of a table, the first of several. -/
def oldest (now : Nat) : List DynRec → Option DynRec
  | [] => none
  | r :: l => match oldest now l with
    | none => some r
    | some q => if dynAge now q ≤ dynAge now r then some r else some q

/-- Counts of the records and channel-2 messages that the node has sent upward within 16 link frames (R114, R256). -/
def State.sentUp (s : State) (p : Part) : List Nat := (s.node p).dynSent.filter fun c => s.lfn p < c + 16

/-- The oldest dynamic record leaves the table, where the rate of 16 link frames allows (R113, R114). -/
def State.nextRecord (s : State) (p : Part) : State × List DynRec :=
  let n := s.node p
  let sent := s.sentUp p
  if s.rd (F.s7RateRate p) ≤ sent.length then (s, [])
  else match oldest (n.lfn % 2 ^ 16) n.dyn with
    | none => (s, [])
    | some r => (s.modNode p fun n => { n with dyn := n.dyn.filter fun e => e != r, dynSent := sent ++ [n.lfn] }, [r])

/-- The port that carries the node's dynamic records: its first uplink that is UP (log 148). -/
def State.dynPort (s : State) (p : Part) : Option Nat :=
  if p == Part.dbx && s.isRoot then none else (uplinks p).find? fun i => s.up p i

/-- A message of dynamic records: two of them, as far as there are two (R113). -/
def State.takeDyn (s : State) (p : Part) (port : Nat) : Option (State × List Nat) :=
  if s.up p port && s.dynPort p = some port then
    let a := s.nextRecord p
    let b := a.1.nextRecord p
    let rs := a.2 ++ b.2
    if rs.isEmpty then none
    else
      let n := (s.port p port).msgSeq
      some (b.1.modPort p port fun t => { t with msgSeq := (n + 1) % 256 },
        segWords ⟨2, 0, n, true, true, rs.flatMap recBytes⟩)
  else none

/-- A segment of a key message, or else of a management message; a channel-2 message starts only within the rate (R256). -/
def State.takeCtl (s : State) (p : Part) (port : Nat) : Option (State × List Nat) :=
  let t := s.port p port
  match (if [3, 4, 7].contains (s.rd (F.portStateState p) port) then t.keyQ else []),
      (if s.up p port then t.mgmtQ else []) with
  | m :: l, _ => some (s.modPort p port fun t => { t with keyQ := l }, segWords m)
  | [], m :: l =>
    let counts := m.channel = 2 && m.first
    let sent := s.sentUp p
    if counts && s.rd (F.s7RateRate p) ≤ sent.length then none
    else
      let s := s.modPort p port fun t => { t with mgmtQ := l }
      some (if counts then s.modNode p fun n => { n with dynSent := sent ++ [n.lfn] } else s, segWords m)
  | [], [] => none

/-- The message that S7 w4 to w12 carry: key and management messages first on even labels, dynamic records first on odd ones
(R112). -/
def State.takeMsg (s : State) (p : Part) (port : Nat) (even : Bool) : State × List Nat :=
  let r := if even then (s.takeCtl p port).orElse fun _ => s.takeDyn p port
    else (s.takeDyn p port).orElse fun _ => s.takeCtl p port
  r.getD (s, List.replicate 9 0)

/-! ### Link frames -/

/-- The link control word with a NAK (Table 5.4). -/
def lcwWord (acked : Nat) (nak : Option (Nat × Nat)) : Nat :=
  acked % 2 ^ 16 + match nak with
    | some x => 2 ^ 16 * (x.1 % 256) + 2 ^ 24 * (x.2 % 256)
    | none => 0

/-- The replay descriptor word of at most two entries (Table 5.4). -/
def rdwWord (es : List Nat) : Nat := es.getD 0 0 + 2 ^ 16 * es.getD 1 0

/-- S7 w2: the lanes wanted, the announced change of layout, and the port's state (Table 5.4). -/
def State.s7Control (s : State) (p : Part) (port : Nat) : Nat :=
  let t := s.port p port
  t.want % 4 + (match t.switchAt with | some x => 4 * (x.1 % 256) + 2 ^ 10 | none => 0)
    + 2 ^ 11 * s.rd (F.portStateState p) port

/-- In the degraded layout a group of four link frames opens with its page, its message and the label's high word; in its
other link frames the window goes on, and pages that come due wait for the next group (R94, log 148). -/
def State.openWindow (s : State) (p : Part) (port : Nat) : State :=
  if s.lfn p % 4 = 0 then
    let page := s.pageOf p port
    let hi := (s.s0Words p port page 0 0).drop 8
    let r := s.takeMsg p port (s.label p / 4 % 2 == 0)
    (r.1.pageSent p port).modPort p port fun t => { t with txWin := hi ++ r.2, txPage := page }
  else
    let due := s.pagesDue p port
    if (s.port p port).pages = due then s else s.modPort p port fun t => { t with pages := due }

/-- The control slots of a link frame before its tag, with what they take from the state: S0 and S7, or SC. -/
def State.controlSlots (s : State) (p : Part) (port layout : Nat) (lcw rdw : Nat → Nat) : State × List Nat × List Nat :=
  let scrub := s.rd (F.portStateState p) port = 6
  if layout = 0 then
    let page := s.pageOf p port
    let s0 := s.s0Words p port page (lcw 0) (rdw 0)
    let r := s.takeMsg p port (s.label p % 2 == 0)
    (r.1.pageSent p port, s0,
      if scrub then [] else [lcw 1, rdw 1, s.s7Control p port, 0] ++ r.2)
  else
    let s1 := s.openWindow p port
    let t := s1.port p port
    let s0 := s1.s0Words p port (if t.txWin.isEmpty then 0 else t.txPage) (lcw 0) (rdw 0)
    (s1, s0.take 8 ++ [if scrub then 0 else s1.s7Control p port, 0, 0]
      ++ (List.range 4).map fun i => t.txWin.getD (s.lfn p % 4 * 4 + i) 0, [])

/-- The tag goes into S7 w13 and w14, or SC w9 and w10 (Table 5.4, R94). -/
def withTag (layout : Nat) (s0 s7 : List Nat) (plan : List Slot) (tag : Nat) : List Slot :=
  if layout = 0 then
    mkSlot s0 false :: plan ++ [mkSlot ((s7 ++ List.replicate 13 0).take 13 ++ [tag % 2 ^ 32, tag / 2 ^ 32]) false]
  else mkSlot (s0.take 9 ++ [tag % 2 ^ 32, tag / 2 ^ 32] ++ s0.drop 11) false :: plan

/-- The tag of a link frame that the port sends: 0 until the port is keyed, and in SCRUB (R103, Table 5.7). -/
def State.sentTag (s : State) (p : Part) (port label layout : Nat) (slots : List Slot) : Nat :=
  let t := s.port p port
  if t.keyed && s.rd (F.portStateState p) port ≠ 6 then
    frameTag t.txKey (if s.parentEnd p port then 0 else 1) label layout slots
  else 0

/-- A port forms its link frame (R87, R107): on a port that is UP every slot, which the retry buffer then holds; else the
control slots, with every plan position idle. -/
def State.formFrame (s : State) (p : Part) (port : Nat) : State × LinkFrame :=
  let t := s.port p port
  let layout := s.txLayout p port
  let st := s.rd (F.portStateState p) port
  let l := s.label p
  let up := st = 4
  let pl := if up then s.placeFrame p layout (s.frameEntries p (s.txTmpl p port) (s.lfn p) (layout ≠ 0)) t
    else ⟨[], [], t.queue, t.replayQ⟩
  let naks := if up then t.nakQ.take (if layout = 0 then 2 else 1) else []
  let lcw := fun i => if st = 6 then 0 else lcwWord t.acked naks[i]?
  let rdw := fun i => rdwWord ((if i = 0 then t.rdwNext else []) ++ pl.entries i)
  let r := s.controlSlots p port layout lcw rdw
  let plan := (List.range (if layout = 0 then 6 else 3)).map fun i =>
    ((pl.slots.find? fun x => x.1 == i + 1).map (·.2)).getD (mkSlot [] false)
  let tag := r.1.sentTag p port l layout (withTag layout r.2.1 r.2.2 plan 0)
  let f : LinkFrame := ⟨l, layout, withTag layout r.2.1 r.2.2 plan tag⟩
  let s1 := r.1.modPort p port fun q =>
    { q with queue := pl.queue, replayQ := pl.left, rdwNext := pl.entries 2, nakQ := q.nakQ.drop naks.length,
             retry := if up then (f :: q.retry).take 128 else q.retry }
  ((s1.bump (F.portNakTxCount p) port naks.length).bump (F.portReplayTxCount p) port pl.ann.length, f)

/-- A link frame goes onto the fibre, block by block on both lanes; internal loopback returns it before the optics (R86, R87,
R111). -/
def State.transmit (s : State) (p : Part) (port : Nat) (f : LinkFrame) : State :=
  if s.rd (F.portCtrlLoop p) port = 1 then s.emit p (.loop port f)
  else if s.drivesFibre p port then
    ((s.emit p (.frame port f)).sendLane p port 0 (laneBlocks f 0)).sendLane p port 1 (laneBlocks f 1)
  else s

/-- A port's part of a link frame (R87, R107): nothing while DISABLED, nor from a part that has halted, whose optical outputs are
dark (R311); an UNKEYED or AUTH_DOWN port of a node with a label
count starts its exchange (R103, R105, R106). -/
def State.sendPort (s : State) (p : Part) (port : Nat) : State :=
  let st := s.rd (F.portStateState p) port
  if st = 0 || s.is (F.bootStatusHalted p) then s
  else
    let s := if (st = 3 || st = 7) && (s.node p).labelled && !(s.port p port).exch then
      s.startExchange p port (s.lfn p / 2 ^ 32) else s
    let r := s.formFrame p port
    r.1.transmit p port r.2

end Sys2Proof.Machine
end

