-- ==== Sys2Proof/Machine/Link.lean ====
section
/-! DEFINITION. The rhizoid link (chapter 5): the work of each link frame, reception and replay, lanes and
layout, the port controls, and the meaning of each command. -/

namespace Sys2Proof.Machine

/-! ### LINK_FRAME_START -/

/-- One unit of 0.625 ps of a pending correction is applied (R57). -/
def slewStep (d : Int) : Int := if 0 < d then d - 1 else if d < 0 then d + 1 else 0

/-- The count moves to the next link frame: LFN rises, SUB resets, a correction and a ramp are carried on, and
civil time advances by its increment (R24, R42, R57, R77). -/
def Node.nextFrame (n : Node) : Node :=
  let c := civilAfter n.civSec n.civFrac n.civInc 1
  { n with lfn := n.lfn + 1, sub := 0, frac := 0, slew := slewStep n.slew,
           ramp := n.ramp.map fun r => { r with applied := rampApplied r (n.lfn + 1) },
           civSec := c.1, civFrac := c.2, age := n.age + 1 }

/-- The repeaters count the link frame; one whose low 8 bits differ from the mesh leaves region_valid (R40). -/
def State.regionsCount (s : State) : State :=
  s.t.regions.foldl (fun s x =>
    let r := x.1
    let s := s.modRegion r fun g => { g with lfn := g.lfn + 1 }
    if (s.region r).marked && (s.region r).lfn % 256 ≠ s.tsu.lfn % 256 then
      s.regionError r
    else s) s

/-- A root's record goes to its log of 4,096 entries (R275). -/
def State.logRecord (s : State) (r : DynRec) : State :=
  let l := s.d.recLog
  let l' := if (l.filter fun e => e.type ≠ 15).length < 4096 then l ++ [r]
    else (dynInto (dynOverflow r) l).getD (l ++ [dynOverflow r])
  let s := s.modD fun d => { d with recLog := l' }
  if 2048 < s.d.recLog.length && !s.is F.dhealthLogHalf then (s.wr F.dhealthLogHalf 1).interrupt .dbx 4 else s

/-- A root writes to its record log what it would send upward, two records in a link frame (R275). -/
def State.logRecords (s : State) : State :=
  let a := s.nextRecord .dbx
  let b := a.1.nextRecord .dbx
  (a.2 ++ b.2).foldl State.logRecord b.1

/-- LINK_FRAME_START (R24): the count, the civil time, the regions, and the link frame of every port. -/
def execLinkFrameStart (p : Part) (s : State) : Res :=
  onLive p s fun s =>
    let s1 := s.modNode p Node.nextFrame
    let s2 := match p with
      | .tsu => s1.regionsCount.oweReady
      | .dbx => s1.applyTables.showQl
    let s3 : State := (List.range (portCount p)).foldl (fun s i => s.sendPort p i) s2
    if p == Part.dbx && s3.isRoot then s3.logRecords else s3

/-! ### LINK_FRAME_RECEIVED -/

/-- The slots of a link frame that fail their check, by index. -/
def failedSlots (slots : List Slot) : List Nat :=
  (slots.zipIdx).filterMap fun x => if slotOk x.1 then none else some x.2

/-- A mask of slots. -/
def slotMask (l : List Nat) : Nat := sumNat (l.map (2 ^ ·))

/-- The tag of a received link frame verifies under a key (R102). -/
def frameTagOk (key dir label layout : Nat) (slots : List Slot) : Bool :=
  frameTag key dir label layout slots == tagCarried layout slots

/-- The receive keys that may serve a label's later epoch (R104, R105), the one this end itself expects first: the keys of a
completed exchange, which also serve a jump, or the ratchet that it has made; the keys of an exchange that the peer may
already hold complete; and one ratchet to the epoch. -/
def State.rxCandidates (s : State) (p : Part) (port e : Nat) : List Nat :=
  let t := s.port p port
  let par := s.parentEnd p port
  let d := dirKeys par (t.txKey, t.rxKey)
  (if t.nextOk && t.nextEpoch ≤ e || t.nextRat && t.nextEpoch = e then [t.nextRx] else [])
    ++ (if t.shared && t.exEpoch ≤ e then [t.pendRx] else [])
    ++ [(dirKeys par (ratchet d.1 d.2 e)).2]

/-- The keys tried for a label of a later epoch: within 1,024 link frames of the epoch's first label every candidate, after
that the one this end expects (R104). -/
def State.triedKeys (s : State) (p : Part) (port label : Nat) : List Nat :=
  let l := s.rxCandidates p port (label / 2 ^ 32)
  if label < ((s.port p port).newEpochAt.getD label) + 1024 then l else l.take 1

/-- A key has passed for a label of a later epoch: it is adopted. An end that holds nothing for that epoch has met a jump: it
records the ratchet and starts a new exchange at once (R105). -/
def State.adoptRx (s : State) (p : Part) (port e k : Nat) : State :=
  let t := s.port p port
  let s := if (t.nextOk || t.nextRat || t.shared && t.exEpoch ≤ e) then s
    else (s.ratchetTo p port e).startExchange p port (e + 1)
  s.modPort p port fun t => { t with prevRx := t.rxKey, rxKey := k, rxEpoch := e, newEpochAt := none }

/-- A label's tag is verified under the key of the label's own epoch; the key that passes for a later epoch is
adopted (R104). None: it fails. -/
def State.verifyTag (s : State) (p : Part) (port label layout : Nat) (slots : List Slot) : Option State :=
  let t := s.port p port
  let e := label / 2 ^ 32
  let dir := if s.parentEnd p port then 1 else 0
  if e = t.rxEpoch then (if frameTagOk t.rxKey dir label layout slots then some s else none)
  else if e + 1 = t.rxEpoch then (if frameTagOk t.prevRx dir label layout slots then some s else none)
  else if e < t.rxEpoch then none
  else ((s.triedKeys p port label).find? fun k => frameTagOk k dir label layout slots).map (s.adoptRx p port e)

/-- The first label of an epoch later than the receive key's is kept (R104). -/
def State.noteEpoch (s : State) (p : Part) (port label : Nat) : State :=
  let t := s.port p port
  if t.keyed && t.rxEpoch < label / 2 ^ 32 && t.newEpochAt.isNone then
    s.modPort p port fun t => { t with newEpochAt := some label }
  else s

/-- A node without a label count takes one from a trained parent port whose S0 has labelled set (R27, R105). A root member
that counts from its own first link frame takes the count of a twin that runs ahead of it, and follows a twin that is in
VALID (R27, R70). -/
def State.takeLabel (s : State) (p : Part) (port label : Nat) : State :=
  let n := s.node p
  if !((s.parentPorts p).contains port && !s.timeValid p && 3 ≤ s.rd (F.portStateState p) port) then s
  else if !n.labelled then
    s.modNode p fun n => { n with labelled := true, origin := false, lfn := label, sub := 0, frac := 0 }
  else if p == Part.dbx && n.origin then
    let s := s.modNode .dbx fun n =>
      if n.lfn < label then ({ n with origin := false, lfn := label, sub := 0, frac := 0 }).noteJump n.lfn
      else { n with origin := false }
    if (s.port .dbx port).pValid then s.wr F.selStatusMaster 0 else s.masterActs
  else s

/-- The page of an S0: the ident page gives the peer's UID and place (R91). Civil and close pages have commands of their own. -/
def State.usePage (s : State) (p : Part) (port code : Nat) (ws : List Nat) : State :=
  if code = 3 then
    (((s.wr (F.portPeerLoUid p) (ws.getD 0 0) port).wr (F.portPeerHiUid p) (ws.getD 1 0) port).wr
      (F.portPeerInfoInfo p) (ws.getD 2 0) port).modPort p port fun t => { t with ident := true }
  else s

/-- The words of an SC's window join its group of four link frames; a whole group gives the label's high word and a page
(R94). -/
def State.takeWindow (s : State) (p : Part) (port label : Nat) (ws : List Nat) : State :=
  let w := (ws.drop 11).take 4
  let k := label % 4
  let t := s.port p port
  let win := if k = 0 then w else if t.rxWin.length = 4 * k && t.lastLabel + 1 = label then t.rxWin ++ w else []
  let s := s.modPort p port fun t => { t with rxWin := win, rxHigh := t.rxHigh.map fun _ => label / 2 ^ 32 }
  if win.length = 16 then
    (s.modPort p port fun t => { t with rxHigh := some (win.getD 0 0), rxWin := [] }).usePage p port (bits (ws.getD 0 0) 12 2)
      ((win.drop 1).take 6)
  else s

/-- The state that a port enters from TRAINING once the ident page is in: UNKEYED, or ISOLATED while isolate or a loopback is
set (Table 5.7, R111). -/
def State.trainedState (s : State) (p : Part) (port : Nat) : Nat :=
  if s.is (F.portCtrlIsolate p) port || s.rd (F.portCtrlLoop p) port % 3 ≠ 0 then 5 else 3

/-- The content of a received S0, or SC, is used (R91, R94): the peer's time state, labels and code, its page, and the end of
TRAINING. -/
def State.useS0 (s : State) (p : Part) (port layout label : Nat) (ws : List Nat) : State :=
  let w0 := ws.getD 0 0
  let valid := bits w0 4 3 == 2 && bits w0 8 2 != 2 && bits w0 8 2 != 3
  let now := s.lfn p
  let s := s.modPort p port fun t =>
    { t with pValid := valid, pWas := t.pWas || valid, pSince := if valid && t.pValid then t.pSince else now,
             pLabelled := bit w0 25, pLabel := label, pAt := now, pQl := bits w0 0 4, pProv := bit w0 7, pService := bits w0 8 2 }
  let s := if layout = 0 then s.usePage p port (bits w0 12 2) (ws.drop 9) else s.takeWindow p port label ws
  let s := if s.rd (F.portStateState p) port = 2 && (s.port p port).ident then s.setPort p port (s.trainedState p port) else s
  let s := if bit w0 25 then s.takeLabel p port label else s
  if s.timePort p = some port then (s.wr (F.timeStatusProvisional p) (b2n (bit w0 7))).showSec else s

/-- The peer's port state: of S7 w2, or SC w8; a scrubbing peer sends no S7 and says so in S0 (Tables 5.4, 5.7). -/
def State.usePeerState (s : State) (p : Part) (port layout : Nat) (slots : List Slot) : State :=
  let w := fun i k => (slots.getD i ⟨[], 0⟩).words.getD k 0
  let st := if bits (w 0 0) 8 2 = 1 then 6 else bits (if layout = 0 then w 7 2 else w 0 8) 11 3
  s.modPort p port fun t => { t with pState := some st }

/-- Highest label up to which every link frame has been released or given up (Table 5.4). -/
def State.ackLabel (s : State) (p : Part) (port : Nat) : State :=
  s.modPort p port fun t => { t with acked := match t.missing with
    | [] => t.lastLabel
    | m :: l => l.foldl (fun a x => min a (x.label - 1)) (m.label - 1) }

/-- A NAK waits for the first carrier of the next link frame (R99). -/
def State.sendNak (s : State) (p : Part) (port label mask : Nat) : State :=
  s.modPort p port fun t => { t with nakQ := t.nakQ ++ [(label, mask)] }

/-- The content of a link frame is released (R98, R99): its slots that carry no replayed copies. `copies` names positions that
descriptors have named as such. -/
def State.release (s : State) (p : Part) (port label copies : Nat) (slots : List Slot) : State :=
  s.emit p (.released port label ((slots.zipIdx.filter fun x => !slotReplayed x.1 && !bit copies x.2).map (·.1.words)))

/-- A link frame waits for its slots after `naks` requests (R99); with nak_max of them made it is given up (R100). -/
def State.awaitSlots (s : State) (p : Part) (port : Nat) (f : LinkFrame) (mask naks : Nat) : State :=
  if max 1 (s.rd (F.linkCfgNakMax p)) ≤ naks then s.bump (F.portLostCount p) port
  else
    (s.modPort p port fun t =>
      { t with missing := t.missing ++ [⟨f.label, f.layout, f.slots, mask, naks + 1, s.lfn p, 0⟩] }).sendNak p port f.label mask

/-- A tag fails on a link frame whose slots all pass (R99, R106): it is requested whole and counted, and
tag_limit of them within 2^16 link frames put the port into AUTH_DOWN. -/
def State.tagFailed (s : State) (p : Part) (port : Nat) (f : LinkFrame) (naks : Nat) : State :=
  let now := s.lfn p
  let s := (s.bump (F.portTagFailCount p) port).modPort p port fun t =>
    { t with tagFails := (t.tagFails.filter fun c => now < c + 2 ^ 16) ++ [now] }
  if s.rd (F.linkCfgTagLimit p) ≤ (s.port p port).tagFails.length then s.authDown p port
  else s.awaitSlots p port f (2 ^ f.slots.length - 1) naks

/-- Slots counted as failed on a lane within 2^16 link frames; more than 64 ask for the degraded layout
(R109). -/
def State.countFails (s : State) (p : Part) (port layout : Nat) (bad : List Nat) : State :=
  let now := s.lfn p
  let add := fun lane (l : List Nat) => (l.filter fun c => now < c + 2 ^ 16)
    ++ ((bad.filter fun i => slotLane layout i = lane).map fun _ => now)
  let s := (s.bump (F.portSlotErrCount p) port bad.length).modPort p port fun t =>
    { t with fails0 := add 0 t.fails0, fails1 := add 1 t.fails1 }
  if layout ≠ 0 then s
  else if 64 < (s.port p port).fails0.length then s.degradeLane p port 0
  else if 64 < (s.port p port).fails1.length then s.degradeLane p port 1
  else s

/-- The slots of a link frame with one replaced. -/
def putSlot (slots : List Slot) (i : Nat) (x : Slot) : List Slot := slots.set i x

/-- A link frame that waited is whole: its own tag is verified, its content released, and the page of its S0 used (R92,
R99). -/
def State.healed (s : State) (p : Part) (port : Nat) (m : Missing) : State :=
  match s.verifyTag p port m.label m.layout m.slots with
  | none => s.tagFailed p port ⟨m.label, m.layout, m.slots⟩ m.naks
  | some s =>
    let ws := (m.slots.getD 0 ⟨[], 0⟩).words
    let s := if m.layout = 0 then s.usePage p port (bits (ws.getD 0 0) 12 2) (ws.drop 9) else s
    (s.release p port m.label m.copies m.slots).ackLabel p port

/-- One replay descriptor entry of a link frame acts (R93, R99): the replayed slot is put into its link frame. A position
whose copy has failed its check is noted, so that it is not released as content of the link frame that carried it. -/
def State.takeReplay (s : State) (p : Part) (port : Nat) (f : LinkFrame) (e : Nat) : State :=
  if !bit e 15 then s
  else
    let t := s.port p port
    let slot := bits e 8 3
    let pos := bits e 11 3
    let at_ := if bit e 14 then f.label - 1 else f.label
    let x := (if bit e 14 then t.lastSlots else f.slots).getD pos ⟨[], 0⟩
    if !slotOk x then
      s.modPort p port fun t => { t with missing := t.missing.map fun m =>
        if m.label = at_ then { m with copies := setBit m.copies pos true } else m }
    else match t.missing.find? fun m => m.label % 256 == e % 256 && bit m.mask slot with
    | none => s
    | some m =>
      let ws := if m.layout = 0 && slot = 7 then ((m.slots.getD 7 ⟨[], 0⟩).words.take 4) ++ x.words.drop 4 else x.words
      let m' := { m with slots := putSlot m.slots slot ⟨ws, bits x.check 0 31⟩, mask := setBit m.mask slot false }
      let rest := t.missing.filter fun q => q.label != m.label
      if m'.mask ≠ 0 then s.modPort p port fun t => { t with missing := rest ++ [m'] }
      else (s.modPort p port fun t => { t with missing := rest }).healed p port m'

/-- The replay descriptors of the two carriers of a link frame (R93). -/
def State.takeReplays (s : State) (p : Part) (port : Nat) (f : LinkFrame) : State :=
  let rd := fun i k => let x := f.slots.getD i ⟨[], 0⟩
    if slotOk x && !slotReplayed x then x.words.getD k 0 else 0
  let ws := if f.layout = 0 then [rd 0 5, rd 7 1] else [rd 0 5]
  ws.foldl (fun s w => (s.takeReplay p port f (bits w 0 16)).takeReplay p port f (bits w 16 16)) s

/-- Link frames that lie 128 behind the latest label are given up (R100). -/
def State.giveUpOld (s : State) (p : Part) (port : Nat) : State :=
  let t := s.port p port
  let old := t.missing.filter fun m => m.label + 128 ≤ t.lastLabel
  (s.bump (F.portLostCount p) port old.length).modPort p port fun t =>
    { t with missing := t.missing.filter fun m => t.lastLabel < m.label + 128 }

/-- The peer's acknowledgement frees the retry buffer (R99). -/
def State.takeAck (s : State) (p : Part) (port ack : Nat) : State :=
  let l := s.label p
  let full := ((l : Int) + toSigned 16 (ofSigned 16 ((ack : Int) - (l % 2 ^ 16 : Nat)))).toNat
  s.modPort p port fun t => { t with retry := t.retry.filter fun r => full < r.label }

/-- A link frame brings no S0 of use: its exchange yields a timeout at either end (R53). -/
def State.s0Missed (s : State) (p : Part) (port : Nat) : State :=
  let s := s.echoMiss p port
  if s.childEnd p port then s else s.closeParentSet p port

/-- A link frame in which slots fail (R53, R99, R109): the echo exchange yields a timeout when S0 is one of
them; the slots are asked for on an UP port, unless they lie on a lane that is being given up. -/
def State.receiveBad (s : State) (p : Part) (port : Nat) (f : LinkFrame) (bad : List Nat) : State :=
  let s0ok := !bad.contains 0
  let keyed := (s.port p port).keyed
  let s := if s0ok then s else s.s0Missed p port
  let s := if s0ok && !keyed then s.useS0 p port f.layout f.label ((f.slots.getD 0 ⟨[], 0⟩).words) else s
  if s.rd (F.portStateState p) port ≠ 4 then s
  else
    let want := (s.port p port).want
    let failing := bad.filter fun i => want ≠ 3 && slotLane f.layout i ≠ want - 1
    if f.layout = 0 && !failing.isEmpty then s.bump (F.portLostCount p) port
    else s.awaitSlots p port f (slotMask bad) 0

/-- A link frame whose slots all pass (R99, R103, R106): its tag is verified on a keyed port, its control slots are used and
its content released. A frame of a scrubbing peer carries tag 0 and no content (Table 5.7, log 15). -/
def State.receiveGood (s : State) (p : Part) (port : Nat) (f : LinkFrame) : State :=
  let w := fun i k => (f.slots.getD i ⟨[], 0⟩).words.getD k 0
  let ws := (f.slots.getD 0 ⟨[], 0⟩).words
  let scrub := bits (w 0 0) 8 2 == 1 && tagCarried f.layout f.slots == 0
  if !(s.port p port).keyed || scrub then (s.useS0 p port f.layout f.label ws).usePeerState p port f.layout f.slots
  else match s.verifyTag p port f.label f.layout f.slots with
    | none => (s.s0Missed p port).tagFailed p port f 0
    | some s =>
      let s := (s.useS0 p port f.layout f.label ws).usePeerState p port f.layout f.slots
      let s := s.takeAck p port (bits (w 0 4) 0 16)
      let s := if f.layout = 0 then s.takeAck p port (bits (w 7 0) 0 16) else s
      if s.rd (F.portStateState p) port = 4 then s.release p port f.label 0 f.slots else s

/-- The label of a received link frame (R91, R94): the words lfn_lo and lfn_hi of its S0; the lfn_lo of an SC, extended by the
high word of its last complete group, and under R29 before it has one. A link frame whose S0 fails follows the one before it
(log 148). -/
def State.rxLabel (s : State) (p : Part) (port : Nat) (f : LinkFrame) : Nat :=
  let x := f.slots.getD 0 ⟨[], 0⟩
  let t := s.port p port
  let lo := x.words.getD 3 0 % 2 ^ 32
  if !slotOk x then t.lastLabel + 1
  else if f.layout = 0 then lo + 2 ^ 32 * (x.words.getD 8 0 % 2 ^ 32)
  else match t.rxHigh with
    | none => extend32 lo (s.lfn p)
    | some h => extend32 lo (h * 2 ^ 32 + t.lastLabel % 2 ^ 32)

/-- LINK_FRAME_RECEIVED (R89, R99 to R106): a link frame is checked slot by slot and as a whole. -/
def execLinkFrameReceived (p : Part) (port : Nat) (frame : LinkFrame) (s : State) : Res :=
  onLive p s fun s =>
    let st := s.rd (F.portStateState p) port
    if st < 2 then s
    else
      let frame := { frame with label := s.rxLabel p port frame }
      let bad := failedSlots frame.slots
      let s := (s.noteEpoch p port frame.label).countFails p port frame.layout bad
      let lanes := if frame.layout = 0 then 3 else frame.layout
      let old := s.rd (F.portStateRxLanes p) port
      let s := s.wr (F.portStateRxLanes p) lanes port
      let s := if old ≠ 0 && old ≠ lanes then
        s.layoutChanged p port (if s.parentEnd p port then 1 else 0) (lanes ≠ 3) else s
      let s := if bad.isEmpty then s.receiveGood p port frame else s.receiveBad p port frame bad
      let s := s.takeReplays p port frame
      ((s.modPort p port fun t =>
        { t with lastLabel := max t.lastLabel frame.label, lastSlots := frame.slots }).giveUpOld p port).ackLabel p port

/-- NAK_RECEIVED (R99, R100): the requested slots of a link frame still held are queued for replay. -/
def execNakReceived (p : Part) (port lfnLow mask : Nat) (s : State) : Res :=
  onLive p s fun s =>
    if s.up p port then
      match (s.port p port).retry.find? fun r => r.label % 256 == lfnLow % 256 with
      | none => s
      | some r =>
        let want := (List.range r.slots.length).filter fun i => bit mask i && !(s.port p port).replayQ.contains (r.label, i)
        s.modPort p port fun t => { t with replayQ := t.replayQ ++ want.map fun i => (r.label, i) }
    else s

/-- Link frames from one NAK to the next: the mean rtt and 0.4 µs (R100). -/
def State.nakWait (s : State) (p : Part) (port : Nat) : Nat :=
  ceilDiv (s.rd (F.portRttRtt p) port * 625 + 400000000) 81920000

/-- NAK_REPEAT (R100): a slot that has not come is asked for again, up to nak_max times in all; then the link
frame is given up. -/
def execNakRepeat (p : Part) (port label : Nat) (s : State) : Res :=
  onLive p s fun s =>
    match (s.port p port).missing.find? fun m => m.label == label with
    | none => s
    | some m =>
      let rest := (s.port p port).missing.filter fun q => q.label != label
      if s.lfn p < m.nakAt + s.nakWait p port then s
      else if m.naks < max 1 (s.rd (F.linkCfgNakMax p)) then
        (s.modPort p port fun t => { t with missing := rest ++ [{ m with naks := m.naks + 1, nakAt := s.lfn p }] }).sendNak
          p port label m.mask
      else
        ((s.modPort p port fun t => { t with missing := rest }).bump (F.portLostCount p) port).ackLabel p port

/-! ### Block lock, darkness and training (R86, R107, R108) -/

/-- The headers that are no sync header: neither 0b10 nor 0b01 (R86). -/
def headerErrors (h : LaneHeaders) : Nat := (h.headers.filter fun x => x ≠ 1 && x ≠ 2).length

/-- A lane of a port holds block lock, or not. -/
def State.setLock (s : State) (p : Part) (port lane : Nat) (on : Bool) : State :=
  s.withLight p port fun s => s.modPort p port fun t => if lane = 0 then { t with lock0 := on } else { t with lock1 := on }

/-- The clean time of a lane starts again, or ends (R110). -/
def State.setClean (s : State) (p : Part) (port lane : Nat) (c : Option Nat) : State :=
  s.modPort p port fun t => if lane = 0 then { t with clean0 := c } else { t with clean1 := c }

/-- A port trains on the lanes of its boot setting (Table 5.7, R309). -/
def State.startTraining (s : State) (p : Part) (port : Nat) : State :=
  let lanes := if s.is (F.bootPortOneLane p) port then 2 ^ s.rd (F.bootPortLane p) port else 3
  (((s.setPort p port 2).wr (F.portStateTxLanes p) lanes port).wr (F.portStateRxLanes p) lanes port).modPort p port
    fun t => { t with want := lanes }

/-- BLOCK_LOCK_GAINED (R86, R107): 64 valid headers in a row give the lane block lock; an enabled port that was DISABLED or
DARK trains, and the lane starts its clean time (R110). With an invalid header among them there is no lock to gain. -/
def execBlockLockGained (p : Part) (port : Nat) (lane : LaneHeaders) (s : State) : Res :=
  onLive p s fun s =>
    if port < portCount p && lane.lane < 2 then
      if lane.headers.length < 64 || headerErrors lane ≠ 0 then s
      else
        let s := (s.setLock p port lane.lane true).setClean p port lane.lane (some (s.lfn p))
        let s := s.modNode p fun n => { n with lockLane := fset n.lockLane port lane.lane }
        if s.rd (F.portStateState p) port ≤ 1 && s.is (F.portCtrlEnable p) port then s.startTraining p port else s
    else s

/-- BLOCK_LOCK_LOST (R86, R109): 16 invalid headers among 64 lose the lane's block lock, and the receiver asks for the
degraded layout on the other lane; fewer of them restart the lane's clean time (R110). -/
def execBlockLockLost (p : Part) (port : Nat) (lane : LaneHeaders) (s : State) : Res :=
  onLive p s fun s =>
    let t := s.port p port
    if port < portCount p && lane.lane < 2 && (if lane.lane = 0 then t.lock0 else t.lock1) && headerErrors lane ≠ 0 then
      if headerErrors lane < 16 then s.setClean p port lane.lane (some (s.lfn p))
      else
        let s := (s.setLock p port lane.lane false).setClean p port lane.lane none
        if 2 ≤ s.rd (F.portStateState p) port && (if lane.lane = 0 then t.lock1 else t.lock0) then
          s.degradeLane p port lane.lane
        else s
    else s

/-- An enabled port becomes DARK; with expected set that is an event and an alert (R108). A port in internal loopback, which
leaves its fibre dark, stays ISOLATED (R111). -/
def State.goDark (s : State) (p : Part) (port : Nat) : State :=
  let st := s.rd (F.portStateState p) port
  if portCount p ≤ port || st = 1 || s.rd (F.portCtrlLoop p) port = 1 || !s.is (F.portCtrlEnable p) port then s
  else
    let s := ((s.setPort p port 1).forgetPeer p port).modPort p port fun t =>
      { t with lock0 := false, lock1 := false, clean0 := none, clean1 := none }
    if s.is (F.portCtrlExpected p) port then (s.portEvent p (F.portEvtDark p) port).raiseAlert p 0x108 else s

/-- PORT_DARK (R108): for 122 link frames neither lane has had power and lock together. -/
def execPortDark (p : Part) (port : Nat) (s : State) : Res :=
  onLive p s fun s => if s.darkLong p port then s.goDark p port else s

/-- A start's training failure of a port counts once in train_fail (R309). -/
def State.countTrain (s : State) (p : Part) (port : Nat) : State :=
  if (s.node p).bootTrain.contains port then s
  else (s.bump (F.bootPortTrainFail p) port).modNode p fun n => { n with bootTrain := n.bootTrain ++ [port] }

/-- TRAINING_TIMEOUT (Table 5.7): 150 ms without UNKEYED counts a training failure and starts again. -/
def execTrainingTimeout (p : Part) (port : Nat) (s : State) : Res :=
  onLive p s fun s =>
    if s.rd (F.portStateState p) port = 2 && (s.port p port).trainAt + lfOfMs 150 ≤ s.lfn p then
      let now := s.lfn p
      ((s.portEvent p (F.portEvtTrainFail p) port).countTrain p port).modPort p port fun t =>
        { t with ident := false, trainAt := now }
    else s

/-! ### Port controls (R110, R111, R117) -/

/-- State of an enabled port by what it holds: keys, ident, lock (log 16). -/
def State.portFor (s : State) (p : Part) (port : Nat) : Nat :=
  let t := s.port p port
  if t.keyed then 4 else if t.ident then 3 else if t.lock0 || t.lock1 then 2 else 1

/-- PORT_ENABLE (R107, R117): enable 0 makes the port DISABLED and its transmitter dark; enable 1 lets it train
or be DARK. -/
def execPortEnable (p : Part) (port : Nat) (on : Bool) (s : State) : Res :=
  onLive p s fun s =>
    if portCount p ≤ port then s
    else
      let was := s.is (F.portCtrlEnable p) port
      let s := s.wr (F.portCtrlEnable p) (b2n on) port
      if !on then (s.setPort p port 0).forgetPeer p port
      else if was then s
      else if (s.port p port).lock0 || (s.port p port).lock1 then s.startTraining p port
      else s.setPort p port 1

/-- Another distributor port is isolated or looped back. -/
def State.othersIsolated (s : State) (port : Nat) : Bool :=
  (List.range 132).any fun i => i != port && s.rd (F.portStateState .dbx) i == 5

/-- An enabled port becomes ISOLATED; the time port moves time to the other parent port (R58, R111). -/
def State.isolatePort (s : State) (p : Part) (port : Nat) : State :=
  let s := s.setPort p port 5
  if (s.parentPorts p).contains port then
    s.parentLost p port (psiAt (s.port p ((otherParent p port).getD port)).answer.2.1)
  else s

/-- PORT_ISOLATE (R111): a distributor isolates at most one port at a time. -/
def execPortIsolate (p : Part) (port : Nat) (on : Bool) (s : State) : Res :=
  onLive p s fun s =>
    if portCount p ≤ port then s
    else if on && p == Part.dbx && s.othersIsolated port then s.portEvent p (F.portEvtIsolateRefused p) port
    else
      let s := s.wr (F.portCtrlIsolate p) (b2n on) port
      if !s.is (F.portCtrlEnable p) port then s
      else if on then s.isolatePort p port
      else if s.rd (F.portStateState p) port = 5 && (s.rd (F.portCtrlLoop p) port) % 3 = 0 then
        s.setPort p port (s.portFor p port)
      else s

/-- PORT_LOOPBACK (R111): a TSU loops a port back only while its other port is UP and it is time-valid; a port in
loopback is ISOLATED. -/
def execPortLoopback (p : Part) (port mode : Nat) (s : State) : Res :=
  onLive p s fun s =>
    if portCount p ≤ port then s
    else
      let on := mode % 4 % 3 ≠ 0
      let refused := match p with
        | .tsu => on && !(s.up .tsu (1 - port) && s.timeValid .tsu)
        | .dbx => on && s.othersIsolated port
      if refused then
        match p with
        | .tsu => s.portEvent .tsu (F.portEvtLoopRefused .tsu) port
        | .dbx => s.portEvent .dbx (F.portEvtIsolateRefused .dbx) port
      else
        let s := s.wr (F.portCtrlLoop p) (mode % 4) port
        if !s.is (F.portCtrlEnable p) port then s
        else if on then s.isolatePort p port
        else if s.rd (F.portStateState p) port = 5 && !s.is (F.portCtrlIsolate p) port then
          s.setPort p port (s.portFor p port)
        else s

/-- DROP_LANE (R110): this end asks for the other lane while the bit is set, with no flap. -/
def execDropLane (p : Part) (port lane : Nat) (on : Bool) (s : State) : Res :=
  onLive p s fun s =>
    if portCount p ≤ port || 2 ≤ lane then s
    else
      let s := s.wr (dropF p lane) (b2n on) port
      if !on then s
      else if (s.port p port).want = 3 then
        (s.setWant p port (otherLane lane)).modPort p port fun t => t.startClean lane (s.lfn p)
      else s.setWant p port (otherLane lane)

/-- UNPIN (R110): the pinned lanes are released, to be restored by the rule. -/
def execUnpin (p : Part) (port : Nat) (s : State) : Res :=
  onLive p s fun s =>
    if portCount p ≤ port then s
    else ((s.wr (F.portStatePinnedL0 p) 0 port).wr (F.portStatePinnedL1 p) 0 port).score p (some port)

/-! ### Layout (R109, R110) -/

/-- The first multiple of 16 at least 4 link frames on (R109). -/
def switchCount (l : Nat) : Nat := (l + 4 + 15) / 16 * 16

/-- DEGRADE_REQUEST_RECEIVED (R109, R110): the sender announces its change to the lanes the peer wants. -/
def execDegradeRequestReceived (p : Part) (port want : Nat) (s : State) : Res :=
  onLive p s fun s =>
    if port < portCount p && 1 ≤ want && want ≤ 3 && 2 ≤ s.rd (F.portStateState p) port
        && s.rd (F.portStateTxLanes p) port ≠ want then
      s.modPort p port fun t => { t with switchAt := some (switchCount (s.lfn p), want) }
    else s

/-- LAYOUT_SWITCH (R109): at the announced count the sender changes its layout. -/
def execLayoutSwitch (p : Part) (port : Nat) (s : State) : Res :=
  onLive p s fun s =>
    match (s.port p port).switchAt with
    | none => s
    | some (c, lanes) =>
      if s.lfn p < c then s
      else
        let now := s.lfn p
        let s := (s.wr (F.portStateTxLanes p) lanes port).modPort p port fun t =>
          { t with switchAt := none, switched := if lanes = 3 then none else some now }
        s.layoutChanged p port (if s.parentEnd p port then 0 else 1) (lanes ≠ 3)

/-- DEGRADED_QUEUE_DROP (R109): 16 link frames after the change, content that the degraded map has no position for
is dropped. -/
def execDegradedQueueDrop (p : Part) (port : Nat) (s : State) : Res :=
  onLive p s fun s =>
    match (s.port p port).switched with
    | none => s
    | some c =>
      if s.lfn p < c + 16 then s
      else
        let es := (List.range 48).map fun i => s.tmplEntry p (s.txTmpl p port) (96 + i)
        let keep := (s.port p port).queue.filter fun q => es.any fun e => s.itemFits p e q
        let n := (s.port p port).queue.length - keep.length
        (s.bump (F.portDropCount p) port n).modPort p port fun t => { t with queue := keep, switched := none }

/-- LANE_RESTORE_REQUEST (R110): a dropped lane that is clean for 2^20 link frames, not held by its drop bit and
not pinned, is asked for again. -/
def execLaneRestoreRequest (p : Part) (port lane : Nat) (s : State) : Res :=
  onLive p s fun s =>
    let t := s.port p port
    let clean := if lane = 0 then t.clean0 else t.clean1
    match clean with
    | none => s
    | some c =>
      if lane < 2 && t.want = otherLane lane && c + 2 ^ 20 ≤ s.lfn p && !s.is (dropF p lane) port
          && !s.is (pinnedF p lane) port then
        s.setWant p port 3
      else s

end Sys2Proof.Machine
end

