-- ==== Sys2Proof/Machine/Optics.lean ====
section
/-! DEFINITION. Coalesced dynamic traffic (R113), laser and optical power (R115, R116, R280, R321, R339), and the
writes of slot maps and shares (R97). -/

namespace Sys2Proof.Machine

/-- DYNAMIC_RECORD_RECEIVED (R113, R163): a record from below merges into the node's coalescing table; at an apex a
pair-divergence record is an input too. -/
def execDynamicRecordReceived (p : Part) (rec_ : DynRec) (s : State) : Res :=
  onLive p s fun s =>
    let s := s.modNode p fun n => { n with dyn := dynMerge 256 n.dyn rec_ }
    if p == Part.dbx && rec_.type == 3 && rec_.code == 3 then s.holdApex .divergence else s

/-! ### Received power -/

/-- Received power of a port's lanes; a lane below rxpwr_warn is an event (R116). -/
def State.takeRx (s : State) (p : Part) (port : Nat) (l0 l1 : Int) : State :=
  if portCount p ≤ port then s
  else
    let s := s.withLight p port fun s => (s.wrI (F.portRxpwrRxL0 p) l0 port).wrI (F.portRxpwrRxL1 p) l1 port
    let s := if s.rxLow p port then s.portEvent p (F.portEvtRxpwrWarn p) port else s
    s.score p (some port)

/-! ### ELS modules -/

/-- Bias current beyond `pct` percent above beginning of life; at the limit itself it is not beyond it (R116, log 145). -/
def biasAbove (v bol pct : Nat) : Bool := bol * (100 + pct) < v * 100

/-- Power more than `tenths` of a dB below beginning of life; at the limit itself it is not (R116, log 145). -/
def pwrBelow (v bol : Int) (tenths : Nat) : Bool := v < bol - 10 * tenths

/-- A channel of a module exceeds a pair of limits. A module whose beginning-of-life values are not held yet is not judged
(R116, log 146). -/
def State.elsOver (s : State) (k bias0 bias1 : Nat) (pwr0 pwr1 : Int) (pct tenths : Nat) : Bool :=
  s.is F.elsStatBolSet k &&
    (biasAbove bias0 (s.rd F.elsBolBiasCh0 k) pct || biasAbove bias1 (s.rd F.elsBolBiasCh1 k) pct
      || pwrBelow pwr0 (s.rdI F.elsBolPwrCh0 k) tenths || pwrBelow pwr1 (s.rdI F.elsBolPwrCh1 k) tenths)

/-- Every port's score follows the state of the modules. -/
def State.scorePorts (s : State) : State := (List.range 132).foldl (fun s i => s.scorePort i) (s.score .dbx)

/-- A module's warn and alarm status: a rise is an event, and an alarm asserts ALERT_N (R116, R359). -/
def State.elsJudge (s : State) (k : Nat) (warn alarm : Bool) : State :=
  let rises := (warn && !s.is F.elsStatWarn k) || (alarm && !s.is F.elsStatAlarm k)
  let newAlarm := alarm && !s.is F.elsStatAlarm k
  let s := (s.wr F.elsStatWarn (b2n warn) k).wr F.elsStatAlarm (b2n alarm) k
  let s := if rises then s.wr F.elsStatEvt 1 k else s
  let s := if newAlarm then (s.interrupt .dbx 7).raiseAlert .dbx 0x116 else s
  s.scorePorts

/-- ELS_SAMPLE (R116, R339): a module that does not acknowledge (no first bias) brings no values. The values of a present module's channels and the received power of ports. -/
def execElsSample (k : Nat) (bias0 : Option Nat) (bias1 : Nat) (pwr0 pwr1 : Int) (rx : List (Nat × Int × Int)) (s : State) : Res :=
  onLive .dbx s fun s =>
    let s := rx.foldl (fun s x => s.takeRx .dbx x.1 x.2.1 x.2.2) s
    if k < 8 && s.is F.elsStatPresent k then
     match bias0 with
     | none => s.wr F.elsBusNack (setBit (s.rd F.elsBusNack) k true)
     | some bias0 =>
      let s := (((s.wr F.elsBiasCh0 bias0 k).wr F.elsBiasCh1 bias1 k).wrI F.elsPwrCh0 pwr0 k).wrI F.elsPwrCh1 pwr1 k
      s.elsJudge k
        (s.elsOver k bias0 bias1 pwr0 pwr1 (s.rd F.elsLimitsBiasWarn) (s.rd F.elsLimitsPwrWarn))
        (s.elsOver k bias0 bias1 pwr0 pwr1 (s.rd F.elsLimitsBiasAlarm) (s.rd F.elsLimitsPwrAlarm))
    else s

/-- BOL_CAPTURE (R116): 2^30 link frames after a module became present and enabled, values that still hold 0 are
captured. -/
def execBolCapture (k : Nat) (s : State) : Res :=
  onLive .dbx s fun s =>
    let held := s.rd F.elsBolBiasCh0 k + s.rd F.elsBolBiasCh1 k + s.rd F.elsBolPwrCh0 k + s.rd F.elsBolPwrCh1 k
    match fget? s.d.elsSince k with
    | none => s
    | some c =>
      if k < 8 && s.elsOn k && held = 0 && c + 2 ^ 30 ≤ s.dbx.lfn then
        ((((s.wr F.elsBolBiasCh0 (s.rd F.elsBiasCh0 k) k).wr F.elsBolBiasCh1 (s.rd F.elsBiasCh1 k) k).wr
          F.elsBolPwrCh0 (s.rd F.elsPwrCh0 k) k).wr F.elsBolPwrCh1 (s.rd F.elsPwrCh1 k) k).wr F.elsStatBolSet 1 k
      else s

/-- The count since which a module has been present and enabled follows the two (R116). -/
def State.elsSinceFollows (s : State) (k : Nat) (was : Bool) : State :=
  if s.elsOn k then
    if was then s else s.modD fun d => { d with elsSince := fset d.elsSince k s.dbx.lfn }
  else s.modD fun d => { d with elsSince := fdel d.elsSince k }

/-- ELS_ENABLE (R280): the enables drive ELS_EN_N, active low; the ports of a disabled module go dark at their far
ends (R115). -/
def execElsEnable (v : Word) (s : State) : Res :=
  onLive .dbx s fun s =>
    let was := (List.range 8).map fun k => s.elsOn k
    let s := s.regWrite .dbx 0xA0204 v.toNat false true
    (List.range 8).foldl (fun s k =>
      (s.emit .dbx (.pin (.elsEnN k) (1 - bits v.toNat k 1))).elsSinceFollows k (was.getD k false)) s

/-- ELS_PRESENCE_CHANGE (R280, R339): a presence contact has changed and been stable; a module that arrives has
its beginning-of-life values cleared. -/
def execElsPresenceChange (k : Nat) (present : Bool) (s : State) : Res :=
  onLive .dbx s fun s =>
    if k < 8 && s.is F.elsStatPresent k ≠ present then
      let was := s.elsOn k
      let s := s.wr F.elsStatPresent (b2n present) k
      let s := if present then
          ((((s.wr F.elsBolBiasCh0 0 k).wr F.elsBolBiasCh1 0 k).wr F.elsBolPwrCh0 0 k).wr F.elsBolPwrCh1 0 k).wr
            F.elsStatBolSet 0 k
        else s
      s.elsSinceFollows k was
    else s

/-! ### Slot maps and shares (R97) -/

/-- A port names the template. -/
def State.tmplUsed (s : State) (p : Part) (t : Nat) : Bool :=
  (List.range (portCount p)).any fun i => s.txTmpl p i == t || s.rxTmpl p i == t

/-- The TSU's template of a port, which ignores shares, carries the content of every channel bound here (R97, log 150). -/
def State.tsuTmplLocked (s : State) (t : Nat) : Bool :=
  s.tmplUsed .tsu t && (List.range 144).any (fun i => entryClass (s.tmplEntry .tsu t i) != 0)
    && s.t.chans.any fun c => c.2.state == 2

/-- A template that a port uses for a share with a bound plan. -/
def State.tmplLocked (s : State) (t : Nat) : Bool :=
  s.tmplUsed .dbx t && (s.tmplPartitions t).any s.partitionBound

/-- A share-table entry that a port uses for a share with a bound plan. -/
def State.shareLocked (s : State) (k : Nat) : Bool :=
  s.is F.shareValid k && s.partitionBound (s.rd F.sharePartition k) &&
    (List.range 64).any fun t => s.tmplUsed .dbx t && (List.range 144).any fun i =>
      let e := s.tmplEntry .dbx t i
      entryClass e != 0 && entryShare e == k

/-- The bits of a word of two template entries that Table 5.6 gives; the others are reserved and read 0 (R4, R95). -/
def entryBits (v : Nat) : Nat := bits v 0 14 + 2 ^ 16 * bits v 16 14

/-- TEMPLATE_WRITE (R97): a write into a template or the share table; a locked one is discarded and recorded. -/
def execTemplateWrite (p : Part) (off : Nat) (v : Word) (s : State) : Res :=
  onLive p s fun s =>
    match p with
    | .tsu =>
      if 0x2800 ≤ off && off < 0x3000 then
        let t := (off - 0x2800) / 0x200
        if s.tsuTmplLocked t then s.logErr .tsu 0x0020 noPort t else s.regWrite .tsu off (entryBits v.toNat) false true
      else s
    | .dbx =>
      if 0x40000 ≤ off && off < 0x48000 then
        let t := (off - 0x40000) / 0x200
        if s.tmplLocked t then s.logErr .dbx 0x0020 noPort t else s.regWrite .dbx off (entryBits v.toNat) false true
      else if 0x48000 ≤ off && off < 0x4C000 then
        let k := (off - 0x48000) / 8
        if s.shareLocked k then s.logErr .dbx 0x0020 noPort (0x10000 + k) else s.regWrite .dbx off v.toNat false true
      else s

end Sys2Proof.Machine
end

