-- ==== Sys2Proof/Machine/Service.lean ====
section
/-! DEFINITION. Spares, health and service (chapter 12): health reads, spare policy, insertion records, expulsion, the
switch to X1 and the SRAM test. -/

namespace Sys2Proof.Machine

/-! ### HEALTH_READ (R275, R276) -/

/-- Ports of a part at which a condition holds. -/
def portsWith (p : Part) (f : Nat → Bool) : Nat := ((List.range (portCount p)).filter f).length

/-- Penalty of an input at the node: that of an event, or the weight that a standing one holds (R271). -/
def State.inputPenalty (s : State) (p : Part) (i : Nat) : Nat :=
  match p, i with
  | _, 11 => 256 * portsWith p fun n => s.is (F.portTstatTdcFault p) n
  | _, 12 => 256 * portsWith p fun n => s.is (F.portStatePinnedL0 p) n || s.is (F.portStatePinnedL1 p) n
  | _, 13 => 128 * portsWith p fun n => s.rd (F.portStateState p) n == 1 && s.is (F.portCtrlExpected p) n
  | _, 14 => 32 * portsWith p (s.rxLow p)
  | _, 15 => 128 * portsWith p fun n => s.is (F.portTstatAsymMismatch p) n
  | .tsu, 16 => 512 * s.rd F.fltStatusOosReq
  | .dbx, 18 => 512 * s.rd F.dhealthSramFail
  | .dbx, 21 => if 1000 < s.rdI F.thermStatusTj then 256 else 0
  | .dbx, 22 => 256 * portsWith .dbx fun n => s.is F.elsStatAlarm (elsOfPort n)
  | p, i => s.penalty p i

/-- The health block, Table 12.7. -/
def State.healthBlock (s : State) (p : Part) : List Byte :=
  let flags := match p with
    | .tsu => s.rd F.thealthRolePending + 2 * s.rd F.thealthExpelReq + 4 * s.rd F.thealthExpelGranted
        + 8 * s.rd F.thealthRetained
    | .dbx => 16 * s.rd F.dhealthSramFail + 32 * s.rd F.dhealthLogHalf
  let role := match p with
    | .tsu => s.rd F.roleRole
    | .dbx => 0
  toLe 2 (match p with | .tsu => s.rd F.thealthScore | .dbx => s.rd F.dhealthScore) ++ [flags, 0] ++ toLe 4 role
    ++ toLe 8 (s.exported p).lfn ++ (List.range 24).flatMap fun i => toLe 2 (satN 16 (s.inputPenalty p i))

/-- A descriptor of HEALTH_READ with its selector. -/
def State.withSelector (s : State) (p : Part) (ring seq sel : Nat) (f : Desc → State → State) : State :=
  s.withDesc p ring seq 0x50 fun d t => if opnd d.desc 40 1 = sel then f d.desc t else s

/-- HEALTH_BLOCK_READ: selector 0. -/
def execHealthBlockRead (p : Part) (ring seq : Nat) (s : State) : Res :=
  onLive p s fun s => s.withSelector p ring seq 0 fun d s =>
    (s.result p ring seq d (s.healthBlock p)).finish p ring seq 0 0 0

/-- The port entries of selector 1, of DBX_PORT_HEALTH's layout. -/
def State.portEntries (s : State) : List Byte :=
  (List.range 132).flatMap fun i => toLe 4 (s.rd F.portHealthScore i + 2 ^ 10 * s.rd F.portHealthFlags i)

/-- PORT_HEALTH_READ: selector 1. -/
def execPortHealthRead (ring seq : Nat) (s : State) : Res :=
  onLive .dbx s fun s => s.withSelector .dbx ring seq 1 fun d s =>
    (s.result .dbx ring seq d s.portEntries).finish .dbx ring seq 0 0 0

/-- RECORD_LOG_READ: selector 2, the oldest records of a root's log, which leave it. -/
def execRecordLogRead (ring seq : Nat) (s : State) : Res :=
  onLive .dbx s fun s => s.withSelector .dbx ring seq 2 fun d s =>
    let n := d.resLen / 16
    let bs := (s.d.recLog.take n).flatMap recBytes
    let s := s.modD fun x => { x with recLog := x.recLog.drop n }
    let s := s.wr F.dhealthLogHalf (b2n (2048 < s.d.recLog.length && s.is F.dhealthLogHalf))
    (s.result .dbx ring seq d bs).finish .dbx ring seq 0 0 0

/-! ### SPARE_POLICY (R267 to R269, R277) -/

/-- A descriptor of SPARE_POLICY with its op. -/
def State.withPolicy (s : State) (p : Part) (ring seq op : Nat) (f : List Byte → State → State) : State :=
  s.withDesc p ring seq 0x51 fun d t => if policyOp d.desc = op then f d.desc.ext t else s

/-- SET: the policy fields of the health registers. -/
def execSet (p : Part) (ring seq : Nat) (s : State) : Res :=
  onLive p s fun s => s.withPolicy p ring seq 0 fun e s =>
    let s := match p with
      | .tsu => s.wr F.thealthCfgExpelScore (leNat e 4 2)
      | .dbx => ((s.wr F.expelCfgPodLimit (e.getD 4 0)).wr F.expelCfgPartLimit (e.getD 5 0)).wr F.expelCfgWindowS (leNat e 6 2)
    s.finish p ring seq 0 0 0

/-- INSERT_BEGIN: the lowest record that is not open takes the insertion; a sixty-fifth open one is refused. -/
def execInsertBegin (ring seq : Nat) (s : State) : Res :=
  onLive .dbx s fun s => s.withPolicy .dbx ring seq 1 fun e s =>
    match (List.range 64).find? fun i => s.rd F.insertState i != 1 with
    | none => s.finish .dbx ring seq 5 0 0
    | some i =>
      let by_ := s.dbx.lfn + lfOfMs (leNat e 32 4)
      let s := (((s.wr F.insertRole (leNat e 8 4) i).wr F.insertState 1 i).wr F.insertSlot (e.getD 4 0) i).wr
        F.insertPartnerPartner (leNat e 12 4) i
      let s := (List.range 4).foldl (fun s w => s.wr F.insertUidUid (leNat e (16 + 4 * w) 4) i w) s
      ((s.wr F.insertDeadlineLfn (by_ % 2 ^ 32) i).modD fun d => { d with insertBy := fset d.insertBy i by_ }).showSec.finish
        .dbx ring seq 0 0 0

/-- What the loss of a role's state does to one bound channel of its slot (R269): a fault abort of its outstanding step,
the pause, STATE_LOST. -/
def State.loseChannel (s : State) (i ch : Nat) : State :=
  match s.chan ch with
  | none => s
  | some c =>
    let s := if c.r.stepOpen && !c.aborted && !c.done then
        match s.chanAbort ch abFault 0 with
        | (s, none) => s
        | (s, some _) => s.bump F.dfltAbortsCount
      else s
    let s := (s.modCh ch fun c => { c with stLost := true, aborted := c.aborted || c.r.stepOpen, wait := .none,
                                           r := { c.r with stepOpen := false } }).pauseNow ch 6
    s.showPeri.event ch 0x85 (s.rd F.insertRole i + 2 ^ 32 * s.rd F.insertPartnerPartner i) i

/-- The state of an open record's role is lost. -/
def State.loseRole (s : State) (i : Nat) : State :=
  let s := (((s.wr F.insertState 3 i).modD fun d => { d with insertBy := fdel d.insertBy i }).bump F.stateLostCount).showSec.interrupt
    .dbx 4
  (s.slotChans (s.rd F.insertSlot i)).foldl (fun s ch => s.loseChannel i ch) s

/-- The open record of a role in a slot. -/
def State.openRecord (s : State) (slot role : Nat) : Option Nat :=
  (List.range 64).find? fun i => s.rd F.insertState i == 1 && s.rd F.insertRole i == role && s.rd F.insertSlot i == slot

/-- LOST: the role's state is declared lost; one without an open record is refused. -/
def execLost (ring seq : Nat) (s : State) : Res :=
  onLive .dbx s fun s => s.withPolicy .dbx ring seq 2 fun e s =>
    match s.openRecord (e.getD 4 0) (leNat e 8 4) with
    | none => s.finish .dbx ring seq 5 0 0
    | some i => (s.loseRole i).finish .dbx ring seq 0 0 0

/-- INSERTION_DEADLINE (R269): the record's deadline has passed. -/
def execInsertionDeadline (i : Nat) (s : State) : Res :=
  onLive .dbx s fun s =>
    match fget? s.d.insertBy i with
    | some t => if s.rd F.insertState i = 1 && t ≤ s.dbx.lfn then s.loseRole i else s
    | none => s

/-- A role leaves the retained list (R273). -/
def State.unlist (s : State) (part role : Nat) : State :=
  let s := s.modD fun d => { d with retPods := d.retPods.filter fun x => !(x.1 == role && x.2.2 == part) }
  (List.range 64).foldl (fun s i =>
    if s.is F.retainedValid i && s.rd F.retainedRole i == role && s.slotPart (s.rd F.retainedSlot i) == part then
      ((s.wr F.retainedValid 0 i).wr F.retainedRole 0 i).wr F.retainedSlot 0 i else s) s.showSec

/-- RELEASE: a role leaves the retained list with no grant. -/
def execRelease (ring seq : Nat) (s : State) : Res :=
  onLive .dbx s fun s => s.withPolicy .dbx ring seq 3 fun e s =>
    (s.unlist (s.slotPart (e.getD 4 0)) (leNat e 8 4)).finish .dbx ring seq 0 0 0

/-- ROLE_LOADED (R267): pending clears, the role is valid, and the ready report is owed. -/
def execRoleLoaded (ring seq : Nat) (s : State) : Res :=
  onLive .tsu s fun s => s.withPolicy .tsu ring seq 4 fun _ s =>
    let s := if s.is F.thealthRolePending then ((s.wr F.thealthRolePending 0).wr F.roleRoleValid 1).oweReady else s
    s.finish .tsu ring seq 0 0 0

/-! ### PENALTY_DECAY (R271) -/

/-- PENALTY_DECAY: at a multiple of 2^32 link frames each event penalty loses an eighth of itself, rounded up. -/
def execPenaltyDecay (p : Part) (s : State) : Res :=
  onLive p s fun s =>
    if s.lfn p % 2 ^ 32 ≠ 0 then s
    else
      let s := s.modNode p fun n => { n with pen := n.pen.map fun x => (x.1, x.2 - ceilDiv x.2 8) }
      match p with
      | .tsu => s.score .tsu
      | .dbx => s.scorePorts

/-! ### Expulsion (R273) -/

/-- Link frames of the expulsion window. -/
def State.expelWindow (s : State) : Nat := lfOfS (s.rd F.expelCfgWindowS)

/-- The limits allow a grant: too few of the window name the pod, and too few the partition. -/
def State.mayExpel (s : State) (part pod : Nat) : Bool :=
  let g := s.d.grants.filter fun x => s.dbx.lfn < x.1 + s.expelWindow
  (g.filter fun x => x.2.2 == pod).length < s.rd F.expelCfgPodLimit
    && (g.filter fun x => x.2.1 == part).length < s.rd F.expelCfgPartLimit

/-- EXPEL is granted. -/
def State.grantExpel (s : State) (part role pod : Nat) : State :=
  ((s.modD fun d => { d with grants := d.grants ++ [(s.dbx.lfn, part, pod)] }).bump F.expelGrantCount).mgmtDown part
    [(role, role)] 6 [role, 1]

/-- The role is retained: it joins the list of 64 unless it is listed. -/
def State.retainRole (s : State) (slot part role pod : Nat) : State :=
  let s := (s.bump F.expelRetainCount).mgmtDown part [(role, role)] 6 [role, 2]
  let s := if s.d.retPods.any fun x => x.1 == role && x.2.2 == part then s
    else match (List.range 64).find? fun i => !s.is F.retainedValid i with
      | none => s.bump F.expelRetainFullCount
      | some i =>
        (((s.wr F.retainedValid 1 i).wr F.retainedRole role i).wr F.retainedSlot slot i).modD fun d =>
          { d with retPods := d.retPods ++ [(role, pod, part)] }
  let s := s.showSec
  (s.record .dbx 2 (Config.recordCode 2 273)).interrupt .dbx 4

/-- EXPULSION_REQUEST: at the apex it is granted within the limits, or the role is retained; below it climbs. -/
def execExpulsionRequest (partition role pod score : Nat) (s : State) : Res :=
  onLive .dbx s fun s =>
    match s.apexSlot partition with
    | none => s.mgmtUp .dbx 5 partition [role, score]
    | some k => if s.mayExpel partition pod then s.grantExpel partition role pod else s.retainRole k partition role pod

/-- The cause of the TSU's request still stands. -/
def State.expelCause (s : State) : Bool :=
  s.rd F.thealthScore < s.rd F.thealthCfgExpelScore || s.is F.fltStatusOosReq

/-- EXPULSION_REPEAT: 2^30 link frames after the last request, with no verdict, it is repeated while its cause stands. -/
def execExpulsionRepeat (s : State) : Res :=
  onLive .tsu s fun s =>
    match s.t.expelAt with
    | none => s
    | some t =>
      if !s.expelCause then (s.wr F.thealthExpelReq 0).modT fun x => { x with expelAt := none }
      else if t + 2 ^ 30 ≤ s.tsu.lfn then s.expelRequest
      else s

/-- EXPULSION_VERDICT: 1 EXPEL or 2 RETAINED. -/
def execExpulsionVerdict (v : Nat) (s : State) : Res :=
  onLive .tsu s fun s =>
    if v = 1 || v = 2 then
      (((s.wr F.thealthExpelGranted (b2n (v == 1))).wr F.thealthRetained (b2n (v == 2))).wr F.thealthExpelReq 0).modT
        fun t => { t with expelAt := none }
    else s

/-- GRANT_WINDOW_EXPIRY: the oldest grant leaves the window, and the oldest listed role that the limits now allow is
granted. -/
def execGrantWindowExpiry (s : State) : Res :=
  onLive .dbx s fun s =>
    match s.d.grants with
    | [] => s
    | g :: rest =>
      if s.dbx.lfn < g.1 + s.expelWindow then s
      else
        let s := s.modD fun d => { d with grants := rest }
        match s.d.retPods.find? fun x => s.mayExpel x.2.2 x.2.1 with
        | some x => (s.unlist x.2.2 x.1).grantExpel x.2.2 x.1 x.2.1
        | none => s

/-! ### Service (R278, R281) -/

/-- X1 is UP with the peer that X0 has. -/
def State.x1Ready (s : State) : Bool :=
  s.up .dbx 131 && s.rd64 (F.portPeerLoUid .dbx) (F.portPeerHiUid .dbx) 131
    == s.rd64 (F.portPeerLoUid .dbx) (F.portPeerHiUid .dbx) 130

/-- X1_SWITCH: at the switch LFN the pair traffic moves to X1, or back when as_x0 is clear. -/
def execX1Switch (s : State) : Res :=
  onLive .dbx s fun s =>
    if s.d.x1Done || s.dbx.lfn < s.rd64 F.x1SwitchLoLfn F.x1SwitchHiLfn then s
    else
      let s := s.modD fun d => { d with x1Done := true }
      if !s.is F.x1CfgAsX0 then s.wr F.x1CfgActive 0
      else if s.x1Ready then s.wr F.x1CfgActive 1
      else s.wr F.x1CfgX1Refused 1

/-- SRAM_BANK_TEST: every 2^20 link frames the bank under test passes, or is retired to a spare bank; with no spare left
that is a failure of the part. The next bank follows. -/
def execSramBankTest (pass : Bool) (s : State) : Res :=
  onLive .dbx s fun s =>
    if s.dbx.lfn % 2 ^ 20 ≠ 0 then s
    else
      let s := if pass then s
        else
          let s := s.wr F.sramTestEvt 1
          let n := s.rd F.sramTestSparesUsed
          if n < 8 then s.wr F.sramTestSparesUsed (n + 1)
          else ((((s.wr F.sramTestFail 1).wr F.dhealthSramFail 1).raiseAlert .dbx 0x281).interrupt .dbx 7).score .dbx
      s.wr F.sramTestBank ((s.rd F.sramTestBank + 1) % 640)

end Sys2Proof.Machine
end

