-- ==== Sys2Proof/Machine/Weights.lean ====
section
/-! DEFINITION. The digest tap, the history read and the weight gate (chapter 10: R221, R222, R227, R230 to R235). -/

namespace Sys2Proof.Machine

/-! ### Registers of the gate (Table 10.9) -/

/-- Shards of a manifest that are open. -/
def Manifest.openShards (m : Manifest) : List Shard := m.shards.filter fun x => x.state == 1

/-- The manifests held. -/
def State.manifests (s : State) : List Manifest := s.t.mfCur.toList ++ s.t.mfIn.toList

/-- Open shards over both manifests. -/
def State.openShards (s : State) : List Shard := s.manifests.flatMap Manifest.openShards

/-- Bitmap blocks in use. -/
def State.bitmapUsed (s : State) : Nat := sumNat (s.openShards.map fun x => x.len / 64)

/-- The registers that show the gate. -/
def State.showWg (s : State) : State :=
  let ms := s.manifests
  let e := fun (m : Option Manifest) => match m with | some m => m.epoch | none => 0
  (((((((s.wr F.wgStatusManifests ms.length).wr F.wgStatusEntries (sumNat (ms.map (·.shards.length)))).wr F.wgStatusOpen
    s.openShards.length).wr F.wgStatusInValid (b2n s.t.mfIn.isSome)).wr F.wgStatusSwapIn
    (b2n (s.t.mfIn.any fun m => !m.opened.isEmpty))).wr F.wgEpochCurEpoch (e s.t.mfCur)).wr F.wgEpochInEpoch
    (e s.t.mfIn)).wr F.wgBitmapBlocks s.bitmapUsed

/-- The manifest of an epoch. -/
def State.manifestOf (s : State) (epoch : Nat) : Option Manifest := s.manifests.find? fun m => m.epoch == epoch

/-- `s` with the manifest of an epoch changed. -/
def State.modManifest (s : State) (epoch : Nat) (f : Manifest → Manifest) : State :=
  let g := fun (m : Manifest) => if m.epoch = epoch then f m else m
  s.modT fun t => { t with mfCur := t.mfCur.map g, mfIn := t.mfIn.map g }

/-- `s` with a shard of an epoch changed. -/
def State.modShard (s : State) (epoch layer id : Nat) (f : Shard → Shard) : State :=
  s.modManifest epoch fun m =>
    { m with shards := m.shards.map fun x => if x.layer = layer && x.id = id then f x else x }

/-! ### Events and readiness (R233, R234, Table 10.5) -/

/-- Shard id of FETCH and LAYER_READY. -/
def allShards : Nat := 0xFFFF

/-- A weight event on the ring pair that submitted the manifest; whether it asks for an interrupt is free (log 9). -/
def State.weightEvent (s : State) (m : Manifest) (shard layer len deadline cause : Nat) : State :=
  let (v, s) := s.draw
  s.complete .tsu m.ring
    { kind := 3, q0 := m.epoch + 2 ^ 32 * shard + 2 ^ 48 * layer, q1 := s.rd F.roleRole + 2 ^ 32 * len, q2 := s.tsu.lfn,
      aux := deadline % 2 ^ 32, status := cause, opcode := 0x20, irq := v % 2 == 1 }

/-- Epoch of a layer on the generation bus (R325): that at which it is open; 0 for a layer that is not (log 171). -/
def State.busEpoch (s : State) (layer : Nat) : Nat := match fget? s.t.layers layer with | some l => l.epoch | none => 0

/-- The ready bit of a layer changes, and the generation bus carries it (R325). -/
def State.setReady (s : State) (layer : Nat) (r : Bool) : State :=
  let w := s.rd F.wgReadyReady (layer / 32)
  let epoch := s.busEpoch layer
  let s := s.modT fun t => { t with layers := t.layers.map fun x => if x.1 = layer then (x.1, { x.2 with ready := r }) else x }
  if bit w (layer % 32) = r then s
  else (s.wr F.wgReadyReady (setBit w (layer % 32) r) (layer / 32)).emit .tsu (.gen (layerWord layer epoch r))

/-- A layer is ready. -/
def State.layerReady (s : State) (layer : Nat) : Bool := bit (s.rd F.wgReadyReady (layer / 32)) (layer % 32)

/-- Own shards of a layer. -/
def Manifest.shardsOf (m : Manifest) (layer : Nat) : List Shard := m.shards.filter fun x => x.layer == layer

/-- An open layer all of whose own shards are VERIFIED is ready, and says so; the spec states neither a length nor a
deadline for that event (log 9). -/
def State.judgeLayer (s : State) (epoch layer : Nat) : State :=
  match s.manifestOf epoch with
  | none => s
  | some m =>
    if (m.shardsOf layer).all (·.state == 2) && !s.layerReady layer then
      let a := (s.setReady layer true).draw
      let b := a.2.draw
      b.2.weightEvent m allShards layer (a.1 % 2 ^ 32) b.1 8
    else s

/-- A shard fails with a cause: BAD makes it PENDING again, MISSING ends it; the layer is not ready, and the failure is
counted, logged, reported upward and to host software. -/
def State.failShard (s : State) (m : Manifest) (x : Shard) (cause : Nat) : State :=
  let missing := cause == 6
  let s := s.modShard m.epoch x.layer x.id fun x =>
    { x with state := if missing then 4 else 0, sum := 0, blocks := [] }
  let s := (s.bump (if missing then F.wgMissingCount else F.wgBadCount)).penalise .tsu 7
  let s := (((s.wr F.wgLast0Shard x.id).wr F.wgLast0Layer x.layer).wr F.wgLast0Cause cause).wr F.wgLast1Epoch m.epoch
  let s := (s.faultRecord (if missing then 0xB else 0xA) 0 0).setReady x.layer false
  (s.weightEvent m x.id x.layer x.len x.deadline cause).showWg

/-! ### Opening layers (R234) -/

/-- Deadline that a FETCH event names: that of the layer's shards where they share one; the spec states none where they
differ or there are none: a free value (log 9). -/
def State.fetchDeadline (s : State) (ds : List Nat) : Nat × State :=
  match ds with
  | d :: l => if l.all (· == d) then (d, s) else s.draw
  | [] => s.draw

/-- A layer opens at the epoch of a manifest: its shards are PENDING with their deadlines, ready clears, and FETCH is
sent; one without own shards is ready at once. -/
def State.openLayer (s : State) (epoch layer : Nat) : State :=
  match s.manifestOf epoch with
  | none => s
  | some m =>
    let now := s.tsu.lfn
    let s := s.setReady layer false
    let s := s.modT fun t => { t with layers := fset t.layers layer ⟨epoch, false⟩ }
    let s := s.modManifest epoch fun m =>
      { m with opened := m.opened.filter (· != layer) ++ [layer],
               shards := m.shards.map fun x => if x.layer = layer then
                 { x with state := 0, sum := 0, blocks := [], deadline := now + x.window } else x }
    let own := m.shardsOf layer
    let d := s.fetchDeadline (own.map fun x => now + x.window)
    let s := d.2.weightEvent m allShards layer own.length d.1 1
    if own.isEmpty then s.judgeLayer epoch layer else s

/-- The incoming manifest becomes the current one when every layer that it names has been opened. -/
def State.promote (s : State) : State :=
  match s.t.mfIn with
  | none => s.showWg
  | some m =>
    if m.layers.all m.opened.contains then (s.modT fun t => { t with mfCur := some m, mfIn := none }).showWg
    else s.showWg

/-- LAYER_OPEN: the layer opens at the incoming epoch; without a newer manifest it is left not ready with a fault
record. -/
def execLayerOpen (layer : Nat) (s : State) : Res :=
  onLive .tsu s fun s =>
    let old := (fget? s.t.layers layer).map (·.epoch)
    match s.t.mfIn.filter fun m => match old with | some e => e < m.epoch | none => true with
    | some m => (s.openLayer m.epoch layer).promote
    | none => (s.setReady layer false).record .tsu 3 (Config.recordCode 3 234)

/-! ### MANIFEST (R230, R231) -/

/-- Digest that the signature of a manifest covers. -/
def mfDigest (b : List Byte) : Nat := Config.sha384 (b.take 416 ++ List.replicate 96 0 ++ b.drop 512)

/-- MANIFEST, first part: the tenant field, and the signature check that the root of trust makes. -/
def execManifest (ring seq : Nat) (s : State) : Res :=
  onLive .tsu s fun s =>
    s.withDesc .tsu ring seq 0x20 fun f s =>
      let b := f.desc.ext
      if s.t.mbWait.any fun x => x.kind == 5 && x.ring == ring && x.seq == seq then s
      else if leNat b 96 16 ≠ f.tenant then s.finish .tsu ring seq 7 0 0
      else s.mbRequest 5 ring seq (toLe 48 (mfDigest b) ++ (b.drop 416).take 96 ++ toLe 16 (leNat b 96 16))

/-- Header of a manifest in the form of Table 10.4. -/
def mfHeaderOk (b : List Byte) : Bool :=
  leNat b 0 2 == 0x0702 && leNat b 2 2 < 2 && 1 ≤ leNat b 8 4 && leNat b 8 4 ≤ 65536 && leNat b 12 4 < 2 ^ 21
    && leNat b 16 4 < 2 ^ 21 && zeroBytes b 20 96 && zeroBytes b 112 416 && b.length == 512 + 32 * leNat b 8 4

/-- An entry in the form of Table 10.4. -/
def mfEntryOk (e : List Byte) : Bool :=
  let len := leNat e 8 4
  !bit (leNat e 0 4) 31 && zeroBytes e 6 8 && len % 64 == 0 && 64 ≤ len && len ≤ 2 ^ 26

/-- "KX7-SHARD". -/
def infoShard : List Byte := [75, 88, 55, 45, 83, 72, 65, 82, 68]

/-- H and P of a shard under the load key (R231); without a load key both are free (log 9). -/
def State.shardKey (s : State) (epoch role layer id : Nat) : (Nat × Nat) × State :=
  match s.t.loadKey with
  | some k =>
    let o := Config.hkdf [] (toLe 32 k) (infoShard ++ toLe 4 epoch ++ toLe 4 role ++ toLe 2 layer ++ toLe 2 id) 32
    ((leNat o 0 16, leNat o 16 16), s)
  | none =>
    let a := s.draw
    let b := a.2.draw
    ((a.1 % 2 ^ 128, b.1 % 2 ^ 128), b.2)

/-- The entries of a manifest as shards, with their keys. -/
def State.takeEntries (s : State) (epoch role : Nat) : List (List Byte) → List Shard × State
  | [] => ([], s)
  | e :: l =>
    let layer := bits (leNat e 0 4) 21 10
    let id := leNat e 4 2
    let k := s.shardKey epoch role layer id
    let r := k.2.takeEntries epoch role l
    ({ layer := layer, id := id, len := leNat e 8 4, window := leNat e 12 4, mac := leNat e 16 16, h := k.1.1, p := k.1.2 }
      :: r.1, r.2)

/-- No two shards have one id in one layer. -/
def shardsDistinct : List Shard → Bool
  | [] => true
  | x :: l => !(l.any fun y => y.layer == x.layer && y.id == x.id) && shardsDistinct l

/-- MANIFEST, second part, at the root of trust's verdict: the epoch, the own entries, and the acceptance. -/
def State.acceptManifest (s : State) (ring seq : Nat) (ok : Bool) : State :=
  match s.inFlight .tsu ring seq with
  | none => s
  | some f =>
    let b := f.desc.ext
    let fin := fun (s : State) (st aux : Nat) => s.finish .tsu ring seq st 0 aux
    if !ok then fin s 0x10 0
    else
      let epoch := leNat b 4 4
      let swapIn := s.t.mfIn.any fun m => !m.opened.isEmpty
      if opnd f.desc 40 4 ≠ epoch || !(s.manifests.all fun m => m.epoch < epoch) || swapIn then fin s 5 0
      else if !mfHeaderOk b then fin s 6 0
      else
        let es := (List.range (leNat b 8 4)).map fun i => (b.drop (512 + 32 * i)).take 32
        let role := s.rd F.roleRole
        let own := es.filter fun e => bits (leNat e 0 4) 0 21 == role
        let r := s.takeEntries epoch role own
        let s := r.2
        if !es.all mfEntryOk || 8192 < own.length || !shardsDistinct r.1 || r.1.any (·.h == 0) then fin s 6 0
        else
          let layers := (es.map fun e => bits (leNat e 0 4) 21 10).eraseDups
          let m : Manifest := { epoch := epoch, ring := ring, layers := layers, shards := r.1 }
          let s := s.modT fun t => { t with mfIn := some m }
          let s := if bit (leNat b 2 2) 0 then layers.foldl (fun s l => s.openLayer epoch l) s else s
          fin s.promote 0 own.length

/-! ### TAP_WRITE (R221, R222, R231, R232) -/

/-- A block enters the digest of a layer of a step. -/
def tapLayer (l : List LayerDig) (layer digest epoch : Nat) : List LayerDig :=
  if l.any fun x => x.layer == layer then
    l.map fun x => if x.layer = layer then
      { x with digest := Nat.xor x.digest digest, blocks := satN 22 (x.blocks + 1) } else x
  else l ++ [⟨layer, digest, epoch, 1⟩]

/-- Epoch of a layer; of one that is not open the spec states none: a free value (log 9). -/
def State.layerEpoch (s : State) (layer : Nat) : Nat × State :=
  match fget? s.t.layers layer with
  | some l => (l.epoch, s)
  | none => (s.draw.1 % 2 ^ 32, s.draw.2)

/-- An output block: digested into the open step of its channel, or late. -/
def State.tapOutput (s : State) (tag addr : Nat) (words : List Nat) : State :=
  let ch := bits tag 2 18
  let layer := bits tag 28 10
  match s.t.steps.find? fun o => hIndex o.handle == ch && o.step % 256 == bits tag 20 8 && !o.sent with
  | none => s.bump F.digLateWriteCount
  | some o =>
    let e := if o.layers.any (fun x => x.layer == layer) then (0, s) else s.layerEpoch layer
    e.2.setStep { o with layers := tapLayer o.layers layer (digestBlock (s.rd F.roleRole) layer addr words) e.1 }

/-- Terms of a block in a shard's sum: four blocks of 16 bytes from offset `off` of `n` in all (R231). -/
def blockTerms (h n off : Nat) (words : List Nat) : Nat :=
  (List.range 4).foldl (fun a i =>
    let b := words.getD (2 * i) 0 % 2 ^ 64 + 2 ^ 64 * (words.getD (2 * i + 1) 0 % 2 ^ 64)
    Nat.xor a (mul128 b (pow128 24 h (n + 1 - (4 * off + i))))) 0

/-- The keyed digest of a whole shard (R231). -/
def shardMac (x : Shard) : Nat := Nat.xor (Nat.xor x.p (mul128 x.len x.h)) x.sum

/-- A shard takes a block, and is judged when it was its last. -/
def State.takeBlock (s : State) (m : Manifest) (x : Shard) (off : Nat) (words : List Nat) : State :=
  let y := { x with state := 1, blocks := off :: x.blocks,
                    sum := Nat.xor x.sum (blockTerms x.h (x.len / 16) off words) }
  let s := s.modShard m.epoch x.layer x.id fun _ => y
  if y.blocks.length * 64 < x.len then s.showWg
  else if shardMac y = x.mac then
    (((s.modShard m.epoch x.layer x.id fun z => { z with state := 2, blocks := [], sum := 0 }).bump
      F.wgVerifiedCount).judgeLayer m.epoch x.layer).showWg
  else s.failShard m y 2

/-- A block that no open layer lists: counted, and every VERIFIED shard of a ready layer fails; the layer is not ready then,
one without own shards and one whose manifest is held no more as well (log 167). -/
def State.unlisted (s : State) (layer : Nat) : State :=
  let s := s.bump F.wgUnlistedCount
  if !s.layerReady layer then s
  else
    let s := s.bump F.wgUnopenedCount
    match (fget? s.t.layers layer).bind fun l => s.manifestOf l.epoch with
    | none => s.setReady layer false
    | some m => ((m.shardsOf layer).filter (·.state == 2)).foldl (fun s x => s.failShard m x 7) (s.setReady layer false)

/-- A load block: the gate's decision. -/
def State.tapLoad (s : State) (tag : Nat) (words : List Nat) : State :=
  let layer := bits tag 2 10
  let id := bits tag 12 16
  let off := bits tag 28 20
  match (fget? s.t.layers layer).bind fun l => s.manifestOf l.epoch with
  | none => s.unlisted layer
  | some m =>
    match (m.shardsOf layer).find? fun x => x.id == id with
    | none => s.unlisted layer
    | some x =>
      if x.state = 4 then s
      else if x.state = 2 || x.blocks.contains off then s.failShard m x 3
      else if x.len ≤ 64 * off then s.failShard m x 4
      else if x.state = 0 && (256 ≤ s.openShards.length || 2097152 < s.bitmapUsed + x.len / 64) then s.failShard m x 5
      else s.takeBlock m x off words

/-- TAP_WRITE (R221, R330): a block of kind output or load, with its tag, its address and its eight 64-bit words; in a
compute-domain reset only load blocks enter. -/
def execTapWrite (tag addr : Nat) (words : List Nat) (s : State) : Res :=
  onLive .tsu s fun s =>
    match bits tag 0 2 with
    | 1 => if s.t.cmpAck || !s.is F.digCfgEnable then s else s.tapOutput tag addr words
    | 2 => s.tapLoad tag words
    | _ => s

/-- SHARD_DEADLINE (R232): a shard that is not VERIFIED at its deadline becomes MISSING. -/
def execShardDeadline (layer shard : Nat) (s : State) : Res :=
  onLive .tsu s fun s =>
    match (fget? s.t.layers layer).bind fun l => s.manifestOf l.epoch with
    | none => s
    | some m =>
      match (m.shardsOf layer).find? fun x => x.id == shard with
      | none => s
      | some x => if x.state < 2 && x.deadline ≤ s.tsu.lfn then s.failShard m x 6 else s

/-! ### DIGEST_READ (R227) -/

/-- The seven words of a soredium (Table 10.1). -/
def sorWords (q : Soredium) : List Nat :=
  [q.handle % 2 ^ 32, q.step % 2 ^ 32,
   q.step / 2 ^ 32 % 2 ^ 16 + 2 ^ 16 * (q.split % 2 ^ 10) + 2 ^ 26 * (q.span % 16) + 2 ^ 30 * b2n q.multi
     + 2 ^ 31 * b2n q.incomplete,
   q.digest % 2 ^ 32, q.digest / 2 ^ 32 % 2 ^ 32, q.eMin % 2 ^ 32,
   q.count % 2 ^ 22 + 2 ^ 22 * (q.variant % 256) + 2 ^ 30 * b2n q.weight + 2 ^ 31 * b2n q.varMixed]

/-- A step record of Table 10.2 that the part holds: source 0 a die, 1 a subtree, 2 an apex. -/
def stepRecord (q : Soredium) (tick source : Nat) (lost : Bool) : List Byte :=
  wordsToBytes (sorWords q ++ [tick % 2 ^ 16 + 2 ^ 16 * source + 2 ^ 18 + 2 ^ 19 * b2n lost])

/-- Records of the steps from `k` on, `n` of them; of a step that is not held all but a clear `valid` is free
(log 9). The bytes, and how many were held. -/
def State.stepRecords (s : State) (find : Nat → Option (List Byte)) : Nat → Nat → (List Byte × Nat) × State
  | 0, _ => (([], 0), s)
  | n + 1, k =>
    match find k with
    | some b =>
      let r := s.stepRecords find n (k + 1)
      ((b ++ r.1.1, r.1.2 + 1), r.2)
    | none =>
      let d := s.draw
      let r := d.2.stepRecords find n (k + 1)
      ((toLe 32 (d.1 % 2 ^ 242) ++ r.1.1, r.1.2), r.2)

/-- The layers of a step, rising. -/
def layInsert (x : LayerDig) : List LayerDig → List LayerDig
  | [] => [x]
  | y :: l => if x.layer ≤ y.layer then x :: y :: l else y :: layInsert x l
def laySort (l : List LayerDig) : List LayerDig := l.foldl (fun a x => layInsert x a) []

/-- A layer record of Table 10.2. -/
def layerRecord (y : LayerDig) : List Byte := toLe 8 y.digest ++ toLe 4 y.epoch ++ toLe 4 (y.layer + 2 ^ 10 * satN 22 y.blocks)

/-- Records at a TSU. -/
def State.tsuRecords (s : State) (d : Desc) : (List Byte × Nat) × State :=
  let first := opnd d 40 6
  let n := digestCount d
  if bit (opnd d 46 2) 15 then
    let l := (laySort ((s.t.histLay.filter fun x => x.1 == d.handle && x.2.1 == first).map (·.2.2))).take n
    ((l.flatMap layerRecord, l.length), s)
  else
    s.stepRecords (fun k => (s.t.hist.find? fun x => x.1.handle == d.handle && x.1.step == k).map fun x =>
      stepRecord x.1 x.2.1 0 x.2.2) n first

/-- Records at a distributor: on a tenant ring those of the partitions of the ring's slots (log 32). -/
def State.dbxRecords (s : State) (f : InFlight) : (List Byte × Nat) × State :=
  let d := f.desc
  let seen := fun (part : Nat) => f.kind == 3 || f.slots.any fun k => s.slotPart k == part
  s.stepRecords (fun k => (s.d.hist.find? fun x => x.2.1.handle == d.handle && x.2.1.step == k && seen x.1).map fun x =>
    stepRecord x.2.1 x.2.2 (if (s.apexSlot x.1).isSome then 2 else 1) false) (digestCount d) (opnd d 40 6)

/-- DIGEST_READ: the records of a channel's steps, or at a TSU of the layers of one step; at a TSU the handle must be
current and the ring's tenant its own, or the ring a manager's. -/
def execDigestRead (p : Part) (ring seq : Nat) (s : State) : Res :=
  onLive p s fun s =>
    s.withDesc p ring seq 0x30 fun f s =>
      let d := f.desc
      let g := match p with
        | .tsu => gateStatus (s.tsuTenant d.handle false) f.tenant f.kind
        | .dbx => 0
      if g ≠ 0 then s.finish p ring seq g 0 0
      else
        let r := match p with
          | .tsu => s.tsuRecords d
          | .dbx => s.dbxRecords f
        (r.2.result p ring seq d r.1.1).finish p ring seq 0 0 r.1.2

end Sys2Proof.Machine
end

