-- ==== Sys2Proof/Machine/Security.lean ====
section
/-! DEFINITION. Trust and tenancy (chapter 13): SPDM sessions and ring bindings, the mailbox's answers, measurements,
staged images and scrubs. -/

namespace Sys2Proof.Machine

/-! ### What a report holds (R293 to R296) -/

/-- The 32 bytes of the state record, Table 13.6. -/
def State.stateRecord (s : State) (p : Part) : List Byte :=
  toLe 4 (s.secBits p) ++ toLe 8 (s.exported p).lfn ++ [s.timeState p, 0, 0, 0]
    ++ toLe 8 (s.rd64 (F.uidLoUid p) (F.uidHiUid p)) ++ List.replicate 8 0

/-- Index 16: the staged images by index and digest. -/
def State.stagedBytes (s : State) (p : Part) : List Byte := (s.node p).staged.flatMap fun x => x.1 % 256 :: toLe 48 x.2.1

/-- Flagged roles of a slot with their states: 1 not-ready, 3 retained, 4 insertion open, 5 state lost. Roles missing at
their last step are not among them: the conductor does not know which they are (R246). -/
def State.flaggedRoles (s : State) (slot : Nat) : List (Nat × Nat) :=
  let part := s.slotPart slot
  let ins : Nat → Nat → List (Nat × Nat) := fun st code => ((List.range 64).filter fun i => s.rd F.insertState i == st && s.rd F.insertSlot i == slot).map
    fun i => (s.rd F.insertRole i, code)
  let no : List (Nat × Nat) := (s.d.notReady.filter (·.1 == part)).map fun x => (x.2, 1)
  let ret : List (Nat × Nat) := (s.d.retPods.filter fun x => x.2.2 == part).map fun x => (x.1, 3)
  no ++ ret ++ ins 1 4 ++ ins 3 5

/-- A layout record, Table 13.7; the spares of a pod are the dies of its 128 that its roles leave (R16). -/
def State.layoutRecord (s : State) (slot : Nat) : List Byte :=
  let part := s.slotPart slot
  let pods := (s.scopesOf part).filter fun x => x.1 == 0
  let moved := (s.excsOf part).take 4096
  let all := s.flaggedRoles slot
  let flagged := all.take 256
  let owner := match fget? s.d.owners slot with | some o => o.1 | none => 0
  toLe 2 part
    ++ [slot % 256, s.rd F.condPartNested slot + 2 * b2n s.isActive + 4 * b2n (256 < all.length)]
    ++ toLe 16 owner ++ toLe 4 (ivCount (s.rolesBelow part))
    ++ toLe 2 pods.length ++ toLe 2 moved.length ++ toLe 2 flagged.length ++ [0, 0]
    ++ (pods.flatMap fun x => toLe 4 (x.2.1 % 2 ^ 14 + 2 ^ 16 * ((128 - (x.2.2.2 + 1 - x.2.2.1)) % 32)))
    ++ (moved.flatMap fun x => toLe 4 (x.1 + 2 ^ 21 * x.2))
    ++ (flagged.flatMap fun x => toLe 4 (x.1 % 2 ^ 21 + 2 ^ 21 * x.2))

/-! ### Sessions (R286 to R288) -/

/-- A requester key's tenant identity: the first 16 bytes of the SHA-384 of its point. -/
def tenantOf (key : Nat) : Nat := Config.sha384 (toLe 97 key) % 2 ^ 128

/-- A requester is a manager (R286): one of the fused owner digests is that of its key, or, with none fused, it has made the
first manager binding after reset. -/
def State.isManager (s : State) (p : Part) (key : Nat) : Bool :=
  let ds := Config.ownerDigests (partCode p)
  if ds.isEmpty then (s.node p).claimed == some key else ds.contains (Config.sha384 (toLe 97 key))

/-- A requester may bind as manager: it is one, or becomes it by the first claim. -/
def State.mayManage (s : State) (p : Part) (key : Nat) : Bool :=
  s.isManager p key || ((Config.ownerDigests (partCode p)).isEmpty && (s.node p).claimed.isNone)

/-- The requester key of a session: none for an unknown session, `some none` for one that is not authenticated. -/
def State.session (s : State) (p : Part) (n : Nat) : Option (Option Nat) :=
  ((s.node p).sessions.find? fun x => x.1 == n).map (·.2)

/-- `s` with its sessions changed. -/
def State.setSessions (s : State) (p : Part) (l : List (Nat × Option Nat)) : State :=
  (s.modNode p fun n => { n with sessions := l }).showSec

/-- Slots whose layout records a session receives: its tenant's for a tenant session, all otherwise (R293). -/
def State.reportSlots (s : State) (session : Option Nat) : List Nat :=
  let all := (List.range 256).filter s.slotServes
  match session.bind fun n => (s.session .dbx n).bind id with
  | some key =>
    if s.isManager .dbx key then all
    else all.filter fun k => match fget? s.d.owners k with | some o => o.1 == tenantOf key | none => false
  | none => all

/-- The measurement content that the rules give a report, by index. -/
def State.report (s : State) (p : Part) (session : Option Nat) : List (Nat × List Nat) :=
  match p with
  | .tsu => []
  | .dbx =>
    (s.dbx.images.map fun x => (x.1, [x.2])) ++
    [(7, [s.level, b2n s.sideB, b2n s.isRoot]), (16, s.stagedBytes .dbx)]
      ++ ((s.reportSlots session).map fun k => (0x40, s.layoutRecord k)) ++ [(0x41, s.stateRecord .dbx)]

/-- Sessions that a part holds at most: 64; a TSU's root of trust holds 8 or more, and from there on the limit is open
(log 9). -/
def State.sessionRoom (s : State) (p : Part) : Bool × State :=
  let n := (s.node p).sessions.length
  match p with
  | .dbx => (n < 64, s)
  | .tsu => if n < 8 then (true, s) else (s.draw.1 % 2 == 1, s.draw.2)

/-- What an SPDM request does to the sessions, and the kind of its response: 0, or an ERROR. Which other request is
answered with an ERROR is left to the standard: free (log 9). -/
def State.spdmEffect (s : State) (p : Part) (req : Spdm) : Nat × State :=
  let l := (s.node p).sessions
  match req with
  | .keyExchange =>
    let r := s.sessionRoom p
    if !r.1 then (3, r.2)
    else
      let v := r.2.draw
      (0, v.2.setSessions p (l ++ [(v.1 % 2 ^ 32, none)]))
  | .finish n both key =>
    if (s.session p n).isNone then (4, s)
    else (0, s.setSessions p (l.map fun x => if x.1 = n then (n, if both then some key else none) else x))
  | .endSession n =>
    if (s.session p n).isNone then (4, s) else (0, s.setSessions p (l.filter fun x => x.1 != n))
  | .getMeasurements sess _ =>
    match sess with
    | some n => if (s.session p n).isNone then (4, s) else (0, s)
    | none => (0, s)
  | .other _ => (if s.draw.1 % 2 = 1 then 4 else 0, s.draw.2)

/-- A descriptor completes with an SPDM response as its result, and its length in aux. -/
def State.answer (s : State) (p : Part) (ring seq status : Nat) (d : Desc) (bs : List Byte) : State :=
  (s.result p ring seq d (bs.take d.resLen)).finish p ring seq status 0 bs.length

/-- Session that a request names for its report. -/
def Spdm.session : Spdm → Option Nat
  | .getMeasurements s _ => s
  | _ => none

/-! ### ATTEST (R287, R288, R292 to R294) -/

/-- The role record of a TSU; its spare flag is open (log 9). -/
def State.roleBytes (s : State) : List Byte × State :=
  (Config.roleRecord (s.rd F.roleRole) s.diePartition (s.rd F.scopePodPod) (s.rd F.thealthRolePending) (s.draw.1 % 2),
   s.draw.2)

/-- ATTEST: a distributor's security core answers at once; a TSU hands the request with its records to the root of
trust. -/
def execAttest (p : Part) (ring seq : Nat) (req : Spdm) (s : State) : Res :=
  onLive p s fun s =>
    s.withDesc p ring seq 0x40 fun f s =>
      match p with
      | .dbx =>
        let rep := match req with
          | .getMeasurements sess _ => s.report .dbx sess
          | _ => []
        let r := s.spdmEffect .dbx req
        let s := r.2.draw.2
        s.answer .dbx ring seq (if r.1 = 0 then 0 else 0x30) f.desc
          (Config.spdmResponse r.2.draw.1 r.1 (if r.1 = 0 then rep else []))
      | .tsu =>
        if s.t.mbWait.any fun x => x.kind == 1 && x.ring == ring && x.seq == seq then s
        else
          let role := s.roleBytes
          role.2.mbRequest 1 ring seq (f.desc.ext ++ role.1 ++ s.stateRecord .tsu) (some req)

/-- ATTEST_TIMEOUT (R292): 45 ms after an ATTEST request no response has come. -/
def execAttestTimeout (ring seq : Nat) (s : State) : Res :=
  onLive .tsu s fun s =>
    match s.t.mbWait.find? fun x => x.kind == 1 && x.ring == ring && x.seq == seq with
    | none => s
    | some x =>
      if s.tsu.lfn < x.at_ + lfOfMs 45 then s
      else
        let s := s.modT fun t => { t with mbWait := t.mbWait.filter (· != x) }
        match s.inFlight .tsu ring seq with
        | none => s
        | some f =>
          let v := s.draw
          v.2.answer .tsu ring seq 0x30 f.desc (Config.spdmResponse v.1 2 [])

/-! ### KEY_INSTALL (R286, R289, R290) -/

/-- Another tenant holds what a binding names. -/
def State.heldByOther (s : State) (p : Part) (tenant : Nat) (mask : List Nat) : Bool :=
  match p with
  | .tsu => s.t.tenant.any (· != tenant)
  | .dbx => mask.any fun k => match fget? s.d.owners k with | some o => o.1 != tenant | none => false

/-- Refusal cause of Table 13.3, and the requester's key; cause 0 where the request is granted. A request of no op, or
one whose ring pair is not that of the operand, is refused as one whose message failed. -/
def State.installCause (s : State) (p : Part) (ring : Nat) (req : InstallReq) : Nat × Nat :=
  let key := ((s.session p req.session).bind id).getD 0
  let c :=
    if (req.op = 1 || req.op = 2) && (ring = 0 || ringCount p ≤ ring || s.is (F.ringCfgEnable p) ring) then 1
    else if !req.secured || ((s.session p req.session).bind id).isNone then 2
    else if !(1 ≤ req.op && req.op ≤ 3) || (req.op != 3 && req.ring != ring) then 2
    else if req.op = 2 && !s.mayManage p key then 3
    else if (req.op = 1 && s.heldByOther p (tenantOf key) req.mask) || (req.op = 3 && p == Part.tsu && s.heldByOther p (tenantOf key) []) then 4
    else if p == Part.dbx && (req.op = 3 || (req.op = 1 && req.mask.isEmpty)) then 5
    else 0
  (c, key)

/-- "KX7-RING". -/
def infoRing : List Byte := [75, 88, 55, 45, 82, 73, 78, 71]

/-- The fresh ring key of a binding (R289). -/
def ringKey (session ring count : Nat) : Nat :=
  leNat (Config.hkdfExpand (Config.exportSecret session) (infoRing ++ toLe 2 ring ++ toLe 8 count) 32) 0 32

/-- A ring pair is bound to a session and a key: its kind, tenant, slots, and sequence number 0. What it has fetched
before completes normally (R196). -/
def State.bindRing (s : State) (p : Part) (ring kind tenant : Nat) (slots : List Nat) (session key : Nat) : State :=
  let s := s.modRing p ring fun t =>
    { tenant := tenant, slots := slots, key := key, session := session, flight := t.flight, waiting := t.waiting, unsig := t.unsig
      bind := if t.flight.isEmpty then 0 else t.bind + 1 }
  ((s.wr (F.ringStatusKind p) kind ring).wr64 (F.ringSeqLoSeq p) (F.ringSeqHiSeq p) 0 ring).modNode p fun n =>
    { n with bindings := n.bindings + 1 }

/-- A granted binding takes effect: the owner of ownerless slots or the TSU's tenant, or the first claim; the ring. -/
def State.grantBind (s : State) (p : Part) (ring key : Nat) (req : InstallReq) (rkey : Nat) : State :=
  let tid := tenantOf key
  let s :=
    if req.op = 2 then
      s.modNode p fun n => { n with claimed := if (Config.ownerDigests (partCode p)).isEmpty then some key else n.claimed }
    else match p with
      | .tsu =>
        if s.t.tenant.isSome then s
        else (s.modT fun t => { t with tenant := some tid, tenantKey := key }).wr F.tsecStatusTenant 1
      | .dbx => s.modD fun d => { d with owners := req.mask.foldl (fun m k =>
          if (fget? m k).isSome then m else fset m k (tid, key)) d.owners }
  (s.bindRing p ring (req.op + 1) tid (if req.op = 1 then req.mask else []) req.session rkey).showSec

/-- The 32 bytes of an install response, Table 13.2. -/
def State.installResponse (s : State) (p : Part) (cause ring key : Nat) : List Byte :=
  [cause, ring % 256, 0, 0, 0, 0, 0, 0] ++ toLe 8 (s.node p).bindings ++ toLe 16 (tenantOf key)

/-- KEY_INSTALL completes. -/
def State.answerInstall (s : State) (p : Part) (ring seq : Nat) (d : Desc) (cause key : Nat) : State :=
  let v := s.draw
  v.2.answer p ring seq (if cause = 0 then 0 else 0x31) d
    (Config.spdmResponse v.1 1 [(0, s.installResponse p cause (opnd d 40 1) key)])

/-- A KEY_INSTALL request: a distributor's security core judges and binds at once; a TSU hands it to the root of trust,
which installs the key and answers (R292). -/
def State.keyInstall (s : State) (p : Part) (ring seq : Nat) (req : InstallReq) : State :=
  s.withDesc p ring seq 0x41 fun f s =>
    let target := opnd f.desc 40 1
    match p with
    | .dbx =>
      let c := s.installCause .dbx target req
      let s := if c.1 = 0 then s.grantBind .dbx target c.2 req (ringKey req.session target (s.dbx.bindings + 1)) else s
      s.answerInstall .dbx ring seq f.desc c.1 c.2
    | .tsu =>
      if s.t.mbWait.any fun x => x.kind == 2 && x.ring == ring && x.seq == seq then s
      else s.mbRequest 2 ring seq f.desc.ext none (some req)

/-- BIND_TENANT (R289, R290): the request's op is BIND_TENANT, or none that the table lists, which is refused. -/
def execBindTenant (p : Part) (ring seq : Nat) (req : InstallReq) (s : State) : Res :=
  onLive p s fun s => if req.op = 2 || req.op = 3 then s else s.keyInstall p ring seq req

/-- BIND_MANAGER (R286). -/
def execBindManager (p : Part) (ring seq : Nat) (req : InstallReq) (s : State) : Res :=
  onLive p s fun s => if req.op = 2 then s.keyInstall p ring seq req else s

/-- LOAD_KEY. -/
def execLoadKey (p : Part) (ring seq : Nat) (req : InstallReq) (s : State) : Res :=
  onLive p s fun s => if req.op = 3 then s.keyInstall p ring seq req else s

/-! ### The mailbox's answers (R292) -/

/-- A key for a ring pair binds it for the request that waits for it. -/
def State.installRingKey (s : State) (ring kind key : Nat) : State :=
  match s.t.mbWait.find? fun x => x.kind == 2 && !x.bound && x.inst.any fun r => r.ring == ring && r.op + 1 == kind with
  | none => s
  | some x =>
    match x.inst, s.inFlight .tsu x.ring x.seq with
    | some req, some f =>
      let c := s.installCause .tsu (opnd f.desc 40 1) req
      if c.1 ≠ 0 then s
      else (s.grantBind .tsu ring c.2 req key).modT fun t =>
        { t with mbWait := t.mbWait.map fun y => if y = x then { y with bound := true } else y }
    | _, _ => s

/-- KEY_INSTALL_WRITE: a write of TSU_KEY_SEL; install takes TSU_KEY_DATA as the selected key: of a link direction, or
of a ring pair. -/
def execKeyInstallWrite (v : Word) (rot : Bool) (s : State) : Res :=
  onLive .tsu s fun s =>
    if !rot then s.emit .tsu (.cfgErr 0x9010)
    else
      let s := s.regWrite .tsu 0x9010 v.toNat true false
      if !bit v.toNat 31 then s
      else
        let k := s.rd F.keySelTarget
        if k < 4 then s.installLinkKey (k / 2) (k % 2 == 1) (s.is F.keySelNext) s.keyData
        else if k < 6 then s.installRingKey (s.rd F.keySelRing) (k - 2) s.keyData
        else s

/-- The answer to a KEY_INSTALL request: granted when its ring has been bound, or when a load key is granted. -/
def State.installAnswered (s : State) (x : MbWait) (d : Desc) (bs : List Byte) : State :=
  match x.inst with
  | none => s
  | some req =>
    let c := s.installCause .tsu (opnd d 40 1) req
    if req.op = 3 && c.1 = 0 then
      (s.modT fun t => { t with loadKey := some req.loadKey }).answer .tsu x.ring x.seq 0 d bs
    else s.answer .tsu x.ring x.seq (if x.bound then 0 else 0x31) d bs

/-- The answer to an ATTEST request. -/
def State.attestAnswered (s : State) (x : MbWait) (d : Desc) (bs : List Byte) : State :=
  match x.spdm with
  | none => s
  | some req =>
    let r := s.spdmEffect .tsu req
    r.2.answer .tsu x.ring x.seq (if r.1 = 0 then 0 else 0x30) d bs

/-- A whole response reaches what waits for it. -/
def State.mbAnswer (s : State) (kind tag : Nat) (verdict : Bool) (bs : List Byte) : State :=
  if kind = 3 || kind = 4 then s.queueMsg .tsu (kind - 3) 3 0 bs
  else match s.t.mbWait.find? fun x => x.kind == kind && x.tag == tag with
    | none => s
    | some x =>
      let s := s.modT fun t => { t with mbWait := t.mbWait.filter (· != x) }
      match s.inFlight .tsu x.ring x.seq with
      | none => s
      | some f =>
        match kind with
        | 1 => s.attestAnswered x f.desc bs
        | 2 => s.installAnswered x f.desc bs
        | 5 => s.acceptManifest x.ring x.seq verdict
        | _ => s

/-- MAILBOX_RESPONSE: a write of TSU_MB_RSP; go hands the segment in the response buffer to the TSU, and the last one
completes the response. -/
def execMailboxResponse (v : Word) (rot : Bool) (bytes : List Byte) (s : State) : Res :=
  onLive .tsu s fun s =>
    if !rot then s.emit .tsu (.cfgErr 0x9004)
    else
      let s := s.regWrite .tsu 0x9004 v.toNat true false
      if !bit v.toNat 31 then s
      else
        let seg := bytes.take (s.rd F.mbRspLen)
        let all := if s.is F.mbRspFirst then seg else s.t.mbRsp ++ seg
        if !s.is F.mbRspLast then s.modT fun t => { t with mbRsp := all }
        else (s.modT fun t => { t with mbRsp := [] }).mbAnswer (s.rd F.mbRspKind) (s.rd F.mbRspTagTag) (s.is F.mbRspVerdict) all

/-! ### Staged images (R295) -/

/-- Discards every staged image. -/
def State.clearStaged (s : State) : State := (s.modNode .dbx fun n => { n with staged := [] }).showSec

/-- STAGE_COMMIT: a write of DBX_SEC_STAGE_CTRL with commit set verifies the image named and stages it, or refuses it. -/
def execStageCommit (v : Word) (sigOk : Bool) (svn digest : Nat) (s : State) : Res :=
  onLive .dbx s fun s =>
    let s := s.regWrite .dbx 0x90004 v.toNat false false
    let s := if bit v.toNat 19 then s.clearStaged else s
    if !bit v.toNat 18 then s
    else
      let i := s.rd F.stageCtrlImage
      let s := s.wr F.stageCtrlDone 1
      if sigOk && s.rd F.secSvnFusedMin ≤ svn && 2 ≤ i && i ≤ 5 then
        ((s.wr F.stageCtrlRejected 0).modNode .dbx fun n =>
          { n with staged := n.staged.filter (fun x => x.1 != i) ++ [(i, digest, svn)] }).showSec
      else ((s.wr F.stageCtrlRejected 1).bump F.fwRejectCount).interrupt .dbx 6

/-- STAGE_CLEAR: a write of DBX_SEC_STAGE_CTRL with clear set. -/
def execStageClear (v : Word) (s : State) : Res :=
  onLive .dbx s fun s =>
    let s := s.regWrite .dbx 0x90004 v.toNat false false
    if bit v.toNat 19 then s.clearStaged else s

/-! ### Scrubs (R297 to R300) -/

/-- Length of a scrub in link frames. -/
def scrubLf : Part → Nat
  | .tsu => lfOfMs 6
  | .dbx => lfOfMs 40

/-- The ring pair is unbound: it stops, and nothing of its binding is left. -/
def State.unbindRing (s : State) (p : Part) (ring : Nat) : State :=
  ((s.disableRing p ring).wr (F.ringStatusKind p) 0 ring).modNode p fun n => { n with rings := fdel n.rings ring }

/-- Tenant ring pairs of a part. -/
def State.tenantRings (s : State) (p : Part) : List Nat := (List.range (ringCount p)).filter fun r => s.ringKind p r == 2

/-- The ports named go into SCRUB, or back to UP. -/
def State.portsTo (s : State) (p : Part) (from_ dest : Nat) (l : List Nat) : State :=
  l.foldl (fun s i => if s.rd (F.portStateState p) i = from_ then s.setPort p i dest else s) s

/-- Every generation advances, and every index is in quarantine until max_life after the scrub's end. -/
def State.scrubIndices (s : State) : State :=
  let end_ := s.tsu.lfn + scrubLf .tsu + s.quarantineLf .tsu
  let n := s.t.chans.length
  let s := s.modNode .tsu fun n =>
    { n with gens := n.gens.map fun x => (x.1, nextGen x.2)
             genDef := nextGen n.genDef
             quar := n.quar.filter fun x => end_ < x.2
             quarAll := some end_ }
  (((s.emit .tsu (.genTable s.genWords)).wr (F.chCountInUse .tsu) 0).bump (F.chDestroyedCount .tsu) 0 n).showQuar .tsu

/-- The start's withdraw and kill words. -/
def State.scrubWords (s : State) : State :=
  let s := s.t.arm.foldl (fun s x => if x.2.state = 3 && !s.t.cmpAck then x.2.targets.foldl (fun s t =>
      s.fireNow t (launchWord 6 t x.1 (s.attempt (hIndex x.2.cz.handle)) 0 x.2.cz.handle x.2.cz.step) none) s
    else s) s
  s.t.chans.foldl (fun s x => s.fireKills (mkHandle x.2.gen x.1) (s.attempt x.1) x.2.targets) s

/-- The registers that a TSU's scrub returns to their reset values: role and scopes, peristomes, logs, tenant. -/
def State.scrubRegs (s : State) : State :=
  let s := [F.roleRole, F.roleRoleValid, F.thealthRolePending, F.scopePodPod, F.scopePkgBrdPackage, F.scopePkgBrdBoard,
    F.scopeChassisChassis, F.scopeChassisNested, F.missLog0Handle, F.missLog1StepLo, F.missLog2StepHi, F.missLog2Cause,
    F.missLog2Type, F.missLog3FireLfn, F.divLog0Handle, F.divLog1StepLo, F.divLog2Byte, F.divLog2FirstPort,
    F.fltLog0Handle, F.fltLog1StepLo, F.fltLog2StepHi, F.fltLog2Code, F.fltLog2IsAbort, F.fltLog3Lfn,
    F.tsecStatusTenant].foldl (fun s f => s.wr f 0) s
  let s := (List.range 15).foldl (fun s i => (List.range 8).foldl (fun s w => s.wr F.coresetMask 0 i w) s) s
  (List.range 256).foldl (fun s k => (s.wr F.periCfgSource 0 k).showTsuPeri k) s

/-- A scrub of the TSU (Table 13.9). -/
def State.scrubTsu (s : State) (ring seq : Nat) : State :=
  let s := s.scrubWords
  let s := (s.t.layers.map (·.1)).foldl (fun s l => s.setReady l false) s
  let s := s.scrubIndices.scrubRegs
  let s := s.modT fun t => { t with
    chans := [], arm := [], retired := [], refused := [], aborts := [], attempts := [], steps := [], rfe := [], closed := []
    logits := [], bcasts := [], slots := [], slotWait := [], hist := [], histLay := [], classes := []
    mfCur := none, mfIn := none, layers := [], loadKey := none, tenant := none, tenantKey := 0, partition := none
    readySent := false }
  let s := s.modT fun t => { t with regions := t.regions.map fun x => (x.1, { x.2 with staged := [] }) }
  let s := ((s.showArm.showRfe).showHist.showWg).wr F.resultStatusInUse 0
  let s := (s.tenantRings .tsu).foldl (fun s r => s.unbindRing .tsu r) s
  let s := s.setSessions .tsu (s.tsu.sessions.filter fun x => match x.2 with
    | some key => s.isManager .tsu key
    | none => true)
  let ports := [0, 1].filter (s.up .tsu)
  let s := (s.portsTo .tsu 4 6 ports).wr F.tsecStatusScrub 1
  s.modNode .tsu fun n => { n with scrub := some ⟨n.lfn, 0, some (ring, seq), ports⟩ }

/-- The tables of a partition's roles are invalid. -/
def State.dropTables (s : State) (part : Nat) : State :=
  let other := fun (x : Nat × Nat) => bits x.2 64 16 != part
  s.modD fun d => { d with tScope := d.tScope.filter other, tRoute := d.tRoute.filter other, tExc := d.tExc.filter other }

/-- The channels, plans, peristomes and queues of a slot end, without a crozier. -/
def State.dropSlot (s : State) (slot : Nat) : State :=
  let chs := (s.d.chans.filter fun x => x.2.r.slot == slot).map (·.1)
  let s := chs.foldl (fun s i => (s.teardown .dbx i s.dbx.lfn).modD fun d =>
    { d with chans := fdel d.chans i, attempts := fdel d.attempts i }) s
  let base := s.rd F.condSharePeriBase slot
  let n := s.rd F.condSharePeriCount slot
  let s := s.modD fun d =>
    { d with plans := d.plans.filter fun x => x.2.slot != slot
             peris := d.peris.filter fun x => !(x.2.slot == slot || (base ≤ x.1 && x.1 < base + n))
             destroyed := d.destroyed.filter fun x => x.2.r.slot != slot
             czq := fdel d.czq slot
             swaps := fdel d.swaps slot
             suspects := (d.suspects.map fun l => l.filter fun c => !chs.contains c).filter fun l => !l.isEmpty }
  ((s.showBound slot).wr F.condPartStatSwapActive 0 slot).showStore slot |>.showPeri

/-- What the node holds of a partition beside its slot ends. -/
def State.dropPartition (s : State) (slot part : Nat) : State :=
  let s := s.modD fun d =>
    { d with tau := d.tau.filter fun k => k.partition != part
             sors := d.sors.filter fun k => k.partition != part
             hist := d.hist.filter fun x => x.1 != part
             hangs := d.hangs.filter fun q => q.partition != part
             waitAcc := d.waitAcc.filter fun q => q.partition != part
             notReady := d.notReady.filter fun x => x.1 != part
             readyRoles := d.readyRoles.filter fun x => x.1 != part
             retPods := d.retPods.filter fun x => x.2.2 != part
             owners := fdel d.owners slot }
  let s := (s.showTau.showSor).dropTables part
  let s := (List.range 64).foldl (fun s i =>
    let s := if s.rd F.insertSlot i = slot && s.rd F.insertState i ≠ 0 then
        ([F.insertRole, F.insertState, F.insertSlot, F.insertPartnerPartner, F.insertDeadlineLfn].foldl
          (fun s f => s.wr f 0 i) ((List.range 4).foldl (fun s w => s.wr F.insertUidUid 0 i w) s)).modD
            fun d => { d with insertBy := fdel d.insertBy i }
      else s
    if s.is F.retainedValid i && s.rd F.retainedSlot i = slot then
      ((s.wr F.retainedValid 0 i).wr F.retainedRole 0 i).wr F.retainedSlot 0 i else s) s
  (List.range 1024).foldl (fun s g => if s.rd F.condGridSlot g = slot then s.wr F.condGridValid 0 g else s) s

/-- The slot leaves every ring's mask; a tenant ring that names no slot any more is unbound. -/
def State.dropMasks (s : State) (slot : Nat) : State :=
  (s.tenantRings .dbx).foldl (fun s r =>
    if !(s.ring .dbx r).slots.contains slot then s
    else
      let left := (s.ring .dbx r).slots.filter (· != slot)
      if left.isEmpty then s.unbindRing .dbx r else s.modRing .dbx r fun t => { t with slots := left }) s

/-- Ports that are UP and whose valid shares all belong to a partition. -/
def State.soleParts (s : State) (part : Nat) : List Nat :=
  (List.range 132).filter fun i =>
    let l := s.tmplPartitions (s.txTmpl .dbx i) ++ s.tmplPartitions (s.rxTmpl .dbx i)
    s.up .dbx i && !l.isEmpty && l.all (· == part)

/-- A scrub of a slot of the distributor (R298). A tenant whose last slot it was loses its sessions (Table 13.1). -/
def State.scrubDbx (s : State) (slot : Nat) (reply : Option (Nat × Nat)) : State :=
  let part := s.slotPart slot
  let owner := (fget? s.d.owners slot).map (·.1)
  let ports := s.soleParts part
  let s := ((s.dropSlot slot).dropPartition slot part).dropMasks slot
  let s := s.modNode .dbx fun n => { n with ports := n.ports.map fun x =>
    (x.1, { x.2 with queue := x.2.queue.filter fun q => q.partition != part }) }
  let gone := fun (k : Nat) => owner == some (tenantOf k) && !s.d.owners.any fun x => x.2.1 == tenantOf k
  let s := s.setSessions .dbx (s.dbx.sessions.filter fun x => match x.2 with | some k => !gone k | none => true)
  let s := (s.portsTo .dbx 4 6 ports).modNode .dbx fun n => { n with scrub := some ⟨n.lfn, slot, reply, ports⟩ }
  ((s.wr F.dsecStatusScrubSlotValid 1).wr F.dsecStatusScrubSlot slot).showSec

/-- SCRUB: the scrub begins; a distributor passes it over the pair's port to its twin. -/
def execScrub (p : Part) (ring seq : Nat) (s : State) : Res :=
  onLive p s fun s =>
    s.withDesc p ring seq 0x42 fun f s =>
      match (s.node p).scrub with
      | some x => if x.reply = some (ring, seq) then s else s.finish p ring seq 0xC 0 0
      | none =>
        match p with
        | .tsu => s.scrubTsu ring seq
        | .dbx =>
          let slot := opnd f.desc 40 1
          (s.emit .dbx (.peerMsg 4 [slot])).scrubDbx slot (some (ring, seq))

/-- SCRUB_RELAY: the twin's scrub begins on receipt, and writes no completion. -/
def execScrubRelay (slot : Nat) (s : State) : Res :=
  onLive .dbx s fun s => if s.scrubbing .dbx || !s.is F.condPartValid slot then s else s.scrubDbx slot none

/-- SCRUB_END (R299): at its fixed count the scrub ends, its ports return to UP, and the completion is written. -/
def execScrubEnd (p : Part) (s : State) : Res :=
  onLive p s fun s =>
    match (s.node p).scrub with
    | none => s
    | some x =>
      let end_ := x.began + scrubLf p
      if s.lfn p < end_ then s
      else
        let s := (s.modNode p fun n => { n with scrub := none }).portsTo p 6 4 x.ports
        let s := match p with
          | .tsu => s.wr F.tsecStatusScrub 0
          | .dbx => ((s.wr F.dsecStatusScrubSlotValid 0).wr F.dsecStatusScrubSlot 0).showSec
        match x.reply with
        | some r => s.finish p r.1 r.2 0 end_ 0
        | none => s

end Sys2Proof.Machine
end

