-- ==== Sys2Proof/Machine/Boot.lean ====
section
/-! DEFINITION. Power-up and bring-up (chapter 14): resets and releases of the two parts, the sixteen steps with their
policies and records, and the rows that end or clear them. -/

namespace Sys2Proof.Machine

/-! ### Resets and releases (R240, R241, R313 to R315, R320, R333, R342, R348, R355) -/

/-- A TSU's straps act: the snapshot, every LVL_CUR, OE_RST_N and the enables of its ports (Table 15.2). -/
def State.strapTsu (s : State) (lvl oe port : Nat) : State :=
  let s := ((s.wr F.tstrapSnapLvl lvl).wr F.tstrapSnapOe oe).wr F.tstrapSnapPort port
  let s := (List.range 8).foldl (fun s w => s.wr F.lvlCurLevels (lvl % 16 * 0x11111111) w) s
  let s := [0, 1].foldl (fun s i => s.wr (F.portCtrlEnable .tsu) (bits port i 1) i) s
  s.emit .tsu (.pin .oeRstN (oe % 2))

/-- The TSU in reset: every field at its reset value (R355), its outputs at their strap values, its lanes idle. -/
def State.resetTsu (s : State) : State :=
  let lvl := s.rd F.tstrapSnapLvl
  let oe := s.rd F.tstrapSnapOe
  let port := s.rd F.tstrapSnapPort
  let s : State := { s with
    tsu := { live := false, out := s.tsu.out, bindings := s.tsu.bindings, lockLane := s.tsu.lockLane }
    t := {} }
  ((s.strapTsu lvl oe port).emit .tsu (.pin .cmpRstReq 0)).emit .tsu (.pin .optics 0)

/-- DIE_RESET: TSU_RST_N or PWR_GOOD falls. -/
def execDieReset (s : State) : Res := .next s.resetTsu

/-- DIE_RESET_RELEASE: the straps are sampled, and bring-up begins from B0. -/
def execDieResetRelease (lvl oe port : Nat) (s : State) : Res :=
  .next (if s.tsu.live then s
    else (s.modNode .tsu fun n => { n with live := true }).strapTsu lvl oe port)

/-- Images that run from this reset on, and the security version of the last one staged (R295). -/
def State.stagedRun (s : State) : FMap Nat × Nat :=
  s.dbx.staged.foldl (fun a x => (fset a.1 x.1 x.2.1, x.2.2)) (s.dbx.images, s.rd F.secSvnRunning)

/-- A distributor member's outputs in reset and before the end of B3: dark, or high-impedance, where the board's resistors
pull the pulse outputs low and release ELS_EN_N (R313, R314). -/
def State.pinsOff (s : State) : State :=
  let s := ((s.emit .dbx (.pin .optics 0)).emit .dbx (.pin (.refTx 0) 0)).emit .dbx (.pin (.refTx 1) 0)
  let s := (List.range 8).foldl (fun s k => s.emit .dbx (.pin (.elsEnN k) 1)) s
  ((List.range 6).foldl (fun s k => s.emit .dbx (.pin (.output k) 0)) s).emit .dbx (.pin .ref10m 0)

/-- The distributor in reset: every field at its reset value (R355); the boot record, the images and the straps stay. -/
def State.resetDbx (s : State) : State :=
  let run := s.stagedRun
  let boot := s.rd F.dstrapSnapBootSrc
  let smb := s.rd F.dstrapSnapSmbAddr
  let s : State := { s with
    dbx := { live := false, out := s.dbx.out, bindings := s.dbx.bindings, images := run.1, lockLane := s.dbx.lockLane }
    d := { store := s.d.store, tripped := s.d.tripped, tripOwed := s.d.tripOwed } }
  (((s.wr F.dstrapSnapBootSrc boot).wr F.dstrapSnapSmbAddr smb).wr F.secSvnRunning run.2).pinsOff

/-- RESET_N or PWRGOOD is low: the part is in reset, and stays there until both are high (R342). -/
def State.assertReset (s : State) : State := s.resetDbx.modD fun d => { d with held := true }

/-- DISTRIBUTOR_RESET: RESET_N or PWRGOOD falls. ALERT_N and THERM_N are not asserted in reset, unless a trip holds. -/
def execDistributorReset (s : State) : Res :=
  let s := s.assertReset
  .next (if s.d.tripped then s else (s.emit .dbx (.pin .alertN 1)).emit .dbx (.pin .thermN 1))

/-- The boot record is honoured at this start (R348). -/
def State.storeRead (s : State) : Option (FMap Nat) :=
  if s.rd F.dstrapSnapBootSrc = 1 then none else s.d.store

/-- The records, the policy and the counts of the ports come from the boot record; the node configuration waits for
B3. -/
def State.loadRecords (s : State) : State :=
  match s.storeRead with
  | none => s.wr (F.bootStatusNoRecord .dbx) 1
  | some m => s.modNode .dbx fun n =>
    { n with regs := (m.filter fun x => x.1 / 32 != 0x400).foldl (fun r x => fset r x.1 x.2) n.regs }

/-- Some step or port has failed at the start before. -/
def State.anyFail (s : State) : Bool :=
  (List.range 16).any fun k => s.rd (F.bootRecConsecFail .dbx) k != 0

/-- A distributor member starts: its records are read and the start is counted (R241, R309). PWRGOOD is high, so every supply
is within tolerance (R342, R350, log 163). -/
def State.startDbx (s : State) : State :=
  let s := ((s.modNode .dbx fun n => { n with live := true }).wr F.railStatusInTol 0xFF).loadRecords
  let s := s.wr (F.bootStartStarts .dbx) (s.rd (F.bootStartStarts .dbx) + 1)
  if s.anyFail then s.saveBoot else s

/-- RESET_N is released with PWRGOOD high, and the straps are sampled. -/
def State.releaseReset (s : State) (bootSrc smbAddr : Nat) : State :=
  ((s.wr F.dstrapSnapBootSrc bootSrc).wr F.dstrapSnapSmbAddr smbAddr).modD fun d => { d with held := false }

/-- The start after a thermal trip: trip_evt is set and the trip counted (R343). -/
def State.tellTrip (s : State) : State :=
  (((s.modD fun d => { d with tripOwed := false }).wr F.thermStatusTripEvt 1).bump F.cntTripCount).interrupt .dbx 7

/-- DISTRIBUTOR_RESET_RELEASE: RESET_N and PWRGOOD are high; the part starts unless a thermal trip holds. -/
def execDistributorResetRelease (bootSrc smbAddr : Nat) (s : State) : Res :=
  .next (if s.dbx.live then s
    else if s.d.tripped then s.releaseReset bootSrc smbAddr
    else if s.d.tripOwed then (s.releaseReset bootSrc smbAddr).startDbx.tellTrip
    else (s.releaseReset bootSrc smbAddr).startDbx)

/-! ### The steps (R303, R304) -/

/-- The part takes the step (Table 14.1). -/
def State.stepApplies (s : State) (p : Part) (k : Nat) : Bool :=
  match p with
  | .tsu => k < 16 && !([7, 8, 12, 13].contains k)
  | .dbx => k < 16 && k != 10 && (if s.isRoot then k != 9 else k != 7 && k != 8)

/-- A step has ended at this start. -/
def State.ended (s : State) (p : Part) (k : Nat) : Bool := (s.node p).bootDone.contains k

/-- A step has failed at this start. -/
def State.bootFailed (s : State) (p : Part) (k : Nat) : Bool := s.is (F.bootRecStatFailed p) k

/-- Ports of a part whose enable is set. -/
def State.enabledPorts (s : State) (p : Part) : List Nat := (List.range (portCount p)).filter fun i => s.is (F.portCtrlEnable p) i

/-- The state of a port. -/
def State.portSt (s : State) (p : Part) (i : Nat) : Nat := s.rd (F.portStateState p) i

/-- Steps whose end the part's state does not show: each has ended when the next one begins (log 34). -/
def silentStep (k : Nat) : Bool := k == 0 || k == 1 || k == 2

/-- The step before has ended: done, or a silent step that has begun and that nothing has stopped, or B4 or B5 failed. -/
def State.endedBefore (s : State) (p : Part) (k : Nat) : Bool :=
  s.ended p k || k == 0 || (silentStep k && (s.node p).bootBegun.contains k && !s.bootFailed p k)
    || ((k == 4 || k == 5) && s.bootFailed p k)

/-- The region tree keeps R38. -/
def State.regionsOk (s : State) : Bool := (List.range 64).all fun r => !s.regionOn r || (s.regionDepth 15 r).isSome

/-- "Begins" of Table 14.1. -/
def State.stepBegins (s : State) (p : Part) (k : Nat) : Bool :=
  match k with
  | 0 => true
  | 7 => s.ended p 3
  | 8 => s.ended p 7 && 3 ≤ s.portSt p s.xPort && s.portSt p s.xPort != 7
  | 9 => (s.parentPorts p).any (s.parentValid p)
  | 10 => s.ended p 9
  | 11 => (s.node p).labelled && (List.range (portCount p)).any fun i => s.portSt p i == 3
  | 12 => (s.ended p 8 || s.ended p 9) && (List.range 128).all fun i => !s.is (F.portCtrlExpected p) i || (s.port p i).cValid
  | 13 => (s.ended p 8 || s.ended p 9) && s.pairUp
  | 14 => match p with | .tsu => s.ended p 10 | .dbx => s.ended p 13
  | k + 1 => s.endedBefore p k

/-- The apex slots' part of partition-ready: a role with its twin in step or none, and a ready report from every role
(R308). -/
def State.slotReady (s : State) (slot : Nat) : Bool :=
  let part := s.slotPart slot
  (s.condRole == 2 || s.is F.condStatusInStep)
    && ivCount (s.rolesBelow part) ≤ ((s.d.readyRoles.filter fun x => x.1 == part).eraseDups).length

/-- Every port on a slot's partition's paths at the node is UP and carries its templates in both directions (R308): the
downlinks toward its roles, and below its apex the uplinks. -/
def State.slotPaths (s : State) (slot : Nat) : Bool :=
  let part := s.slotPart slot
  let ups := if s.is F.condPartApex slot then [] else uplinks .dbx
  (((s.positionsOf part).flatMap s.portsAt) ++ ups).all fun i =>
    s.up .dbx i && (s.tmplPartitions (s.txTmpl .dbx i)).contains part && (s.tmplPartitions (s.rxTmpl .dbx i)).contains part

/-- The node's part of partition-ready (R308): its lock, its expected ports UP, the paths of the partitions whose slot records
it holds, its apex slots. -/
def State.nodeReady (s : State) : Bool :=
  s.locked .dbx && ((List.range 132).all fun i => !s.is (F.portCtrlExpected .dbx) i || s.up .dbx i)
    && (List.range 256).all fun k => !s.is F.condPartValid k || (s.slotPaths k && (!s.slotServes k || s.slotReady k))

/-- "Done when" of Table 14.1, for the steps whose end the state shows. -/
def State.stepDone (s : State) (p : Part) (k : Nat) : Bool :=
  match p, k with
  | _, 0 => true
  | .tsu, 3 => s.is F.bootCfgCfgDone && s.regionsOk
  | .dbx, 3 => s.is F.nodeCfgValid
  | .tsu, 4 => s.is F.oeStatusReady
  | .dbx, 4 => (List.range 8).all fun m => !bit (s.rd F.elsCtrlEn) m || (s.is F.elsStatPresent m && !s.is F.elsStatAlarm m)
  | p, 5 => (List.range (portCount p)).all fun i => (s.port p i).selfDue != 0
  | p, 6 => (s.enabledPorts p).all fun i => 3 ≤ s.portSt p i
  | .dbx, 7 => s.rd F.selStatusSelState == 1 || (s.rd F.selStatusSelState == 0 && s.is F.refCtrlForceFree)
  | p, 8 => s.timeValid p && (s.port p s.xPort).pValid
  | p, 9 => s.timeValid p
  | .tsu, 10 => (List.range 64).all fun r => !s.regionOn r || s.regionValid r
  | p, 11 => (s.enabledPorts p).all fun i => s.portSt p i != 3 && s.portSt p i != 7
  | .dbx, 12 => s.is F.closeStatusDone
  | .dbx, 13 => s.condRole == 2 || (s.condRole != 3 && s.is F.condStatusInStep)
  | p, 14 => s.locked p
  | .tsu, 15 => s.t.readySent
  | .dbx, 15 => s.nodeReady
  | _, _ => false

/-! ### Records (R309, R310) -/

/-- Milliseconds since the end of B0. -/
def State.bootMs (s : State) (p : Part) : Nat := (s.node p).age * 8192 / 10 ^ 8

/-- A step fails with a code: its record, boot_evt, and its store. Consecutive failures count starts. -/
def State.failStep (s : State) (p : Part) (k code : Nat) : State :=
  let s := if s.bootFailed p k then s else s.bump (F.bootRecConsecFail p) k
  let s := ((s.wr (F.bootRecLastCode p) code k).wr (F.bootRecStatFailed p) 1 k).storeRec p k
  if s.is (F.bootStatusBootEvt p) then s else (s.wr (F.bootStatusBootEvt p) 1).interrupt p 5

/-- A part halts: ALERT_N, and every optical output dark; a distributor holds its CMOS outputs as before the end of B3, low
by their resistors, and releases ELS_EN_N (R311, R314). -/
def State.halt (s : State) (p : Part) : State :=
  let s := ((s.wr (F.bootStatusHalted p) 1).raiseAlert p 0x311).emit p (.pin .optics 0)
  match p with
  | .tsu => s
  | .dbx => s.pinsOff

/-- The code with which a step ends though its condition holds; 0 for none (Table 14.4). -/
def State.endCode (s : State) (p : Part) (k : Nat) : Nat :=
  if k = 5 && (List.range (portCount p)).any fun i => s.is (F.portTstatTdcFault p) i then 0x501
  else if k = 12 && s.rd (F.bootRecStatAction p) 12 = 0
      && (s.is F.closeStatusX0Bad || s.is F.closeStatusX0Unjudged || 8 < s.rd F.closeStatusFlagged) then 0xC01
  else 0

/-- A normal run has succeeded: its consecutive failures end, and a record that told of one is written. -/
def State.succeed (s : State) (p : Part) (k : Nat) : State :=
  if s.rd (F.bootRecConsecFail p) k = 0 then s else (s.wr (F.bootRecConsecFail p) 0 k).storeRec p k

/-- Ports on which a normal run of B6 or B11 has succeeded at this start, though it failed at the last. -/
def State.portsRecovered (s : State) (p : Part) (k : Nat) : List Nat :=
  (s.enabledPorts p).filter fun i =>
    if k = 6 then 3 ≤ s.portSt p i && !s.is (F.bootPortOneLane p) i && s.rd (F.bootPortTrainFail p) i != 0
      && !(s.node p).bootTrain.contains i
    else k = 11 && s.portSt p i = 4 && s.rd (F.bootPortKeyFail p) i != 0 && !(s.node p).bootTrain.contains (i + 256)

/-- The counts of such ports return to 0, here and in the store (R309, R310). -/
def State.portsSucceed (s : State) (p : Part) (k : Nat) : State :=
  let l := s.portsRecovered p k
  if l.isEmpty then s
  else (l.foldl (fun s i => s.wr (if k = 6 then F.bootPortTrainFail p else F.bootPortKeyFail p) 0 i) s).storeRec p k

/-- The outputs that are driven from the end of B3 (R313). -/
def State.pinsOn (s : State) : State :=
  ((List.range 6).foldl (fun s k => s.emit .dbx (.pin (.output k) 0)) s).emit .dbx (.pin .ref10m 0)

/-- A step ends: its time, its record, and what its end brings; B1 ends in a halt when BOOT_SRC asks for it (R348). -/
def State.endStep (s : State) (p : Part) (k : Nat) : State :=
  let code := s.endCode p k
  let s := (s.modNode p fun n => { n with bootDone := n.bootDone ++ [k] }).wr (F.bootRecStatDoneMs p) (satN 24 (s.bootMs p)) k
  let s := s.portsSucceed p k
  let s := if code ≠ 0 then s.failStep p k code
    else if s.rd (F.bootRecStatAction p) k = 0 && !s.bootFailed p k then s.succeed p k
    else s
  let s := if k = 15 then s.wr (F.bootStatusStep p) 16 else s
  match p with
  | .tsu => s
  | .dbx =>
    if k = 3 then s.latchConfig.pinsOn
    else if k = 1 && s.rd F.dstrapSnapBootSrc = 2 then s.halt .dbx
    else s

/-! ### What a step does -/

/-- B3 of a distributor: the node configuration and the set-up fields of the boot record (R309, R316, R356). -/
def State.applyRecord (s : State) : State :=
  match s.storeRead with
  | none => s
  | some m =>
    let get := fun (f : Fld) => fgetD m (f.key 0 0) 0
    let s := (((s.wr F.nodeCfgLevel (get F.nodeCfgLevel)).wr F.nodeCfgSide (get F.nodeCfgSide)).wr F.nodeCfgRoot
      (get F.nodeCfgRoot)).wr F.nodeCfgValid (get F.nodeCfgValid)
    Config.bootSetup.foldl (fun s x => (s.regWrite .dbx x.1 x.2 false true).afterWrite .dbx x.1) s

/-- B4 of a distributor: the lasers of enabled modules and the transmitters go on. -/
def State.lightUp (s : State) : State :=
  let s := (List.range 8).foldl (fun s k => s.emit .dbx (.pin (.elsEnN k) (1 - bits (s.rd F.elsCtrlEn) k 1))) s
  let s := s.emit .dbx (.pin .optics 1)
  if s.isRoot then (s.emit .dbx (.pin (.refTx 0) 1)).emit .dbx (.pin (.refTx 1) 1) else s

/-- Member A of the root pair. -/
def State.rootA (s : State) (p : Part) : Bool := p == Part.dbx && s.isRoot && !s.sideB

/-- A root member with no label count counts LFN from its first link frame, and member A labels it at once (R27, R105,
R305). Whether this is a cold start it learns by its twin's S0 or by the end of B6 over a dark X0. -/
def State.originate (s : State) (p : Part) : State :=
  if p == Part.dbx && s.isRoot && !s.dbx.labelled then
    s.modNode .dbx fun n => { n with labelled := !s.sideB, origin := true, lfn := 0, sub := 0, frac := 0 }
  else s

/-- Member A is the time master from its first lock (R305), unless its twin runs: a member that restarts while its twin
is master follows it (R70). -/
def State.firstMaster (s : State) (p : Part) : State :=
  let x := s.port .dbx s.xPort
  if s.rootA p && !x.pMaster && !x.pValid then s.becomeMaster else s

/-- What the normal run of a step does at its begin. -/
def State.runStep (s : State) (p : Part) (k : Nat) : State :=
  match p, k with
  | .dbx, 3 => s.applyRecord
  | .dbx, 4 => s.lightUp
  | p, 6 => s.originate p
  | .dbx, 7 => (s.firstMaster .dbx).applyForceFree
  | .dbx, 12 => s.closurePeriod
  | .tsu, 15 => s.oweReady
  | _, _ => s

/-- Steps that have an alternative (Table 14.4). -/
def altSteps : Part → List Nat
  | .tsu => [2, 4, 6, 9]
  | .dbx => [1, 2, 4, 6, 7, 9, 12]

/-- Modules that are absent or in alarm are left disabled. -/
def State.dropModules (s : State) : State :=
  (List.range 8).foldl (fun s k =>
    if s.is F.elsStatPresent k && !s.is F.elsStatAlarm k then s else s.wr F.elsCtrlEn (setBit (s.rd F.elsCtrlEn) k false)) s

/-- Ports at B6's threshold start on one lane: the lane that last held block lock, otherwise lane 1 (R312). -/
def State.oneLanes (s : State) (p : Part) : State :=
  (s.enabledPorts p).foldl (fun s i =>
    if s.rd (F.bootPolicyThreshold p) 6 ≤ s.rd (F.bootPortTrainFail p) i then
      let lane := fgetD (s.node p).lockLane i 1
      (((s.wr (F.bootPortOneLane p) 1 i).wr (F.bootPortLane p) lane i).modPort p i fun t => { t with want := 2 ^ lane })
    else s) s

/-- A failing SRAM bank is retired to a spare, and beyond 8 the part halts. -/
def State.retireBank (s : State) : State :=
  let n := s.rd F.sramTestSparesUsed
  if n < 8 then s.wr F.sramTestSparesUsed (n + 1) else s.halt .dbx

/-- The alternative of a step (Table 14.4). -/
def State.altStep (s : State) (p : Part) (k : Nat) : State :=
  match p, k with
  | .dbx, 2 => if s.rd (F.bootRecLastCode .dbx) 2 = 0x202 then s.retireBank else s
  | .dbx, 4 => s.dropModules.lightUp
  | p, 6 => (s.oneLanes p).originate p
  | .dbx, 7 => ((s.wr F.refCtrlForceFree 1).firstMaster .dbx).applyForceFree
  | p, 9 => s.modNode p fun n => { n with altPort := true }
  | .dbx, 12 => s.wr F.closeCtrlPeriodic 0
  | _, _ => s

/-- Consecutive failures that a step's threshold is held against; for B6 the greatest of its ports' too. -/
def State.failsOf (s : State) (p : Part) (k : Nat) : Nat :=
  let own := s.rd (F.bootRecConsecFail p) k
  if k = 6 then (s.enabledPorts p).foldl (fun a i => max a (s.rd (F.bootPortTrainFail p) i)) own else own

/-- The action that the policy gives a step at this start (R310): 0 run, 1 skip, 2 alternative, 3 halt. -/
def State.policyAction (s : State) (p : Part) (k : Nat) : Nat :=
  let th := s.rd (F.bootPolicyThreshold p) k
  if th = 0 || s.failsOf p k < th || s.rd (F.bootStartStarts p) % 8 = 0 then 0
  else match s.rd (F.bootPolicyAction p) k with
    | 1 => if [1, 2, 11].contains k then 0 else 1
    | 2 => if (altSteps p).contains k then 2 else 0
    | 3 => 3
    | _ => 0

/-- A step begins: by its policy it runs, is skipped, takes its alternative or halts the part. -/
def State.beginStep (s : State) (p : Part) (k : Nat) : State :=
  let a := s.policyAction p k
  let s := if 0 < k && silentStep (k - 1) && !s.ended p (k - 1) then s.endStep p (k - 1) else s
  if s.is (F.bootStatusHalted p) then s
  else
    let s := ((s.modNode p fun n => { n with bootBegun := n.bootBegun ++ [k], bootAt := fset n.bootAt k n.age }).wr (F.bootStatusStep p) k).wr
      (F.bootRecStatAction p) a k
    match a with
    | 3 => s.halt p
    | 1 => (s.wr (F.bootStatusSkipped p) 1).endStep p k
    | 2 =>
      let s := (s.altStep p k).wr (F.bootStatusAlt p) 1
      if k = 12 || (k = 4 && p == Part.tsu) || s.stepDone p k then s.endStep p k else s
    | _ =>
      let s := (s.bump (F.bootRecAttempts p) k).runStep p k
      if s.stepDone p k then s.endStep p k else s

/-- BRINGUP_STEP: a step whose begin condition holds begins; one that has begun ends when its end condition holds. -/
def execBringupStep (p : Part) (step : Nat) (s : State) : Res :=
  onLive p s fun s =>
    if !s.stepApplies p step || s.is (F.bootStatusHalted p) || s.ended p step then s
    else if (s.node p).bootBegun.contains step then (if s.stepDone p step then s.endStep p step else s)
    else if s.stepBegins p step then s.beginStep p step
    else s

/-! ### Failures (R305, R307, R312) -/

/-- Codes of a step, as their low bytes' greatest value (Table 14.4). -/
def codesOf (p : Part) (k : Nat) : Nat :=
  match p, k with
  | .tsu, 1 => 3
  | .dbx, 1 => 2
  | .tsu, 4 => 2
  | _, 2 => 2
  | .tsu, 3 => 2
  | _, 6 => 2
  | _, 11 => 2
  | _, _ => 1

/-- Limit of a step in link frames, Table 14.1. -/
def stepLimit : Part → Nat → Nat
  | _, 1 => lfOfMs 60
  | .dbx, 2 => lfOfMs 200
  | .tsu, 2 => lfOfMs 100
  | _, 3 => lfOfS 10
  | _, 4 => lfOfMs 50
  | _, 5 => lfOfMs 2
  | _, 6 => lfOfMs 150
  | _, 7 => lfOfS 10
  | _, 8 => lfOfMs 20
  | _, 9 => lfOfMs 50
  | _, 10 => 2048
  | _, 11 => lfOfMs 25
  | _, 12 => lfOfMs 10
  | _, 13 => lfOfMs 10
  | _, 14 => lfOfS 1
  | _, 15 => lfOfMs 100
  | _, _ => 0

/-- Codes that name an event, which may end a step before its limit; each other code is that of the limit (Table 14.4). -/
def eventCodes : List Nat := [0x001, 0x101, 0x102, 0x201, 0x202, 0x302, 0x602, 0xB01]

/-- The step has run for its limit: since it began, on a port of B11 since that is UNKEYED too. -/
def State.limitPassed (s : State) (p : Part) (k port : Nat) : Bool :=
  let began := fgetD (s.node p).bootAt k 0
  let from_ := if k = 11 then max began (s.port p port).keyAge else began
  from_ + stepLimit p k ≤ (s.node p).age

/-- The step may fail with a code, at a port where it runs on each: at its limit, or before it by an event. Supplies may drop
until the start has ended (code 0x0001). -/
def State.mayFail (s : State) (p : Part) (k code port : Nat) : Bool :=
  s.stepApplies p k && (s.node p).bootBegun.contains k && code / 256 == k && 1 ≤ code % 256 && code % 256 ≤ codesOf p k
    && (eventCodes.contains code || s.limitPassed p k port)
    && (if k = 0 then !s.ended p 15 && !s.bootFailed p 0
        else if k = 6 then s.is (F.portCtrlEnable p) port && s.portSt p port < 3 && port < portCount p
        else if k = 11 then s.portSt p port == 3 && port < portCount p
        else !s.ended p k && !s.stepDone p k && !s.bootFailed p k)

/-- Highest label that a downlink carries with labelled set (R27, R305). -/
def State.childLabel (s : State) : Option Nat :=
  (List.range 128).foldl (fun a i =>
    let t := s.port .dbx i
    if !t.pLabelled then a else match a with
      | some l => some (max l t.pLabel)
      | none => some t.pLabel) none

/-- The node takes a label count; a count that it already has never moves back. -/
def State.countFrom (s : State) (l : Nat) : State :=
  s.modNode .dbx fun n => if n.labelled && l ≤ n.lfn then n else { n with labelled := true, lfn := l, sub := 0, frac := 0 }

/-- A root member whose X0 is DARK at the limit of B6 decides by its downlinks whether its twin is absent (R305). -/
def State.rootDecide (s : State) : State :=
  let s0 := s.modNode .dbx fun n => { n with origin := false }
  if s0.masterFailed then
    (s0.countFrom (match s0.childLabel with | some l => l + 1024 | none => s0.dbx.lfn)).becomeMaster
  else ((match s0.childLabel with
    | some l => s0.countFrom l
    | none => s0).wr F.selStatusMaster 0).enterHold .dbx

/-- A port's failure counts at the port, once a start. -/
def State.countPort (s : State) (p : Part) (k port : Nat) : State :=
  if k = 6 then s.countTrain p port
  else if k = 11 then
    if (s.node p).bootTrain.contains (port + 256) then s
    else (s.bump (F.bootPortKeyFail p) port).modNode p fun n => { n with bootTrain := n.bootTrain ++ [port + 256] }
  else s

/-- BRINGUP_STEP_LIMIT: the step fails with a code of Table 14.4; ports of the step that have succeeded end their run of
failures. -/
def execBringupStepLimit (p : Part) (step code port : Nat) (s : State) : Res :=
  onLive p s fun s =>
    if !s.mayFail p step code port then s
    else
      let s := ((s.countPort p step port).portsSucceed p step).failStep p step code
      if p == Part.dbx && step == 6 && s.isRoot && port == s.xPort && s.portSt .dbx port ≤ 1 then s.rootDecide
      else if p == Part.dbx && step == 1 && s.rd (F.bootRecStatAction .dbx) 1 = 2 then s.halt .dbx
      else s

/-- CFG_DONE (R240): a write of TSU_BOOT_CFG; cfg_done ends B3 when the region tree keeps R38, and is a failure of B3,
which waits on, when it does not. -/
def execCfgDone (v : Word) (s : State) : Res :=
  onLive .tsu s fun s =>
    let s := if s.locked .tsu && s.rd F.bootCfgCfgDone ≠ bits v.toNat 0 1 then s.logErr .tsu 0x0001 noPort 0x400
      else s.regWrite .tsu 0x400 v.toNat false (!s.locked .tsu)
    if !bit v.toNat 0 || !s.tsu.bootBegun.contains 3 || s.ended .tsu 3 then s
    else if s.stepDone .tsu 3 then s.endStep .tsu 3
    else if s.is F.bootCfgCfgDone then s.failStep .tsu 3 0x302
    else s

/-- BOOT_REC_CLEAR (R316): consecutive failures and the last code of a step clear, here and in the store. -/
def execBootRecClear (p : Part) (step : Nat) (s : State) : Res :=
  onLive p s fun s =>
    if step < 16 then ((s.wr (F.bootRecConsecFail p) 0 step).wr (F.bootRecLastCode p) 0 step).storeRec p step else s

end Sys2Proof.Machine
end

