-- ==== Sys2Proof/Machine/Boundary.lean ====
section
/-! DEFINITION. The TSU at the host-die boundary (chapter 15): entry reads, acknowledgements of launch words, the replay of
the generation bus, memory responses and the optical engine. -/

namespace Sys2Proof.Machine

/-- A count as a time record without its flags: 12 bytes. -/
def countBytes (t : MTime) : List Byte := toLe 8 t.lfn ++ toLe 4 (16 * t.sub)

/-- The transfer deadline of a launch's step: tick k+1 less xfer_guard link frames (R249). -/
def State.transferDeadline (s : State) (a : ArmEntry) : MTime :=
  ⟨s.tickOf a.fire.lfn + s.frameLen - s.rd F.fltCfg2XferGuard, 0⟩

/-- Beat 0 of an entry read: the channel's context word. -/
def State.entryCtx (s : State) (a : ArmEntry) : List Byte :=
  match s.chanOf a.cz.handle with
  | some c => (c.ctx ++ List.replicate 64 0).take 64
  | none => List.replicate 64 0

/-- Beat 1: handle, step, launch argument, token record, fire count and transfer deadline. -/
def State.entryData (s : State) (a : ArmEntry) : List Byte :=
  let token := match s.chanOf a.cz.handle with | some c => c.token | none => 0
  let bs := toLe 4 a.cz.handle ++ toLe 8 a.cz.step ++ toLe 4 a.cz.payload ++ toLe 4 token ++ countBytes a.fire
    ++ countBytes (s.transferDeadline a)
  bs ++ List.replicate (64 - bs.length) 0

/-- ENTRY_READ (R326): two beats of 64 bytes, or ER_RSP_STALE with zero data. -/
def execEntryRead (entry _target handle : Nat) (s : State) : Res :=
  onLive .tsu s fun s =>
    match (fget? s.t.arm entry).filter fun a => a.cz.handle == handle with
    | none => s.emit .tsu (.entryBeat (List.replicate 64 0) true)
    | some a =>
      let s := if a.cz.handle = 0 then s else s.cacheLook (hIndex a.cz.handle)
      (s.emit .tsu (.entryBeat (s.entryCtx a) false)).emit .tsu (.entryBeat (s.entryData a) false)

/-- LW_ACK (R324): the target holds the word presented to it, by its entry. -/
def execLwAck (region target entry : Nat) (s : State) : Res :=
  onLive .tsu s fun s =>
    if (s.region region).staged.any fun w => w.1 == entry && w.2.1 == target then
      s.modEntry entry fun a => { a with acked := if a.acked.contains target then a.acked else a.acked ++ [target] }
    else s

/-- Updates of a full replay: each channel index, then each layer (R325). -/
def State.replayWords (s : State) : List Nat :=
  s.genWords ++ (List.range 1024).map fun l => layerWord l (s.busEpoch l) (s.layerReady l)

/-- GEN_SYNC_REPLAY (R325): after B3 both tables are replayed with GEN_SYNC high, once; then a ready report that is owed
may leave. -/
def execGenSyncReplay (s : State) : Res :=
  onLive .tsu s fun s =>
    if s.t.genSynced || !s.ended .tsu 3 then s
    else
      let s := ((s.emit .tsu (.pin .genSync 1)).emit .tsu (.genTable s.replayWords)).emit .tsu (.pin .genSync 0)
      (s.modT fun t => { t with genSynced := true }).oweReady

/-- The completions held for a result's responses are written, and a message owed is sent, once none is missing. -/
def State.released (s : State) (r : Nat) : State :=
  let ready := (s.ring .tsu r).held.filter fun x => !s.memOpen (.result r x.1)
  let s := s.modRing .tsu r fun t => { t with held := t.held.filter fun x => !ready.contains x }
  let s := ready.foldl (fun s x => s.complete .tsu r x.2) s
  if (s.ring .tsu r).irqOwed && !s.memOpen (.ring r true) then s.message .tsu r else s

/-- The request that waits longest takes the tag that has become free. -/
def State.nextRequest (s : State) : State :=
  match s.t.memWait with
  | [] => s
  | q :: rest => (s.modT fun t => { t with memWait := rest }).memRequest q

/-- What a response ends (R331): an error stops the ring pair concerned, with err 2 for a read and 3 for a write; one on
the carve-out reads the entry once more, and then reports the index as lost. -/
def State.answered (s : State) (q : MemReq) (err : Bool) : State :=
  match q with
  | .ring r write => (if err then s.stopRing .tsu r (if write then 3 else 2) else s).released r
  | .result r _ => (if err then s.stopRing .tsu r 3 else s).released r
  | .msix r => match r with
    | some r => if err then s.stopRing .tsu r 3 else s
    | none => s
  | .carve index again =>
    if !err then s
    else if again then s.logErr .tsu 0x0030 noPort index
    else s.memRequest (.carve index true)

/-- MEMORY_RESPONSE (R331): the request of a tag is complete. -/
def execMemoryResponse (tag : Nat) (err : Bool) (s : State) : Res :=
  onLive .tsu s fun s =>
    match fget? s.t.memReqs tag with
    | none => s
    | some q => (((s.modT fun t => { t with memReqs := fdel t.memReqs tag }).nextRequest).answered q err)

/-! ### The optical engine (R321) -/

/-- The ready and fault bits as read; a fault that rises takes both ports to DARK and is an event (R321, R359). -/
def State.oeFlags (s : State) (status : Nat) : State :=
  let was := s.is F.oeStatusFault
  let s := (s.wr F.oeStatusReady (bits status 0 1)).wr F.oeStatusFault (bits status 1 1)
  if !bit status 1 then s
  else
    let s := [0, 1].foldl (fun s i => s.goDark .tsu i) s
    if was then s else s.interrupt .tsu 7

/-- The engine is read: its status and the power of its four lanes, P0 first. A read that is not acknowledged brings no
values. -/
def State.readEngine (s : State) (status : Nat) (rx : List Int) : State :=
  match rx with
  | [a, b, c, d] => ((s.takeRx .tsu 0 a b).takeRx .tsu 1 c d).oeFlags status
  | _ => s.wr F.oeStatusNack 1

/-- OE_INTERRUPT: OE_INT_N has fallen. -/
def execOeInterrupt (status : Nat) (rx : List Int) (s : State) : Res := onLive .tsu s fun s => s.readEngine status rx

/-- OE_POLL: every 2^20 link frames. -/
def execOePoll (status : Nat) (rx : List Int) (s : State) : Res :=
  onLive .tsu s fun s => if s.tsu.lfn % 2 ^ 20 = 0 then s.readEngine status rx else s

end Sys2Proof.Machine
end

