-- ==== Sys2Proof/Machine/Croziers.lean ====
section
/-! DEFINITION. Croziers at a distributor (R120 to R125), its routing tables (R122, R265, R266) and its peristomes'
timeouts (R142). -/

namespace Sys2Proof.Machine

/-! ### CROZIER_RECEIVED -/

/-- The compare window; 0 acts as 1 (Table 6.12). -/
def State.czWindow (s : State) : Nat := max 1 (s.rd F.czCfgWindow)

/-- A key enters the table of 16,384; a full table loses its oldest key. -/
def State.czAdd (s : State) (k : CzKey) : State :=
  if 16384 ≤ s.d.czKeys.length then
    (s.bump F.dczEvictCount).modD fun d => { d with czKeys := d.czKeys.drop 1 ++ [k] }
  else s.modD fun d => { d with czKeys := d.czKeys ++ [k] }

/-- A second copy is compared with the first (R125). -/
def State.czSecond (s : State) (k : CzKey) (port : Nat) (c : Crozier) : State :=
  let s := (s.bump F.dczDupCount).modD fun d =>
    { d with czKeys := d.czKeys.map fun x => if x = k then { x with second := true } else x }
  match czDiffers k.cz c with
  | none => s
  | some b =>
    ((s.bump F.dczDivergeCount).divLog k.cz.handle k.cz.step k.port port b).pairDiverges

/-- CROZIER_RECEIVED (R120, R123 to R125): a crozier released at an uplink in a position of a share. A malformed
one is dropped and counted; the first copy is forwarded once to every downlink that is UP and whose roles it
reaches; a later copy of the key is compared. -/
def execCrozierReceived (port share : Nat) (cz : Crozier) (s : State) : Res :=
  onLive .dbx s fun s =>
    if czIdle cz || !s.is F.shareValid share then s
    else if czMalformed cz then s.bump F.dczFaultCount
    else
      let part := s.rd F.sharePartition share
      match s.d.czKeys.find? fun k =>
          k.partition == part && czSameKey k.cz cz && s.dbx.lfn < k.atLfn + s.czWindow with
      | some k => s.czSecond k port cz
      | none =>
        let s := s.czAdd ⟨part, cz, port, s.dbx.lfn, false⟩
        (s.bump F.dczFwdCount).sendDown part 1 (s.czRoles part cz) (.crozier cz)

/-- The other port of a pair of ports. -/
def otherUplink (port : Nat) : Nat := if port = 128 then 129 else 128

/-- COMPARE_WINDOW_EXPIRY (R125): keys whose window has ended leave; each with one copy only counts a single copy,
with a record when the other port was UP throughout. -/
def execCompareWindowExpiry (s : State) : Res :=
  onLive .dbx s fun s =>
    let gone := s.d.czKeys.filter fun k => k.atLfn + s.czWindow ≤ s.dbx.lfn
    let s := s.modD fun d => { d with czKeys := d.czKeys.filter fun k => !(k.atLfn + s.czWindow ≤ s.dbx.lfn) }
    (gone.filter fun k => !k.second).foldl (fun s k =>
      let s := s.bump F.dczSingleCount
      if s.upSince .dbx (otherUplink k.port) k.atLfn then s.record .dbx 1 (Config.recordCode 1 125) else s) s

/-! ### TABLE_WRITE -/

/-- Entries of a table; table 3 is reserved. -/
def tblSize (table : Nat) : Nat := [65536, 8192, 4096].getD table 0



/-- A template of a port holds an entry for a valid share of a partition (R265). -/
def State.portCarries (s : State) (port part : Nat) : Bool :=
  (s.tmplPartitions (s.txTmpl .dbx port)).contains part || (s.tmplPartitions (s.rxTmpl .dbx port)).contains part

/-- The write is discarded: no such entry, a locked one, or an exception toward ports without the partition's
share. -/
def State.tblRefuses (s : State) (table index new : Nat) : Bool :=
  tblSize table ≤ index ||
  (let old := s.tblEntry table index
   if table = 2 then
     bit new 28 && !(s.portsAt (bits new 21 7)).any fun p => s.portCarries p (bits new 64 16)
   else
     let v := if table = 0 then 60 else 49
     (bit old v && s.partitionBound (bits old 64 16)))

/-- The bits of an entry that Table 6.11 gives; the others are reserved. -/
def tblMask (table new : Nat) : Nat :=
  let part := bits new 64 16 * 2 ^ 64
  match table with
  | 0 => bits new 0 61 + part
  | 1 => bits new 0 50 + part
  | _ => bits new 0 29 + part

/-- TABLE_WRITE (R122, R265): a write of DBX_TBL_SEL. With `write`, the entry takes the data words written, whole, between
this link frame and the next, or the write is refused; the data registers show the entry selected. -/
def execTableWrite (v : Word) (s : State) : Res :=
  onLive .dbx s fun s =>
    let w := v.toNat
    let new := sumNat ((List.range 4).map fun k => fgetD s.d.tblStage k 0 * 2 ^ (32 * k))
    let s := s.regPut .dbx 0x58080 w false true
    let t := s.rd F.tblSelTable
    let i := s.rd F.tblSelIndex
    let s :=
      if !bit w 18 then s
      else if s.tblRefuses t i new then s.wr F.tblSelRefused 1
      else s.modD fun d => { d with tblPend := d.tblPend ++ [(t, i, tblMask t new)] }
    (s.showTbl).regClear .dbx 0x58080 w

end Sys2Proof.Machine
end

