-- ==== Sys2Proof/Machine/Board.lean ====
section
/-! DEFINITION. What the board meets of the distributor's package (chapter 16): fibres, lasers, balls, supplies and bus
addresses. No command reads these tables: they place what other rules drive. -/

namespace Sys2Proof.Machine

/-! ### Fibres and lasers (R338, R339) -/

/-- Connector and position of a port's transmit fibre. -/
def fibreTx (port : Nat) : Nat × Nat := (port / 11, 2 * (port % 11) + 1)

/-- Connector and position of a port's receive fibre. -/
def fibreRx (port : Nat) : Nat × Nat := (port / 11, 2 * (port % 11) + 2)

/-- Address of laser module k on the ELS bus. -/
def elsAddress (k : Nat) : Nat := 0x40 + k

/-- Address of the SMBus target, by its straps (R347). -/
def State.smbusAddress (s : State) : Nat := 0x58 + s.rd F.dstrapSnapSmbAddr

/-- Sideband address of a TSU's optical engine, by its strap (R320). -/
def State.oeAddress (s : State) : Nat := 0x50 + bits (s.rd F.tstrapSnapOe) 1 1

/-! ### Supplies (R341) -/

/-- The supplies, in the order of Table 16.3, which is that of in_tol (R350). -/
inductive Rail where
  | core | sram | io12 | io18 | pll | oe09 | oe18 | oe33
deriving DecidableEq, Repr

/-- Place of a supply in Table 16.3. -/
def Rail.index : Rail → Nat
  | .core => 0
  | .sram => 1
  | .io12 => 2
  | .io18 => 3
  | .pll => 4
  | .oe09 => 5
  | .oe18 => 6
  | .oe33 => 7

/-- Nominal millivolts, tolerance in percent, and typical and greatest power in units of 0.1 W. -/
def Rail.row : Rail → Nat × Nat × Nat × Nat
  | .core => (750, 3, 450, 620)
  | .sram => (800, 3, 120, 160)
  | .io12 => (1200, 5, 17, 22)
  | .io18 => (1800, 5, 10, 13)
  | .pll => (1200, 3, 3, 5)
  | .oe09 => (900, 3, 300, 380)
  | .oe18 => (1800, 5, 150, 180)
  | .oe33 => (3300, 5, 100, 120)

/-- A voltage in millivolts lies within a supply's tolerance. -/
def Rail.within (r : Rail) (mv : Nat) : Bool :=
  let n := r.row.1
  let t := r.row.2.1
  n * (100 - t) ≤ mv * 100 && mv * 100 ≤ n * (100 + t)

/-! ### Balls (R340) -/

/-- What a ball carries. -/
inductive Ball where
  | signal (name : String) (bit : Nat)
  | supply (r : Rail)
  | vss
deriving DecidableEq, Repr

/-- Signals and buses of Table 16.1: name, column, first row, rows from one bit to the next, and width. -/
def signalRows : List (String × Nat × Nat × Nat × Nat) :=
  [("PCIE_TXP", 66, 3, 4, 4), ("PCIE_TXN", 66, 4, 4, 4), ("PCIE_RXP", 64, 3, 4, 4), ("PCIE_RXN", 64, 4, 4, 4),
   ("PCIE_REFCLKP", 66, 20, 1, 1), ("PCIE_REFCLKN", 66, 21, 1, 1), ("PERST_N", 64, 40, 1, 1),
   ("REF_TXP", 66, 24, 4, 2), ("REF_TXN", 66, 25, 4, 2), ("REF_RXP", 64, 24, 4, 2), ("REF_RXN", 64, 25, 4, 2),
   ("SGMII_TXP", 66, 32, 1, 1), ("SGMII_TXN", 66, 33, 1, 1), ("SGMII_RXP", 64, 32, 1, 1), ("SGMII_RXN", 64, 33, 1, 1),
   ("SYS_REFCLKP", 66, 36, 1, 1), ("SYS_REFCLKN", 66, 37, 1, 1), ("SMB_CLK", 62, 40, 1, 1), ("SMB_DAT", 62, 41, 1, 1),
   ("ELS_SCL", 62, 42, 1, 1), ("ELS_SDA", 62, 43, 1, 1), ("SPI_CLK", 62, 45, 1, 1), ("SPI_CS_N", 62, 46, 1, 1)]
  ++ [("SPI_IO", 62, 47, 1, 4), ("TCK", 62, 52, 1, 1), ("TMS", 62, 53, 1, 1), ("TDI", 62, 54, 1, 1), ("TDO", 62, 55, 1, 1),
   ("TRST_N", 62, 56, 1, 1), ("RESET_N", 62, 58, 1, 1), ("PWRGOOD", 62, 59, 1, 1), ("ALERT_N", 62, 60, 1, 1),
   ("THERM_N", 62, 61, 1, 1), ("BOOT_SRC", 62, 63, 1, 2), ("SMB_ADDR", 62, 65, 1, 2), ("ELS_EN_N", 60, 40, 1, 8),
   ("ELS_PRSNT_N", 60, 49, 1, 8), ("PPS_IN", 58, 40, 1, 2), ("PPS_OUT", 58, 43, 1, 2), ("FRAME_OUT", 58, 46, 1, 4),
   ("REF10M_OUT", 58, 51, 1, 1), ("OCXO_IN", 58, 54, 1, 1), ("OCXO_WARM", 58, 56, 1, 1)]

/-- The signal of a ball. -/
def signalAt (col row : Nat) : Option (String × Nat) :=
  signalRows.findSome? fun x =>
    let (name, c, r, step, n) := x
    ((List.range n).find? fun k => c == col && r + step * k == row).map fun k => (name, k)

/-- A number lies in an interval. -/
def within (a x b : Nat) : Bool := a ≤ x && x ≤ b

/-- The supply of a ball, Table 16.2. -/
def supplyAt (col row : Nat) : Option Rail :=
  let even := (col + row) % 2 == 0
  let mid := within 20 row 50
  if even && mid && within 20 col 50 then some .core
  else if even && mid && (within 14 col 19 || within 51 col 56) then some .sram
  else if even && within 1 col 56 && (within 1 row 8 || within 59 row 66) then some .oe09
  else if even && within 1 col 56 && (within 9 row 10 || within 57 row 58) then some .oe18
  else if even && within 1 col 56 && (row == 11 || row == 56) then some .oe33
  else if (col == 59 || col == 61) && within 3 row 37 && row % 2 == 1 then some .io12
  else if col == 59 && within 41 row 65 && row % 2 == 1 then some .io18
  else if col == 57 && within 30 row 36 && row % 2 == 0 then some .pll
  else none

/-- What a ball of the array of 66 columns and 66 rows carries: every ball that neither table names is VSS. -/
def ballAt (col row : Nat) : Ball :=
  match signalAt col row, supplyAt col row with
  | some x, _ => .signal x.1 x.2
  | none, some r => .supply r
  | none, none => .vss

/-- The array's balls. -/
def balls : List Ball := (List.range 66).flatMap fun c => (List.range 66).map fun r => ballAt (c + 1) (r + 1)

/-! ### Undriven inputs (R345) -/

/-- Level that an undriven input takes by its resistor, Table 16.5; none for a strap, which the board sets. -/
def undriven (name : String) : Option Bool :=
  if ["RESET_N", "PWRGOOD", "PERST_N", "PPS_IN", "OCXO_WARM", "TCK", "TRST_N"].contains name then some false
  else if ["ELS_PRSNT_N", "SMB_CLK", "SMB_DAT", "ELS_SCL", "ELS_SDA", "SPI_CS_N", "SPI_IO", "TMS", "TDI"].contains name then some true
  else none

end Sys2Proof.Machine
end

