-- ==== Sys2Proof/Machine/Package.lean ====
section
/-! DEFINITION. The distributor's package (chapter 16): temperature and supplies, the PCI Express function, telemetry,
SMBus, neighbour discovery and boundary scan. -/

namespace Sys2Proof.Machine

/-! ### Temperature (R343) -/

/-- A sensor's report: signed, 0.125 °C units of 12 bits. -/
def tjOf (tj : Nat) : Int := toSigned 12 (tj % 2 ^ 12)

/-- The limit of THERM_N in 0.125 °C units: therm_warn, within 85 to 105 °C. -/
def State.thermLimit (s : State) : Int := (8 * max 85 (min 105 (s.rd F.thermCfgThermWarn)) : Nat)

/-- The hottest sensor's report appears in the registers, and the scores follow it. -/
def State.showTherm (s : State) (sensor tj : Nat) : State :=
  (((s.wr F.thermStatusTj tj).wr F.thermStatusSensor sensor).wr F.thermSensorTj tj sensor).score .dbx

/-- THERM_WARNING: at the limit THERM_N is asserted, and 3 °C below it released. -/
def execThermWarning (sensor tj : Nat) (s : State) : Res :=
  onLive .dbx s fun s =>
    if 16 ≤ sensor then s
    else
      let s := s.showTherm sensor tj
      let on := s.is F.thermStatusTherm
      if s.thermLimit ≤ tjOf tj && !on then
        ((s.wr F.thermStatusTherm 1).emit .dbx (.pin .thermN 0)).interrupt .dbx 7
      else if tjOf tj ≤ s.thermLimit - 24 && on then (s.wr F.thermStatusTherm 0).emit .dbx (.pin .thermN 1)
      else s

/-- THERMAL_TRIP: the hottest sensor has stayed at or above 110 °C for 1 ms, and the part enters reset with ALERT_N and
THERM_N asserted. -/
def execThermalTrip (_sensor tj : Nat) (s : State) : Res :=
  onLive .dbx s fun s =>
    if tjOf tj < 880 then s
    else
      let s := s.resetDbx.modD fun d => { d with tripped := true }
      (s.raiseAlert .dbx 0x343).emit .dbx (.pin .thermN 0)

/-- The trip has ended: ALERT_N and THERM_N are released, and the next start tells of it. -/
def State.endTrip (s : State) : State :=
  ((s.modD fun d => { d with tripped := false, tripOwed := true }).emit .dbx (.pin .alertN 1)).emit .dbx (.pin .thermN 1)

/-- THERMAL_RECOVERY: the hottest sensor has fallen below 95 °C, and the part starts again from B1 with trip_evt set; while
RESET_N is asserted it stays in reset (R342). -/
def execThermalRecovery (tj : Nat) (s : State) : Res :=
  .next (if !s.d.tripped || 760 ≤ tjOf tj then s
    else if s.d.held then s.endTrip
    else ((s.endTrip.startDbx.modNode .dbx fun n => { n with bootBegun := [0], bootDone := [0] }).wr F.thermStatusTj tj).tellTrip)

/-! ### Supplies -/

/-- SUPPLY_LEFT_TOLERANCE (R350): supply i, in the order of Table 16.3. -/
def execSupplyLeftTolerance (i : Nat) (s : State) : Res :=
  onLive .dbx s fun s =>
    if 8 ≤ i then s
    else
      let s := s.wr F.railStatusInTol (setBit (s.rd F.railStatusInTol) i false)
      if s.is F.railStatusRailEvt then s else (s.wr F.railStatusRailEvt 1).interrupt .dbx 7

/-! ### The PCI Express function (R349) -/

/-- A ring pair's function-level state ends: its enable clears, and the completions of what it has fetched are
discarded; a post that waits is kept. -/
def State.resetRing (s : State) (r : Nat) : State :=
  let s := if s.is (F.ringCfgEnable .dbx) r then s.disableRing .dbx r else s
  match fget? s.dbx.rings r with
  | none => s
  | some _ => s.modRing .dbx r fun t =>
    { t with flight := t.flight.map fun f => { f with mute := true }
             waiting := t.waiting.filter (·.kind != 0)
             unsig := [] }

/-- PCIE_FUNCTION_RESET: a function-level reset, a hot reset, a link-down or PERST_N. -/
def execPcieFunctionReset (s : State) : Res :=
  onLive .dbx s fun s =>
    let s := (s.modNode .dbx fun n => { n with msix := [] }).wr F.pcieStatusResetEvt 1
    (List.range 256).foldl State.resetRing s

/-! ### Telemetry, SMBus, neighbour discovery, boundary scan (R282, R347) -/

/-- TELEMETRY_DATAGRAM: the health block and the port entries. -/
def execTelemetryDatagram (s : State) : Res :=
  onLive .dbx s fun s => s.emit .dbx (.datagram (s.healthBlock .dbx ++ s.portEntries))

/-- A field's bits in the word of its register. -/
def State.inWord (s : State) (f : Fld) : Nat := 2 ^ f.lo * s.rd f

/-- The word of a register from its fields. -/
def State.regWord (s : State) (fs : List Fld) : Nat := sumNat (fs.map s.inWord)

/-- The four status registers of an SMBus Block Read. -/
def State.smbusWords (s : State) : List Nat :=
  [s.regWord [F.bootStatusStep .dbx, F.bootStatusHalted .dbx, F.bootStatusSkipped .dbx, F.bootStatusAlt .dbx,
     F.bootStatusNoRecord .dbx, F.bootStatusBootEvt .dbx, F.bootStatusChildrenValid .dbx],
   s.regWord [F.dhealthScore, F.dhealthSramFail, F.dhealthLogHalf],
   s.regWord [F.thermStatusTj, F.thermStatusSensor, F.thermStatusTherm, F.thermStatusTripEvt],
   s.regWord [F.dsecStatusState, F.dsecStatusSessions, F.dsecStatusScrubSlotValid, F.dsecStatusScrubSlot]]

/-- SMBUS_BLOCK_READ: command 0x01. -/
def execSmbusBlockRead (s : State) : Res :=
  onLive .dbx s fun s =>
    let s := s.showSec
    s.emit .dbx (.smbus s.smbusWords)

/-- NEIGHBOUR_DISCOVERY: the management processor answers. -/
def execNeighbourDiscovery (query : Nat) (s : State) : Res := onLive .dbx s fun s => s.emit .dbx (.neighbour query)

/-- BOUNDARY_SCAN_INSTRUCTION: 0 BYPASS and 1 IDCODE take effect always, 2 SAMPLE/PRELOAD and 3 EXTEST while RESET_N is
asserted; any other is ignored. -/
def execBoundaryScanInstruction (inst : Nat) (s : State) : Res :=
  .next (if inst < 2 || (inst < 4 && s.d.held) then s.emit .dbx (.jtag inst) else s)

end Sys2Proof.Machine
end

