-- ==== Sys2Proof/Machine/Dispatch.lean ====
section
/-! DEFINITION. The effect of a command on everything but the queue: one arm for each row of
spec/opcode_table.json, one call of that row's meaning. -/

namespace Sys2Proof.Machine

def exec (i : Instr) (s : State) : Host.Outcome State Fault Refusal :=
  match i with
  | .registerWrite p off v whole rot => Sys2Proof.Machine.execRegisterWrite p off v whole rot s
  | .lfnLoRead p sub => Sys2Proof.Machine.execLfnLoRead p sub s
  | .setupLockSet p v => Sys2Proof.Machine.execSetupLockSet p v s
  | .errlogPop p => Sys2Proof.Machine.execErrlogPop p s
  | .linkFrameStart p => Sys2Proof.Machine.execLinkFrameStart p s
  | .echoBlockReceived p port t1 t2 t3 t4 => Sys2Proof.Machine.execEchoBlockReceived p port t1 t2 t3 t4 s
  | .echoReplyReceived p port t1 turn t4 => Sys2Proof.Machine.execEchoReplyReceived p port t1 turn t4 s
  | .timeRead p ring seq sub => Sys2Proof.Machine.execTimeRead p ring seq sub s
  | .acquireStart p port => Sys2Proof.Machine.execAcquireStart p port s
  | .acqSet1Complete p => Sys2Proof.Machine.execAcqSet1Complete p s
  | .acqSet2Complete p => Sys2Proof.Machine.execAcqSet2Complete p s
  | .parentTimeLoss p port psi => Sys2Proof.Machine.execParentTimeLoss p port psi s
  | .timePortReturn p psi => Sys2Proof.Machine.execTimePortReturn p psi s
  | .trackingSetComplete p port => Sys2Proof.Machine.execTrackingSetComplete p port s
  | .frameTick lvlReq => Sys2Proof.Machine.execFrameTick lvlReq s
  | .regionRemeasure region roundTrip => Sys2Proof.Machine.execRegionRemeasure region roundTrip s
  | .lfnMarker => Sys2Proof.Machine.execLfnMarker s
  | .civilBroadcast => Sys2Proof.Machine.execCivilBroadcast s
  | .civilPageReceived p apply sec frac inc civilState => Sys2Proof.Machine.execCivilPageReceived p apply sec frac inc civilState s
  | .civilApply p => Sys2Proof.Machine.execCivilApply p s
  | .civilTimeout p => Sys2Proof.Machine.execCivilTimeout p s
  | .civilSet ring seq => Sys2Proof.Machine.execCivilSet ring seq s
  | .tdcStart p v => Sys2Proof.Machine.execTdcStart p v s
  | .tdcAttemptTimeout p => Sys2Proof.Machine.execTdcAttemptTimeout p s
  | .measurementSetComplete p => Sys2Proof.Machine.execMeasurementSetComplete p s
  | .tdcSelfTest p port a1 a2 a3 => Sys2Proof.Machine.execTdcSelfTest p port a1 a2 a3 s
  | .closePageReceived p port p0 p1 p2 p3 => Sys2Proof.Machine.execClosePageReceived p port p0 p1 p2 p3 s
  | .closureRun v => Sys2Proof.Machine.execClosureRun v s
  | .closurePeriodic => Sys2Proof.Machine.execClosurePeriodic s
  | .refLos i_ delta => Sys2Proof.Machine.execRefLos i_ delta s
  | .refBlockLockReturn i_ => Sys2Proof.Machine.execRefBlockLockReturn i_ s
  | .esmcPdu i_ event ssm freqOff delta => Sys2Proof.Machine.execEsmcPdu i_ event ssm freqOff delta s
  | .qualifyTimeout i_ => Sys2Proof.Machine.execQualifyTimeout i_ s
  | .esmcTimeout i_ delta => Sys2Proof.Machine.execEsmcTimeout i_ delta s
  | .ocxoQualify freqOff delta => Sys2Proof.Machine.execOcxoQualify freqOff delta s
  | .ocxoLos delta => Sys2Proof.Machine.execOcxoLos delta s
  | .frequencyError i_ freqOff delta => Sys2Proof.Machine.execFrequencyError i_ freqOff delta s
  | .prefWrite v delta => Sys2Proof.Machine.execPrefWrite v delta s
  | .stepNoticeReceived p delta l0 => Sys2Proof.Machine.execStepNoticeReceived p delta l0 s
  | .refStepClear p delta => Sys2Proof.Machine.execRefStepClear p delta s
  | .ocxoWarmChange warm => Sys2Proof.Machine.execOcxoWarmChange warm s
  | .masterFailureJudged delta => Sys2Proof.Machine.execMasterFailureJudged delta s
  | .ppsInEdge i_ sub => Sys2Proof.Machine.execPpsInEdge i_ sub s
  | .anchorStale k => Sys2Proof.Machine.execAnchorStale k s
  | .outputEdge k sub => Sys2Proof.Machine.execOutputEdge k sub s
  | .esmcTransmit => Sys2Proof.Machine.execEsmcTransmit s
  | .blockLockGained p port lane => Sys2Proof.Machine.execBlockLockGained p port lane s
  | .blockLockLost p port lane => Sys2Proof.Machine.execBlockLockLost p port lane s
  | .linkFrameReceived p port frame => Sys2Proof.Machine.execLinkFrameReceived p port frame s
  | .nakReceived p port lfnLow mask => Sys2Proof.Machine.execNakReceived p port lfnLow mask s
  | .nakRepeat p port label => Sys2Proof.Machine.execNakRepeat p port label s
  | .portDark p port => Sys2Proof.Machine.execPortDark p port s
  | .trainingTimeout p port => Sys2Proof.Machine.execTrainingTimeout p port s
  | .portEnable p port on => Sys2Proof.Machine.execPortEnable p port on s
  | .portIsolate p port on => Sys2Proof.Machine.execPortIsolate p port on s
  | .portLoopback p port mode => Sys2Proof.Machine.execPortLoopback p port mode s
  | .dropLane p port lane on => Sys2Proof.Machine.execDropLane p port lane on s
  | .unpin p port => Sys2Proof.Machine.execUnpin p port s
  | .degradeRequestReceived p port want => Sys2Proof.Machine.execDegradeRequestReceived p port want s
  | .layoutSwitch p port => Sys2Proof.Machine.execLayoutSwitch p port s
  | .degradedQueueDrop p port => Sys2Proof.Machine.execDegradedQueueDrop p port s
  | .laneRestoreRequest p port lane => Sys2Proof.Machine.execLaneRestoreRequest p port lane s
  | .linkEpochExchangeStart p port => Sys2Proof.Machine.execLinkEpochExchangeStart p port s
  | .keyRatchet p port => Sys2Proof.Machine.execKeyRatchet p port s
  | .epochBoundary p port => Sys2Proof.Machine.execEpochBoundary p port s
  | .linkCert p port cert => Sys2Proof.Machine.execLinkCert p port cert s
  | .linkShare p port epoch nonce pub => Sys2Proof.Machine.execLinkShare p port epoch nonce pub s
  | .linkSig p port sig => Sys2Proof.Machine.execLinkSig p port sig s
  | .linkConfirm p port mac => Sys2Proof.Machine.execLinkConfirm p port mac s
  | .dynamicRecordReceived p rec_ => Sys2Proof.Machine.execDynamicRecordReceived p rec_ s
  | .elsSample k bias0 bias1 pwr0 pwr1 rx => Sys2Proof.Machine.execElsSample k bias0 bias1 pwr0 pwr1 rx s
  | .bolCapture k => Sys2Proof.Machine.execBolCapture k s
  | .templateWrite p off v => Sys2Proof.Machine.execTemplateWrite p off v s
  | .crozierReceived port share cz => Sys2Proof.Machine.execCrozierReceived port share cz s
  | .compareWindowExpiry => Sys2Proof.Machine.execCompareWindowExpiry s
  | .crozierAdmission port cz sub => Sys2Proof.Machine.execCrozierAdmission port cz sub s
  | .launchStage entry fullRegions => Sys2Proof.Machine.execLaunchStage entry fullRegions s
  | .launchFire entry => Sys2Proof.Machine.execLaunchFire entry s
  | .armEntryFree entry => Sys2Proof.Machine.execArmEntryFree entry s
  | .retiredKeyExpiry => Sys2Proof.Machine.execRetiredKeyExpiry s
  | .abortAct => Sys2Proof.Machine.execAbortAct s
  | .tokenApply entry => Sys2Proof.Machine.execTokenApply entry s
  | .epochApply entry => Sys2Proof.Machine.execEpochApply entry s
  | .timeEventFire entry => Sys2Proof.Machine.execTimeEventFire entry s
  | .frequencyCrozierFire entry lvlReq => Sys2Proof.Machine.execFrequencyCrozierFire entry lvlReq s
  | .peristomePoll => Sys2Proof.Machine.execPeristomePoll s
  | .peristomeTimeout index => Sys2Proof.Machine.execPeristomeTimeout index s
  | .peristomeConfig index source arg => Sys2Proof.Machine.execPeristomeConfig index source arg s
  | .scopeTableLoad tbl pend => Sys2Proof.Machine.execScopeTableLoad tbl pend s
  | .tableWrite v => Sys2Proof.Machine.execTableWrite v s
  | .clrMargin v => Sys2Proof.Machine.execClrMargin v s
  | .planLoad ring seq => Sys2Proof.Machine.execPlanLoad ring seq s
  | .planRetire ring seq => Sys2Proof.Machine.execPlanRetire ring seq s
  | .storeReloadComplete ch => Sys2Proof.Machine.execStoreReloadComplete ch s
  | .launch ch => Sys2Proof.Machine.execLaunch ch s
  | .waitc ch => Sys2Proof.Machine.execWaitc ch s
  | .reduce ch => Sys2Proof.Machine.execReduce ch s
  | .sample ch => Sys2Proof.Machine.execSample ch s
  | .accept ch => Sys2Proof.Machine.execAccept ch s
  | .branch ch => Sys2Proof.Machine.execBranch ch s
  | .loop ch => Sys2Proof.Machine.execLoop ch s
  | .peri ch => Sys2Proof.Machine.execPeri ch s
  | .epoch ch => Sys2Proof.Machine.execEpoch ch s
  | .swap ch => Sys2Proof.Machine.execSwap ch s
  | .swapAdvance slot => Sys2Proof.Machine.execSwapAdvance slot s
  | .variant ch => Sys2Proof.Machine.execVariant ch s
  | .digest ch => Sys2Proof.Machine.execDigest ch s
  | .post ch => Sys2Proof.Machine.execPost ch s
  | .halt ch => Sys2Proof.Machine.execHalt ch s
  | .crozierEmission slot => Sys2Proof.Machine.execCrozierEmission slot s
  | .meterPeriod => Sys2Proof.Machine.execMeterPeriod s
  | .waitcDeadline ch => Sys2Proof.Machine.execWaitcDeadline ch s
  | .inputCommit id => Sys2Proof.Machine.execInputCommit id s
  | .commitNoticeReceived k commitLfn => Sys2Proof.Machine.execCommitNoticeReceived k commitLfn s
  | .commitNoticeTimeout id => Sys2Proof.Machine.execCommitNoticeTimeout id s
  | .groupDigestCompare twin differing msg => Sys2Proof.Machine.execGroupDigestCompare twin differing msg s
  | .resyncCopyComplete group records => Sys2Proof.Machine.execResyncCopyComplete group records s
  | .replayRestart ch => Sys2Proof.Machine.execReplayRestart ch s
  | .conductorTakeover => Sys2Proof.Machine.execConductorTakeover s
  | .shadowCopyComplete records images => Sys2Proof.Machine.execShadowCopyComplete records images s
  | .handback v => Sys2Proof.Machine.execHandback v s
  | .chSelSnapshot v => Sys2Proof.Machine.execChSelSnapshot v s
  | .completionContribution pos second c => Sys2Proof.Machine.execCompletionContribution pos second c s
  | .contributionWord hdr data last => Sys2Proof.Machine.execContributionWord hdr data last s
  | .partialReceived port partition part => Sys2Proof.Machine.execPartialReceived port partition part s
  | .flushExpiry key => Sys2Proof.Machine.execFlushExpiry key s
  | .keyDeadline key => Sys2Proof.Machine.execKeyDeadline key s
  | .resultBroadcast at_ hdr body nowSub => Sys2Proof.Machine.execResultBroadcast at_ hdr body nowSub s
  | .resultKeyExpiry => Sys2Proof.Machine.execResultKeyExpiry s
  | .resultWait => Sys2Proof.Machine.execResultWait s
  | .pass2Broadcast at_ hdr m s_ skip => Sys2Proof.Machine.execPass2Broadcast at_ hdr m s_ skip s
  | .logitRelease => Sys2Proof.Machine.execLogitRelease s
  | .kcgTest v => Sys2Proof.Machine.execKcgTest v s
  | .ringEnable p ring => Sys2Proof.Machine.execRingEnable p ring s
  | .ringDisable p ring => Sys2Proof.Machine.execRingDisable p ring s
  | .sqTailWrite p ring v => Sys2Proof.Machine.execSqTailWrite p ring v s
  | .cqHeadWrite p ring v => Sys2Proof.Machine.execCqHeadWrite p ring v s
  | .completionWrite p ring => Sys2Proof.Machine.execCompletionWrite p ring s
  | .descriptorFetch p ring d => Sys2Proof.Machine.execDescriptorFetch p ring d s
  | .nop p ring seq => Sys2Proof.Machine.execNop p ring seq s
  | .chCreate p ring seq => Sys2Proof.Machine.execChCreate p ring seq s
  | .chBind p ring seq => Sys2Proof.Machine.execChBind p ring seq s
  | .chArm ring seq => Sys2Proof.Machine.execChArm ring seq s
  | .chPause ring seq => Sys2Proof.Machine.execChPause ring seq s
  | .chResume ring seq => Sys2Proof.Machine.execChResume ring seq s
  | .chDestroy p ring seq => Sys2Proof.Machine.execChDestroy p ring seq s
  | .manifest ring seq => Sys2Proof.Machine.execManifest ring seq s
  | .epochSwap ring seq => Sys2Proof.Machine.execEpochSwap ring seq s
  | .digestRead p ring seq => Sys2Proof.Machine.execDigestRead p ring seq s
  | .attest p ring seq req => Sys2Proof.Machine.execAttest p ring seq req s
  | .attestTimeout ring seq => Sys2Proof.Machine.execAttestTimeout ring seq s
  | .bindTenant p ring seq req => Sys2Proof.Machine.execBindTenant p ring seq req s
  | .bindManager p ring seq req => Sys2Proof.Machine.execBindManager p ring seq req s
  | .loadKey p ring seq req => Sys2Proof.Machine.execLoadKey p ring seq req s
  | .scrub p ring seq => Sys2Proof.Machine.execScrub p ring seq s
  | .scrubRelay slot => Sys2Proof.Machine.execScrubRelay slot s
  | .scrubEnd p => Sys2Proof.Machine.execScrubEnd p s
  | .healthBlockRead p ring seq => Sys2Proof.Machine.execHealthBlockRead p ring seq s
  | .portHealthRead ring seq => Sys2Proof.Machine.execPortHealthRead ring seq s
  | .recordLogRead ring seq => Sys2Proof.Machine.execRecordLogRead ring seq s
  | .set p ring seq => Sys2Proof.Machine.execSet p ring seq s
  | .insertBegin ring seq => Sys2Proof.Machine.execInsertBegin ring seq s
  | .lost ring seq => Sys2Proof.Machine.execLost ring seq s
  | .release ring seq => Sys2Proof.Machine.execRelease ring seq s
  | .roleLoaded ring seq => Sys2Proof.Machine.execRoleLoaded ring seq s
  | .msixModeration p ring => Sys2Proof.Machine.execMsixModeration p ring s
  | .quarantineEnd p index => Sys2Proof.Machine.execQuarantineEnd p index s
  | .destroyedEvent index => Sys2Proof.Machine.execDestroyedEvent index s
  | .tapWrite tag addr words => Sys2Proof.Machine.execTapWrite tag addr words s
  | .sorediumReceived port partition s_ => Sys2Proof.Machine.execSorediumReceived port partition s_ s
  | .shardDeadline layer shard => Sys2Proof.Machine.execShardDeadline layer shard s
  | .layerOpen layer => Sys2Proof.Machine.execLayerOpen layer s
  | .cmpReset v => Sys2Proof.Machine.execCmpReset v s
  | .cmpRstAckRise => Sys2Proof.Machine.execCmpRstAckRise s
  | .cmpRstAckFall => Sys2Proof.Machine.execCmpRstAckFall s
  | .killTimeout target handle => Sys2Proof.Machine.execKillTimeout target handle s
  | .dieReset => Sys2Proof.Machine.execDieReset s
  | .distributorReset => Sys2Proof.Machine.execDistributorReset s
  | .distributorResetRelease bootSrc smbAddr => Sys2Proof.Machine.execDistributorResetRelease bootSrc smbAddr s
  | .restoreTimeout ch => Sys2Proof.Machine.execRestoreTimeout ch s
  | .waitGraphEvaluation => Sys2Proof.Machine.execWaitGraphEvaluation s
  | .waitQuery partition handle step => Sys2Proof.Machine.execWaitQuery partition handle step s
  | .waitReply pos partition r => Sys2Proof.Machine.execWaitReply pos partition r s
  | .hangVerdictTimeout ch => Sys2Proof.Machine.execHangVerdictTimeout ch s
  | .readyReport partition role ready lfn => Sys2Proof.Machine.execReadyReport partition role ready lfn s
  | .suspectReport partition role target handles overflow faultLfn => Sys2Proof.Machine.execSuspectReport partition role target handles overflow faultLfn s
  | .insertionDeadline i_ => Sys2Proof.Machine.execInsertionDeadline i_ s
  | .penaltyDecay p => Sys2Proof.Machine.execPenaltyDecay p s
  | .expulsionRequest partition role pod score => Sys2Proof.Machine.execExpulsionRequest partition role pod score s
  | .expulsionRepeat => Sys2Proof.Machine.execExpulsionRepeat s
  | .expulsionVerdict v => Sys2Proof.Machine.execExpulsionVerdict v s
  | .grantWindowExpiry => Sys2Proof.Machine.execGrantWindowExpiry s
  | .x1Switch => Sys2Proof.Machine.execX1Switch s
  | .elsEnable v => Sys2Proof.Machine.execElsEnable v s
  | .elsPresenceChange k present => Sys2Proof.Machine.execElsPresenceChange k present s
  | .sramBankTest pass => Sys2Proof.Machine.execSramBankTest pass s
  | .mailboxResponse v rot bytes => Sys2Proof.Machine.execMailboxResponse v rot bytes s
  | .keyInstallWrite v rot => Sys2Proof.Machine.execKeyInstallWrite v rot s
  | .stageCommit v sigOk svn digest => Sys2Proof.Machine.execStageCommit v sigOk svn digest s
  | .stageClear v => Sys2Proof.Machine.execStageClear v s
  | .bringupStep p step => Sys2Proof.Machine.execBringupStep p step s
  | .bringupStepLimit p step code port => Sys2Proof.Machine.execBringupStepLimit p step code port s
  | .cfgDone v => Sys2Proof.Machine.execCfgDone v s
  | .bootRecClear p step => Sys2Proof.Machine.execBootRecClear p step s
  | .genSyncReplay => Sys2Proof.Machine.execGenSyncReplay s
  | .thermalTrip sensor tj => Sys2Proof.Machine.execThermalTrip sensor tj s
  | .thermalRecovery tj => Sys2Proof.Machine.execThermalRecovery tj s
  | .thermWarning sensor tj => Sys2Proof.Machine.execThermWarning sensor tj s
  | .entryRead entry target handle => Sys2Proof.Machine.execEntryRead entry target handle s
  | .completionWord region stamp w now => Sys2Proof.Machine.execCompletionWord region stamp w now s
  | .memoryResponse tag err => Sys2Proof.Machine.execMemoryResponse tag err s
  | .oeInterrupt status rx => Sys2Proof.Machine.execOeInterrupt status rx s
  | .oePoll status rx => Sys2Proof.Machine.execOePoll status rx s
  | .pcieFunctionReset => Sys2Proof.Machine.execPcieFunctionReset s
  | .telemetryDatagram => Sys2Proof.Machine.execTelemetryDatagram s
  | .smbusBlockRead => Sys2Proof.Machine.execSmbusBlockRead s
  | .frameGridLoad f origin => Sys2Proof.Machine.execFrameGridLoad f origin s
  | .layoutReport partition uid port dir degraded => Sys2Proof.Machine.execLayoutReport partition uid port dir degraded s
  | .tdcStopEdge p interval => Sys2Proof.Machine.execTdcStopEdge p interval s
  | .lostLockIndication i_ => Sys2Proof.Machine.execLostLockIndication i_ s
  | .dieResetRelease lvl oe port => Sys2Proof.Machine.execDieResetRelease lvl oe port s
  | .lwAck region target entry => Sys2Proof.Machine.execLwAck region target entry s
  | .supplyLeftTolerance i_ => Sys2Proof.Machine.execSupplyLeftTolerance i_ s
  | .neighbourDiscovery query => Sys2Proof.Machine.execNeighbourDiscovery query s
  | .boundaryScanInstruction inst => Sys2Proof.Machine.execBoundaryScanInstruction inst s

end Sys2Proof.Machine
end

