-- ==== Sys2Proof/Safety.lean ====
section
/-! DEFINITION. The terms in which claims about the block are stated: a part that is out of reset, a descriptor that
asks for a row, and what a run of the queue may change. -/

namespace Sys2Proof.Machine

/-- The part is out of reset, so that its commands act (R333, R342). -/
abbrev Runs (s : State) (p : Part) : Prop := (s.node p).live = true

/-- A committed descriptor with the opcode is in flight on the ring pair under the sequence number, and no earlier one that
it must follow is without its effect (R198, R163). -/
abbrev Asked (s : State) (p : Part) (r seq opcode : Nat) (f : InFlight) : Prop :=
  s.inFlight p r seq = some f ∧ f.desc.opcode = opcode ∧ f.committed = true ∧ s.mayStart p r f = true

/-- The channel runs in its turn, and the next word of its plan is `w` with the opcode, with room in the plan's meter and no
parity error in the word or in the channel's record (R146, R148, R150, R153, R164). -/
abbrev WordAt (s : State) (ch op : Nat) (c : CondChan) (q : Plan) (w : Nat) : Prop :=
  s.condRole ≠ 3 ∧ s.chan ch = some c ∧ chanReady c = true ∧ s.turn ch c = true ∧ s.planOf c = some q ∧
    q.word c.r.variant c.r.pc = some w ∧ bits w 56 8 = op ∧ s.wordsUsed c.r.plan < q.wordsMp ∧
    s.d.badRecs.contains ch = false ∧ s.d.foundRecs.contains ch = false ∧
    s.d.badWords.contains (c.r.plan, c.r.variant, c.r.pc) = false

/-- `t` differs from `s` in nothing of the other part: its node and what only it holds are the same, and so is the queue
(R1). -/
def OnlyPart (p : Part) (s t : State) : Prop :=
  t.pending = s.pending ∧
    match p with
    | .tsu => t.dbx = s.dbx ∧ t.d = s.d
    | .dbx => t.tsu = s.tsu ∧ t.t = s.t

/-- Neither part is out of reset. -/
def BothHeld (s : State) : Prop := s.tsu.live = false ∧ s.dbx.live = false

/-- `k` steps from a state; none where one of them stops. -/
def run : Nat → State → Option State
  | 0, s => some s
  | k + 1, s =>
    match step s with
    | .next t => run k t
    | .fault _ | .refused _ => none

/-- A safe run: `k` steps that all answer a next state. -/
def SafeRun (k : Nat) (s : State) : Prop := (run k s).isSome = true

end Sys2Proof.Machine
end

