-- ==== Sys2Proof/WellFormed.lean ====
section
/-! DEFINITION. Well-formed commands: every operand has a value that its place in the spec can hold. What a command
does with an ill-formed one is left to its meaning (log 3). -/

namespace Sys2Proof

/-- A number fits an unsigned field of `w` bits. -/
def fits (w n : Nat) : Bool := decide (n < 2 ^ w)

/-- A number fits a signed field of `w` bits. -/
def sfits (w : Nat) (i : Int) : Bool := decide (-(2 ^ (w - 1)) ≤ i) && decide (i < 2 ^ (w - 1))

/-- A SUB of a link frame (R25). -/
def subOk (n : Nat) : Bool := decide (n < 8192)

/-- A port of a part: P0 and P1, or 0 to 131 (R1, R107). -/
def okPort : Part → Nat → Bool
  | .tsu, n => decide (n < 2)
  | .dbx, n => decide (n < 132)

/-- A lane and 64 two-bit sync headers (R86). -/
def LaneHeaders.ok (h : LaneHeaders) : Bool :=
  decide (h.lane < 2) && decide (h.headers.length = 64) && h.headers.all (fits 2)

/-- A ring pair of a part (R195). -/
def okRing : Part → Nat → Bool
  | .tsu, n => decide (n < 64)
  | .dbx, n => decide (n < 256)

/-- A descriptor in flight: its ring pair, or at a shadow 256 more than the ring pair of the active member that it was
forwarded from (R167), and its sequence number, raised by 2^64 at each later binding of the pair (R196). -/
def okDesc (p : Part) (ring seq : Nat) : Bool :=
  (okRing p ring || (p == Part.dbx && decide (ring < 512))) && fits 128 seq

/-- A word offset of a part's window: 64 KiB of a TSU, 1 MiB of a distributor (R351). -/
def offOk : Part → Nat → Bool
  | .tsu, n => decide (n < 0x10000) && n % 4 == 0
  | .dbx, n => decide (n < 0x100000) && n % 4 == 0

/-- Bytes. -/
def bytesOk (l : List Byte) : Bool := l.all (fits 8)

/-- The fields of a crozier (Table 6.1). -/
def crozierOk (c : Crozier) : Bool :=
  fits 3 c.ctype && fits 4 c.scope && fits 1 c.rsv0 && fits 64 c.target && fits 32 c.handle && fits 48 c.step
    && fits 8 c.variant && fits 32 c.fireLfn && fits 13 c.fireSub && fits 2 c.form && fits 1 c.rsv24 && fits 32 c.payload

/-- The fields of a partial's header (Table 8.1). -/
def hdrOk (h : PHdr) : Bool :=
  fits 32 h.handle && fits 16 h.stepLo && fits 8 h.tag && fits 4 h.op && fits 4 h.format && fits 12 h.nM1 && fits 4 h.scope
    && fits 16 h.domain && fits 22 h.count && fits 5 h.blkJ && fits 4 h.status && fits 21 h.blkA && fits 4 h.attempt
    && fits 13 h.entries

/-- The fields of a soredium (Table 10.1). -/
def sorOk (s : Soredium) : Bool :=
  fits 32 s.handle && fits 48 s.step && fits 10 s.split && fits 4 s.span && fits 64 s.digest && fits 32 s.eMin && fits 22 s.count && fits 8 s.variant
    && fits 4 s.attempt

/-- The fields of a completion contribution (R154). -/
def complOk (c : CompContrib) : Bool :=
  fits 16 c.partition && fits 32 c.handle && fits 48 c.step && fits 32 c.tickLo && fits 22 c.count && fits 16 c.status
    && fits 32 c.slack

/-- The fields of a dynamic record (Table 5.8). -/
def recOk (r : DynRec) : Bool :=
  fits 4 r.type && fits 12 r.code && fits 16 r.count && fits 22 r.firstSrc && fits 2 r.firstKind && fits 22 r.lastSrc
    && fits 2 r.lastKind && fits 16 r.firstLfn && fits 16 r.lastLfn

/-- The fields of an input (R163). -/
def inputOk : InputKind → Bool
  | .aggregate c => complOk c
  | .result h _ _ ts => hdrOk h && ts.all (fits 32)
  | .soredium q => sorOk q
  | .poll slot _ _ => fits 8 slot
  | .descriptor ring seq d _ _ => fits 8 ring && fits 128 seq && d.ops.length == 8
  | .layout part _ port _ _ => fits 16 part && fits 8 port
  | .divergence => true
  | .stepEvent => true
  | .verdict h _ => fits 32 h
  | .ready part role _ => fits 16 part && fits 21 role

/-- A slot: 15 words and a check word (R89). -/
def slotWf (x : Slot) : Bool := x.words.length == 15 && x.words.all (fits 32) && fits 32 x.check

/-- A link frame: eight slots of the full layout or four of a degraded one (R87). -/
def frameOk (f : LinkFrame) : Bool :=
  fits 64 f.label && decide (f.layout < 3) && f.slots.length == (if f.layout = 0 then 8 else 4) && f.slots.all slotWf

/-- The fields of a completion-bus word (Table 15.5). -/
def wordOk (w : CbWord) : Bool :=
  fits 3 w.kind && fits 8 w.target && fits 10 w.entry && fits 4 w.attempt && fits 32 w.handle && fits 16 w.stepLo
    && fits 4 w.queue && fits 21 w.wRole && fits 8 w.wTarget && fits 4 w.wQueue && fits 8 w.cause

/-- The fields of a contribution header (R328). -/
def ctOk (h : CtHdr) : Bool :=
  fits 32 h.handle && fits 16 h.stepLo && fits 8 h.tag && fits 4 h.op && fits 4 h.format && fits 12 h.nM1 && fits 8 h.target
    && fits 12 h.first && fits 4 h.scope && fits 16 h.domain && fits 4 h.attempt

/-- The fields of a descriptor (Table 9.1). -/
def descOk (d : Desc) : Bool :=
  fits 8 d.opcode && fits 8 d.flags && fits 16 d.rsv2 && fits 32 d.handle && fits 64 d.cookie && fits 64 d.extAddr
    && fits 64 d.resAddr && fits 32 d.extLen && fits 32 d.resLen && d.ops.length == 8 && bytesOk d.ops && fits 128 d.tag
    && bytesOk d.ext && fits 128 d.extTag

/-- The fields of a scope table (R121). -/
def tableOk (t : ScopeTable) : Bool :=
  (match t.role with | some r => fits 21 r | none => true) && fits 16 t.partition && fits 14 t.pod && fits 16 t.package
    && fits 16 t.board && fits 16 t.chassis && decide (t.coresets.length ≤ 15) && t.coresets.all (fits 256)

/-- The fields of a wait reply (Table 11.8). -/
def waitOk (r : WaitReply) : Bool :=
  fits 32 r.handle && fits 16 r.stepLo && fits 22 r.done && fits 22 r.blocked && fits 22 r.running && fits 21 r.firstRole
    && fits 21 r.lastRole

/-- The fields of a peer's certificate. -/
def certOk (c : PeerCert) : Bool := fits 64 c.uid && fits 776 c.alias_ && bytesOk c.chain

/-- The fields of an SPDM request. -/
def spdmOk : Spdm → Bool
  | .finish n _ k => fits 32 n && fits 776 k
  | .endSession n => fits 32 n
  | .getMeasurements s _ => match s with | some n => fits 32 n | none => true
  | _ => true

/-- The fields of an install request (Table 13.2). -/
def installOk (r : InstallReq) : Bool := fits 8 r.op && fits 8 r.ring && r.mask.all (fits 8) && fits 256 r.loadKey

/-- Every operand of a command lies in its range. -/
def Instr.wf : Instr → Bool
  | .registerWrite p off _ _ _ => offOk p off
  | .lfnLoRead _ sub => subOk sub
  | .setupLockSet _ _ => true
  | .errlogPop _ => true
  | .linkFrameStart _ => true
  | .echoBlockReceived p port t1 t2 t3 t4 => okPort p port && fits 32 t1 && fits 32 t2 && fits 32 t3 && fits 32 t4
  | .echoReplyReceived p port t1 turn t4 => okPort p port && fits 32 t1 && fits 32 turn && fits 32 t4
  | .timeRead p ring seq sub => okDesc p ring seq && subOk sub
  | .acquireStart p port => okPort p port
  | .acqSet1Complete _ => true
  | .acqSet2Complete _ => true
  | .parentTimeLoss p port psi => okPort p port && subOk psi
  | .timePortReturn _ psi => subOk psi
  | .trackingSetComplete p port => okPort p port
  | .frameTick lvlReq => (lvlReq.length == 64 && lvlReq.all (fits 4))
  | .regionRemeasure region roundTrip => fits 6 region && fits 32 roundTrip
  | .lfnMarker => true
  | .civilBroadcast => true
  | .civilPageReceived _ apply sec frac inc civilState =>
    fits 64 apply && fits 64 sec && fits 64 frac && fits 64 inc && fits 2 civilState
  | .civilApply _ => true
  | .civilTimeout _ => true
  | .civilSet ring seq => okDesc .dbx ring seq
  | .tdcStart _ _ => true
  | .tdcAttemptTimeout _ => true
  | .measurementSetComplete _ => true
  | .tdcSelfTest p port a1 a2 a3 => okPort p port && a1.length == 86 && a2.length == 85 && a3.length == 85
      && (a1 ++ a2 ++ a3).all fun x => fits 32 (x.getD 0)
  | .closePageReceived p port p0 p1 p2 p3 => okPort p port && fits 32 p0 && fits 32 p1 && fits 32 p2 && fits 32 p3
  | .closureRun _ => true
  | .closurePeriodic => true
  | .refLos i delta => decide (i < 3) && sfits 32 delta
  | .refBlockLockReturn i => decide (i < 3)
  | .esmcPdu i _ ssm freqOff delta => decide (i < 3) && fits 4 ssm && sfits 64 freqOff && sfits 32 delta
  | .qualifyTimeout i => decide (i < 3)
  | .esmcTimeout i delta => decide (i < 3) && sfits 32 delta
  | .ocxoQualify freqOff delta => sfits 64 freqOff && sfits 32 delta
  | .ocxoLos delta => sfits 32 delta
  | .frequencyError i freqOff delta => decide (i < 3) && sfits 64 freqOff && sfits 32 delta
  | .prefWrite _ delta => sfits 32 delta
  | .stepNoticeReceived _ delta l0 => sfits 32 delta && fits 64 l0
  | .refStepClear _ delta => sfits 32 delta
  | .ocxoWarmChange _ => true
  | .masterFailureJudged delta => sfits 32 delta
  | .ppsInEdge i sub => decide (i < 2) && subOk sub
  | .anchorStale k => decide (k < 6)
  | .outputEdge k sub => decide (k < 7) && subOk sub
  | .esmcTransmit => true
  | .blockLockGained p port lane => okPort p port && lane.ok
  | .blockLockLost p port lane => okPort p port && lane.ok
  | .linkFrameReceived p port frame => okPort p port && frameOk frame
  | .nakReceived p port lfnLow mask => okPort p port && fits 8 lfnLow && fits 8 mask
  | .nakRepeat p port label => okPort p port && fits 64 label
  | .portDark p port => okPort p port
  | .trainingTimeout p port => okPort p port
  | .portEnable p port _ => okPort p port
  | .portIsolate p port _ => okPort p port
  | .portLoopback p port mode => okPort p port && fits 2 mode
  | .dropLane p port lane _ => okPort p port && decide (lane < 2)
  | .unpin p port => okPort p port
  | .degradeRequestReceived p port want => okPort p port && fits 2 want
  | .layoutSwitch p port => okPort p port
  | .degradedQueueDrop p port => okPort p port
  | .laneRestoreRequest p port lane => okPort p port && decide (lane < 2)
  | .linkEpochExchangeStart p port => okPort p port
  | .keyRatchet p port => okPort p port
  | .epochBoundary p port => okPort p port
  | .linkCert p port cert => okPort p port && certOk cert
  | .linkShare p port ep nonce pub => okPort p port && fits 32 ep && fits 256 nonce && fits 776 pub
  | .linkSig p port sig => okPort p port && fits 768 sig
  | .linkConfirm p port mac => okPort p port && fits 128 mac
  | .dynamicRecordReceived _ rc => recOk rc
  | .elsSample k bias0 bias1 pwr0 pwr1 rx =>
    decide (k < 8) && (match bias0 with | some b => fits 16 b | none => true) && fits 16 bias1 && sfits 16 pwr0 && sfits 16 pwr1
      && rx.all (fun x => okPort .dbx x.1 && sfits 16 x.2.1 && sfits 16 x.2.2)
  | .bolCapture k => decide (k < 8)
  | .templateWrite p off _ => offOk p off
  | .crozierReceived port share cz => okPort .dbx port && fits 11 share && crozierOk cz
  | .compareWindowExpiry => true
  | .crozierAdmission port cz sub => okPort .tsu port && crozierOk cz && subOk sub
  | .launchStage entry fullRegions => fits 10 entry && fullRegions.all (fits 6)
  | .launchFire entry => fits 10 entry
  | .armEntryFree entry => fits 10 entry
  | .retiredKeyExpiry => true
  | .abortAct => true
  | .tokenApply entry => fits 10 entry
  | .epochApply entry => fits 10 entry
  | .timeEventFire entry => fits 10 entry
  | .frequencyCrozierFire entry lvlReq => fits 10 entry && (lvlReq.length == 64 && lvlReq.all (fits 4))
  | .peristomePoll => true
  | .peristomeTimeout index => fits 12 index
  | .peristomeConfig index source arg => fits 8 index && fits 3 source && fits 12 arg
  | .scopeTableLoad tbl _ => tableOk tbl
  | .tableWrite _ => true
  | .clrMargin _ => true
  | .planLoad ring seq => okDesc .dbx ring seq
  | .planRetire ring seq => okDesc .dbx ring seq
  | .storeReloadComplete ch => fits 18 ch
  | .launch ch => fits 18 ch
  | .waitc ch => fits 18 ch
  | .reduce ch => fits 18 ch
  | .sample ch => fits 18 ch
  | .accept ch => fits 18 ch
  | .branch ch => fits 18 ch
  | .loop ch => fits 18 ch
  | .peri ch => fits 18 ch
  | .epoch ch => fits 18 ch
  | .swap ch => fits 18 ch
  | .swapAdvance slot => fits 8 slot
  | .variant ch => fits 18 ch
  | .digest ch => fits 18 ch
  | .post ch => fits 18 ch
  | .halt ch => fits 18 ch
  | .crozierEmission slot => fits 8 slot
  | .meterPeriod => true
  | .waitcDeadline ch => fits 18 ch
  | .inputCommit _ => true
  | .commitNoticeReceived k commitLfn => inputOk k && fits 64 commitLfn
  | .commitNoticeTimeout _ => true
  | .groupDigestCompare twin differing msg =>
    (twin.length == 64 && twin.all (fits 64)) && differing.all (fun x => fits 6 x.1 && x.2.all (fits 18))
      && msg.posts.all (fun x => fits 18 x.1 && fits 32 x.2)
  | .resyncCopyComplete group records => fits 6 group && records.all (fun x => fits 18 x.1)
  | .replayRestart ch => fits 18 ch
  | .conductorTakeover => true
  | .shadowCopyComplete records images =>
    records.all (fun x => fits 18 x.1) && images.all (fun x => fits 12 x.index && fits 8 x.slot && bytesOk x.image)
  | .handback _ => true
  | .chSelSnapshot _ => true
  | .completionContribution pos _ c => decide (pos < 128) && complOk c
  | .contributionWord hdr data _ => ctOk hdr && bytesOk data
  | .partialReceived port partition part => decide (port < 128) && fits 16 partition && hdrOk part.hdr
  | .flushExpiry _ => true
  | .keyDeadline _ => true
  | .resultBroadcast at_ hdr body nowSub => okPort at_.part at_.port && fits 11 at_.share && hdrOk hdr && bytesOk body && subOk nowSub
  | .resultKeyExpiry => true
  | .resultWait => true
  | .pass2Broadcast at_ hdr m sr _ => okPort at_.part at_.port && fits 11 at_.share && hdrOk hdr && fits 32 m && fits 32 sr
  | .logitRelease => true
  | .kcgTest _ => true
  | .ringEnable p ring => okRing p ring
  | .ringDisable p ring => okRing p ring
  | .sqTailWrite p ring _ => okRing p ring
  | .cqHeadWrite p ring _ => okRing p ring
  | .completionWrite p ring => okRing p ring
  | .descriptorFetch p ring d => okRing p ring && descOk d
  | .nop p ring seq => okDesc p ring seq
  | .chCreate p ring seq => okDesc p ring seq
  | .chBind p ring seq => okDesc p ring seq
  | .chArm ring seq => okDesc .dbx ring seq
  | .chPause ring seq => okDesc .dbx ring seq
  | .chResume ring seq => okDesc .dbx ring seq
  | .chDestroy p ring seq => okDesc p ring seq
  | .manifest ring seq => okDesc .tsu ring seq
  | .epochSwap ring seq => okDesc .dbx ring seq
  | .digestRead p ring seq => okDesc p ring seq
  | .attest p ring seq req => okDesc p ring seq && spdmOk req
  | .attestTimeout ring seq => okDesc .tsu ring seq
  | .bindTenant p ring seq req => okDesc p ring seq && installOk req
  | .bindManager p ring seq req => okDesc p ring seq && installOk req
  | .loadKey p ring seq req => okDesc p ring seq && installOk req
  | .scrub p ring seq => okDesc p ring seq
  | .scrubRelay slot => fits 8 slot
  | .scrubEnd _ => true
  | .healthBlockRead p ring seq => okDesc p ring seq
  | .portHealthRead ring seq => okDesc .dbx ring seq
  | .recordLogRead ring seq => okDesc .dbx ring seq
  | .set p ring seq => okDesc p ring seq
  | .insertBegin ring seq => okDesc .dbx ring seq
  | .lost ring seq => okDesc .dbx ring seq
  | .release ring seq => okDesc .dbx ring seq
  | .roleLoaded ring seq => okDesc .tsu ring seq
  | .msixModeration p ring => okRing p ring
  | .quarantineEnd _ index => fits 18 index
  | .destroyedEvent index => fits 18 index
  | .tapWrite tag addr words =>
    fits 48 tag && (fits 48 addr && addr % 64 == 0) && (words.length == 8 && words.all (fits 64))
  | .sorediumReceived port partition sr => decide (port < 128) && fits 16 partition && sorOk sr
  | .shardDeadline layer shard => fits 10 layer && fits 16 shard
  | .layerOpen layer => fits 10 layer
  | .cmpReset _ => true
  | .cmpRstAckRise => true
  | .cmpRstAckFall => true
  | .killTimeout target handle => fits 8 target && fits 32 handle
  | .dieReset => true
  | .distributorReset => true
  | .distributorResetRelease bootSrc smbAddr => fits 2 bootSrc && fits 2 smbAddr
  | .restoreTimeout ch => fits 18 ch
  | .waitGraphEvaluation => true
  | .waitQuery partition handle step => fits 16 partition && fits 32 handle && fits 48 step
  | .waitReply pos partition r => decide (pos < 128) && fits 16 partition && waitOk r
  | .hangVerdictTimeout ch => fits 18 ch
  | .readyReport partition role _ lfn => fits 16 partition && fits 21 role && fits 64 lfn
  | .suspectReport partition role target handles _ faultLfn =>
    fits 16 partition && fits 21 role && fits 8 target && (handles.length ≤ 16 && handles.all (fits 32))
      && fits 64 faultLfn
  | .insertionDeadline i => decide (i < 64)
  | .penaltyDecay _ => true
  | .expulsionRequest partition role pod score => fits 16 partition && fits 21 role && fits 14 pod && fits 10 score
  | .expulsionRepeat => true
  | .expulsionVerdict v => (v == 1 || v == 2)
  | .grantWindowExpiry => true
  | .x1Switch => true
  | .elsEnable _ => true
  | .elsPresenceChange k _ => decide (k < 8)
  | .sramBankTest _ => true
  | .mailboxResponse _ _ bytes => bytesOk bytes
  | .keyInstallWrite _ _ => true
  | .stageCommit _ _ svn dg => fits 16 svn && fits 384 dg
  | .stageClear _ => true
  | .bringupStep _ step => decide (step < 16)
  | .bringupStepLimit p step code port => decide (step < 16) && fits 16 code && okPort p port
  | .cfgDone _ => true
  | .bootRecClear _ step => decide (step < 16)
  | .genSyncReplay => true
  | .thermalTrip sensor tj => fits 4 sensor && fits 12 tj
  | .thermalRecovery tj => fits 12 tj
  | .thermWarning sensor tj => fits 4 sensor && fits 12 tj
  | .entryRead entry target handle => fits 10 entry && fits 8 target && fits 32 handle
  | .completionWord region stamp w now => fits 6 region && subOk stamp.sub && wordOk w && subOk now.sub
  | .memoryResponse tag _ => fits 10 tag
  | .oeInterrupt status rx => fits 8 status && rx.all (sfits 16)
  | .oePoll status rx => fits 8 status && rx.all (sfits 16)
  | .pcieFunctionReset => true
  | .telemetryDatagram => true
  | .smbusBlockRead => true
  | .frameGridLoad f origin => fits 32 f && fits 64 origin
  | .layoutReport partition uid port dir _ => fits 16 partition && fits 64 uid && okPort .dbx port && decide (dir < 2)
  | .tdcStopEdge _ interval => fits 32 interval
  | .lostLockIndication i => decide (i < 3)
  | .dieResetRelease lvl oe port => fits 4 lvl && fits 2 oe && fits 2 port
  | .lwAck region target entry => fits 6 region && fits 8 target && fits 10 entry
  | .supplyLeftTolerance i => decide (i < 8)
  | .neighbourDiscovery _ => true
  | .boundaryScanInstruction inst => decide (inst < 4)

end Sys2Proof
end

