-- ==== Sys2Proof/Certificates/Slice0/Obligations.lean ====
section
/-! DEFINITION. The statements for the provers. A statement with several clauses is their conjunction; a clause about a
command gives, under conditions on the state and the operands alone, the whole next state, so that what it does not
name is unchanged. -/

open Sys2Proof Sys2Proof.Machine

/-- REGISTER_WRITE outside the ring blocks, off the root-of-trust offsets and the held conductor registers, answers the state in which every field at the offset that its access code, the lock and the origin let through has its new value and the RW1C bits written as 1 are clear, with the consequences of that register (a write of TSU_KEY_DATA keeps the key, which no read gives); one to an unassigned offset is discarded; a partial write at the distributor is discarded and logged with code 3, a host write of a root-of-trust offset at the TSU answers CFG_ERR, a set-up write of a ring pair that R196 discards sets cfg_refused, a conductor register that a bound plan holds sets cfg_refused. SETUP_LOCK_SET with the set bit sets the lock where no cause of Table 17.3 stands, else sets lock_refused with the cause and logs it. ERRLOG_POP drops the oldest entry. PREF_WRITE takes the RW bits, acts on pref, the enables and force_free, then clears the RW1C bits. -/
def Obligations.RegisterRowsTakeEffect : Prop :=
  (∀ (p : Part) (off : Nat) (v : Word) (whole rot : Bool) (s : State), Runs s p →
      (fieldsAt p off).isEmpty = false →
      (p = .dbx → whole = true) →
      (p = .tsu → rotOffset off = true → rot = true) →
      ringOf p off = none →
      (p = .dbx → s.condHeld off = false) →
      exec (.registerWrite p off v whole rot) s = .next ((let t := (s.regWrite p off v.toNat rot false).afterWrite p off
        if p = .tsu then t.keepKey off v.toNat else t))) ∧
  (∀ (off : Nat) (v : Word) (rot : Bool) (s : State), Runs s .dbx →
      (fieldsAt .dbx off).isEmpty = false →
      exec (.registerWrite .dbx off v false rot) s = .next (s.logErr .dbx 0x0003 noPort off)) ∧
  (∀ (p : Part) (off : Nat) (v : Word) (whole rot : Bool) (s : State), Runs s p →
      (fieldsAt p off).isEmpty = true →
      exec (.registerWrite p off v whole rot) s = .next (s)) ∧
  (∀ (off : Nat) (v : Word) (whole : Bool) (s : State), Runs s .tsu →
      (fieldsAt .tsu off).isEmpty = false →
      rotOffset off = true →
      exec (.registerWrite .tsu off v whole false) s = .next (s.emit .tsu (.cfgErr off))) ∧
  (∀ (p : Part) (off r o : Nat) (v : Word) (rot : Bool) (s : State), Runs s p →
      (fieldsAt p off).isEmpty = false →
      rotOffset off = false →
      ringOf p off = some (r, o) →
      s.ringRefuses p r o v.toNat = true →
      exec (.registerWrite p off v true rot) s = .next (s.wr (F.ringStatusCfgRefused p) 1 r)) ∧
  (∀ (off : Nat) (v : Word) (rot : Bool) (s : State), Runs s .dbx →
      (fieldsAt .dbx off).isEmpty = false →
      ringOf .dbx off = none →
      s.condHeld off = true →
      exec (.registerWrite .dbx off v true rot) s = .next (s.wr F.condStatusCfgRefused 1)) ∧
  (∀ (p : Part) (v : Word) (s : State), Runs s p →
      bit v.toNat 1 = true →
      bit v.toNat 2 = false →
      s.locked p = false →
      s.lockCause p = 0 →
      exec (.setupLockSet p v) s = .next (s.wr (F.setupLockLock p) 1)) ∧
  (∀ (p : Part) (v : Word) (s : State), Runs s p →
      bit v.toNat 1 = true →
      bit v.toNat 2 = false →
      s.locked p = false →
      s.lockCause p ≠ 0 →
      exec (.setupLockSet p v) s = .next (((s.wr (F.setupLockLockRefused p) 1).wr (F.setupLockRefuseCause p) (s.lockCause p)).logErr p 0x0002 noPort (s.lockCause p))) ∧
  (∀ (p : Part) (s : State), Runs s p →
      exec (.errlogPop p) s = .next ((s.modNode p fun n => { n with errlog := n.errlog.drop 1 }).showErrlog p)) ∧
  (∀ (v : Word) (delta : Int) (s : State), Runs s .dbx →
      exec (.prefWrite v delta) s = .next (((((s.regPut .dbx 0x1100 v.toNat false true).prefAct (bits v.toNat 0 2) delta).applyRefEnables delta).applyForceFree).regClear .dbx 0x1100 v.toNat))

/-- A read of _LFN_LO at an awake part answers and shows the low half of the count, with the high half and the SUB of the same count latched: in VALID the own LFN with the SUB of the clock edge at or before the moment, in HOLD and in ACQUIRE from HOLD the frozen count, in NO_TIME and in ACQUIRE from it 0; SUB is a multiple of 256 and never moves back. A TIME_READ descriptor in flight writes the 32-byte time record with the civil time of the moment as its result and completes with OK. -/
def Obligations.TimeReadsGiveTheExportedCount : Prop :=
  (∀ (p : Part) (sub : Nat) (s : State), Runs s p →
      s.timeState p = 2 →
      exec (.lfnLoRead p sub) s = .next ((((((s.modNode p fun n => n.runTo sub).wr (F.lfnLoLfnLo p) (s.lfn p % 2 ^ 32)).wr (F.lfnHiLfnHi p) (s.lfn p / 2 ^ 32)).wr (F.subSnapSub p) ((s.node p).runTo sub).edgeSub).wr (F.subSnapFrac p) 0).emit p (.readData (F.lfnLoLfnLo p).base (s.lfn p % 2 ^ 32)))) ∧
  (∀ (p : Part) (sub : Nat) (s : State), Runs s p →
      s.timeState p = 3 →
      exec (.lfnLoRead p sub) s = .next ((((((s.modNode p fun n => n.runTo sub).wr (F.lfnLoLfnLo p) ((s.node p).frozen.lfn % 2 ^ 32)).wr (F.lfnHiLfnHi p) ((s.node p).frozen.lfn / 2 ^ 32)).wr (F.subSnapSub p) (s.node p).frozen.sub).wr (F.subSnapFrac p) 0).emit p (.readData (F.lfnLoLfnLo p).base ((s.node p).frozen.lfn % 2 ^ 32)))) ∧
  (∀ (p : Part) (sub : Nat) (s : State), Runs s p →
      s.timeState p = 1 →
      (s.node p).fromHold = true →
      exec (.lfnLoRead p sub) s = .next ((((((s.modNode p fun n => n.runTo sub).wr (F.lfnLoLfnLo p) ((s.node p).frozen.lfn % 2 ^ 32)).wr (F.lfnHiLfnHi p) ((s.node p).frozen.lfn / 2 ^ 32)).wr (F.subSnapSub p) (s.node p).frozen.sub).wr (F.subSnapFrac p) 0).emit p (.readData (F.lfnLoLfnLo p).base ((s.node p).frozen.lfn % 2 ^ 32)))) ∧
  (∀ (p : Part) (sub : Nat) (s : State), Runs s p →
      s.timeState p = 0 ∨ (s.timeState p = 1 ∧ (s.node p).fromHold = false) →
      exec (.lfnLoRead p sub) s = .next ((((((s.modNode p fun n => n.runTo sub).wr (F.lfnLoLfnLo p) (0 % 2 ^ 32)).wr (F.lfnHiLfnHi p) (0 / 2 ^ 32)).wr (F.subSnapSub p) 0).wr (F.subSnapFrac p) 0).emit p (.readData (F.lfnLoLfnLo p).base (0 % 2 ^ 32)))) ∧
  (∀ (n : Node) (sub : Nat) (s : State), (n.runTo sub).edgeSub % 256 = 0 ∧ n.edgeSub ≤ (n.runTo sub).edgeSub ∧ ((n.sub < 8192) → (n.runTo sub).edgeSub < 8192) ∧ (n.sub ≤ sub → sub < 8192 → (n.runTo sub).edgeSub = sub / 256 * 256)) ∧
  (∀ (p : Part) (ring seq sub : Nat) (f : InFlight) (s : State), Runs s p →
      Asked s p ring seq 0x31 f →
      exec (.timeRead p ring seq sub) s = .next ((let t := (s.begin_ p ring seq).modNode p fun n => n.runTo sub
        let c := civilAt (t.node p) (t.node p).edgeSub
        (t.result p ring seq f.desc (t.timeRecord p ++ toLe 8 c.1 ++ toLe 4 c.2 ++ toLe 4 0)).finish p ring seq 0 0 0)))

/-- At the child end of a hop in a state that exchanges echoes, an echo block opens an exchange, is kept for the next S0 and answered with the turnaround t3 − t2 modulo 2^32 and its own t1. A new t4 closes the oldest open exchange first where none has closed yet, with rtt = (t4 − t1) − (t3 − t2) and θ = (t2 − t1) − rtt/2 less the asymmetry record as a sample of the running set; later ones close the exchange that takes as long (log 137). At the parent end, whose set is not yet full, the reply adds its round trip (t4 − t1) − turnaround to the set and t4 is kept for the next downward S0 with the t1 of its exchange; the reply that fills the set shows the mean round trip in _PORT_RTT and starts the next set. -/
def Obligations.EchoExchangeMeasuresTheHop : Prop :=
  (∀ (p : Part) (port t1 t2 t3 t4 : Nat) (s : State), Runs s p →
      s.childEnd p port = true →
      s.echoing p port = true →
      exec (.echoBlockReceived p port t1 t2 t3 t4) s = .next (((s.echoReturn p port t4).modPort p port fun t => { t with echo := t.echo ++ [(t1, t2, t3)], answer := (t1, t2, t3), seenT4 := t4 }).emit p (.echoReply port (ofSigned 32 (stampDiff t3 t2)) t1))) ∧
  (∀ (p : Part) (port t1 t2 t3 t4 : Nat) (s : State), Runs s p →
      s.childEnd p port = true →
      s.echoing p port = true →
      (s.port p port).echo = [] →
      exec (.echoBlockReceived p port t1 t2 t3 t4) s = .next ((s.modPort p port fun t => { t with echo := t.echo ++ [(t1, t2, t3)], answer := (t1, t2, t3), seenT4 := t4 }).emit p (.echoReply port (ofSigned 32 (stampDiff t3 t2)) t1))) ∧
  (∀ (p : Part) (port t1 t2 t3 t4 a1 a2 a3 : Nat) (l : List (Nat × Nat × Nat)) (s : State), Runs s p →
      s.childEnd p port = true →
      s.echoing p port = true →
      (s.port p port).echo = (a1, a2, a3) :: l →
      (s.port p port).echoGap = none →
      t4 ≠ (s.port p port).seenT4 →
      exec (.echoBlockReceived p port t1 t2 t3 t4) s = .next ((((s.echoSample p port (2 * stampDiff a2 a1 - (stampDiff t4 a1 - stampDiff a3 a2) - s.asymApplied p port) (2 * (stampDiff t4 a1 - stampDiff a3 a2))).modPort p port fun t => { t with echo := t.echo.drop 1, echoGap := some (stampDiff t4 a3) }).modPort p port fun t => { t with echo := t.echo ++ [(t1, t2, t3)], answer := (t1, t2, t3), seenT4 := t4 }).emit p (.echoReply port (ofSigned 32 (stampDiff t3 t2)) t1))) ∧
  (∀ (p : Part) (port t1 turn t4 : Nat) (s : State), Runs s p →
      s.childEnd p port = false →
      s.echoing p port = true →
      exec (.echoReplyReceived p port t1 turn t4) s = .next ((let v := s.draw
        ((v.2.echoSample p port (toSigned 32 (v.1 % 2 ^ 32)) (2 * (stampDiff t4 t1 - toSigned 32 turn))).modPort p port fun t => { t with retT4 := t4, retT1 := t1 }).closeParentSet p port))) ∧
  (∀ (p : Part) (port : Nat) (s : State), s.echoSetDone p port = true →
      s.closeParentSet p port = ((s.wrI (F.portRttRtt p) (s.port p port).acc.meanRtt port).wr (F.portTstatSetValid p) 1 port).restartEchoSet p port) ∧
  (∀ (p : Part) (port : Nat) (s : State), s.echoSetDone p port = false →
      s.closeParentSet p port = s)

/-- A node in NO_TIME or HOLD with a time-valid parent enters ACQUIRE with that port as time port and echo set 1 (fromHold after HOLD). A complete set 1 that is not discarded makes the count that of the parent by −mean θ and the whole multiples of 2^16 link frames that the stamps span, starts set 2 and labels the node. A complete set 2 within the limits enters VALID and takes the phase of what the time port brings; one outside them corrects again and counts a failure. -/
def Obligations.AcquisitionEntersValid : Prop :=
  (∀ (p : Part) (port : Nat) (s : State), Runs s p →
      s.timeState p = 0 ∨ s.timeState p = 3 →
      s.parentValid p port = true →
      (s.node p).altPort = false ∨ s.timeState p = 3 ∨ port ≠ preferredPort p ∨ (otherParent p port).any (fun q => s.parentValid p q) = false →
      exec (.acquireStart p port) s = .next (((s.acquireFrom p port).modNode p fun n => { n with fromHold := s.timeState p == 3 }).setTimeState p 1)) ∧
  (∀ (p : Part) (s : State), Runs s p →
      s.timeState p = 1 →
      (s.node p).acqSet = 1 →
      s.echoSetDone p (s.node p).acqPort = true →
      s.setDiscarded p (s.node p).acqPort = false →
      exec (.acqSet1Complete p) s = .next (((s.closeEchoSet p (s.node p).acqPort).correct p (s.acqCorrection p (s.node p).acqPort (s.port p (s.node p).acqPort).acc.mean)).modNode p fun n => { n with acqSet := 2, labelled := true, origin := false })) ∧
  (∀ (p : Part) (s : State), Runs s p →
      s.timeState p = 1 →
      (s.node p).acqSet = 2 →
      s.echoSetDone p (s.node p).acqPort = true →
      s.setDiscarded p (s.node p).acqPort = false →
      s.set2Passes p (s.port p (s.node p).acqPort).acc = true →
      exec (.acqSet2Complete p) s = .next (((s.closeEchoSet p (s.node p).acqPort).enterValid p).rephase p (psiAt (s.port p (s.node p).acqPort).answer.2.1))) ∧
  (∀ (p : Part) (s : State), Runs s p →
      s.timeState p = 1 →
      (s.node p).acqSet = 2 →
      s.echoSetDone p (s.node p).acqPort = true →
      s.setDiscarded p (s.node p).acqPort = false →
      s.set2Passes p (s.port p (s.node p).acqPort).acc = false →
      (s.node p).acqFails + 1 < 8 →
      ∃ t, exec (.acqSet2Complete p) s = .next t ∧ t = (((s.closeEchoSet p (s.node p).acqPort).correct p (-(s.port p (s.node p).acqPort).acc.mean)).modNode p fun n => { n with acqFails := n.acqFails + 1 }) ∧ (t.node p).acqFails = (s.node p).acqFails + 1)

/-- In VALID, when the parent at the time port is lost, the node is to take its other time-valid parent with its phase rounded up to a time-clock period, and does so at the next set boundary with the offset difference slewed; without one it enters HOLD with the count frozen. In ACQUIRE it acquires from the other port, or leaves ACQUIRE. The preferred parent returned and valid for 2^16 link frames takes the time port back. A complete tracking set with samples, on the time port and not discarded, makes −mean θ the offset to be slewed; a mean beyond 64 units of 0.625 ps sets align_err, logs code 0x14 and is a health event; a discarded set is begun again. -/
def Obligations.TimePortFollowsItsParents : Prop :=
  (∀ (p : Part) (port psi q : Nat) (s : State), Runs s p →
      (s.parentPorts p).contains port = true →
      s.parentValid p port = false →
      s.timeState p = 2 →
      s.timePort p = some port →
      otherParent p port = some q →
      s.parentValid p q = true →
      exec (.parentTimeLoss p port psi) s = .next (s.modNode p fun n => { n with moveTo := some (q, ceilEdge psi) })) ∧
  (∀ (p : Part) (port psi : Nat) (s : State), Runs s p →
      (s.parentPorts p).contains port = true →
      s.parentValid p port = false →
      s.timeState p = 2 →
      s.timePort p = some port →
      (∀ q, otherParent p port = some q → s.parentValid p q = false) →
      exec (.parentTimeLoss p port psi) s = .next (s.enterHold p)) ∧
  (∀ (p : Part) (port psi q : Nat) (s : State), Runs s p →
      (s.parentPorts p).contains port = true →
      s.parentValid p port = false →
      s.timeState p = 1 →
      (s.node p).acqPort = port →
      otherParent p port = some q →
      s.parentValid p q = true →
      exec (.parentTimeLoss p port psi) s = .next (s.acquireFrom p q)) ∧
  (∀ (p : Part) (port psi : Nat) (s : State), Runs s p →
      (s.parentPorts p).contains port = true →
      s.parentValid p port = false →
      s.timeState p = 1 →
      (s.node p).acqPort = port →
      (∀ q, otherParent p port = some q → s.parentValid p q = false) →
      exec (.parentTimeLoss p port psi) s = .next (s.leaveAcquire p)) ∧
  (∀ (p : Part) (psi port : Nat) (s : State), Runs s p →
      s.timeState p = 2 →
      s.timePort p = some port →
      otherParent p port = some (preferredPort p) →
      s.parentValid p (preferredPort p) = true →
      (s.port p (preferredPort p)).pSince + 2 ^ 16 ≤ s.lfn p →
      exec (.timePortReturn p psi) s = .next ((s.moveTimePort p port (preferredPort p)).rephase p (ceilEdge psi))) ∧
  (∀ (p : Part) (port : Nat) (s : State), Runs s p →
      s.timeState p = 2 →
      s.childEnd p port = true →
      s.echoSetDone p port = true →
      s.setDiscarded p port = false →
      s.timePort p = some port →
      (s.port p port).acc.n ≠ 0 →
      (s.port p port).acc.mean.natAbs ≤ 64 →
      exec (.trackingSetComplete p port) s = .next (((s.closeEchoSet p port).modNode p fun n => { n with slew := -(s.port p port).acc.mean }).moveDue p)) ∧
  (∀ (p : Part) (port : Nat) (s : State), Runs s p →
      s.timeState p = 2 →
      s.childEnd p port = true →
      s.echoSetDone p port = true →
      s.setDiscarded p port = false →
      s.timePort p = some port →
      (s.port p port).acc.n ≠ 0 →
      64 < (s.port p port).acc.mean.natAbs →
      exec (.trackingSetComplete p port) s = .next (((((((s.closeEchoSet p port).modNode p fun n => { n with slew := -(s.port p port).acc.mean }).wr (F.portTstatAlignErr p) 1 port).logErr p 0x14 port (ofSigned 32 (s.port p port).acc.mean)).penalise p 8)).moveDue p)) ∧
  (∀ (p : Part) (port : Nat) (s : State), Runs s p →
      s.timeState p = 2 →
      s.childEnd p port = true →
      s.echoSetDone p port = true →
      s.setDiscarded p port = true →
      exec (.trackingSetComplete p port) s = .next ((s.restartEchoSet p port).moveDue p)) ∧
  (∀ (p : Part) (port q psi : Nat) (s : State), (s.node p).moveTo = some (q, psi) →
      s.timePort p = some port →
      s.parentValid p q = true →
      ∃ t, t = s.modNode p (fun n => { n with moveTo := none }) ∧ (t.parentValid p q = true → s.moveDue p = (t.moveTimePort p port q).rephase p psi)) ∧
  (∀ (p : Part) (s : State), (s.node p).moveTo = none →
      s.moveDue p = s)

/-- A die reset takes the TSU to its reset values with its straps kept, in any state; its release samples the straps and starts the part. A distributor reset does the same for its part, keeps the boot record and the staged images, and with no trip held releases ALERT_N and THERM_N; its release samples the straps and starts it from the boot record, unless a trip holds; after a trip that ended in reset the start tells of it. A write of cfg_done ends B3 when the tree keeps its rule and fails it otherwise. Clearing a record clears its failures and code, here and in the store. -/
def Obligations.PartsResetAndStart : Prop :=
  (∀ (s : State), exec (.dieReset) s = .next (s.resetTsu)) ∧
  (∀ (lvl oe port : Nat) (s : State), s.tsu.live = false →
      exec (.dieResetRelease lvl oe port) s = .next ((s.modNode .tsu fun n => { n with live := true }).strapTsu lvl oe port)) ∧
  (∀ (lvl oe port : Nat) (s : State), s.tsu.live = true →
      exec (.dieResetRelease lvl oe port) s = .next (s)) ∧
  (∀ (s : State), exec (.distributorReset) s = .next (if s.assertReset.d.tripped = true then s.assertReset else (s.assertReset.emit .dbx (.pin .alertN 1)).emit .dbx (.pin .thermN 1))) ∧
  (∀ (bootSrc smbAddr : Nat) (s : State), s.dbx.live = false →
      s.d.tripped = false →
      s.d.tripOwed = false →
      exec (.distributorResetRelease bootSrc smbAddr) s = .next ((s.releaseReset bootSrc smbAddr).startDbx)) ∧
  (∀ (bootSrc smbAddr : Nat) (s : State), s.dbx.live = false →
      s.d.tripped = false →
      s.d.tripOwed = true →
      exec (.distributorResetRelease bootSrc smbAddr) s = .next ((s.releaseReset bootSrc smbAddr).startDbx.tellTrip)) ∧
  (∀ (bootSrc smbAddr : Nat) (s : State), s.dbx.live = false →
      s.d.tripped = true →
      exec (.distributorResetRelease bootSrc smbAddr) s = .next (s.releaseReset bootSrc smbAddr)) ∧
  (∀ (bootSrc smbAddr : Nat) (s : State), s.dbx.live = true →
      exec (.distributorResetRelease bootSrc smbAddr) s = .next (s)) ∧
  (∀ (v : Word) (s : State), Runs s .tsu →
      s.locked .tsu = false →
      bit v.toNat 0 = true →
      (s.regWrite .tsu 0x400 v.toNat false true).stepDone .tsu 3 = true →
      (s.regWrite .tsu 0x400 v.toNat false true).is F.bootCfgCfgDone = true →
      (s.regWrite .tsu 0x400 v.toNat false true).tsu.bootBegun.contains 3 = true →
      (s.regWrite .tsu 0x400 v.toNat false true).ended .tsu 3 = false →
      exec (.cfgDone v) s = .next ((s.regWrite .tsu 0x400 v.toNat false true).endStep .tsu 3)) ∧
  (∀ (v : Word) (s : State), Runs s .tsu →
      s.locked .tsu = false →
      bit v.toNat 0 = true →
      (s.regWrite .tsu 0x400 v.toNat false true).stepDone .tsu 3 = false →
      (s.regWrite .tsu 0x400 v.toNat false true).is F.bootCfgCfgDone = true →
      (s.regWrite .tsu 0x400 v.toNat false true).tsu.bootBegun.contains 3 = true →
      (s.regWrite .tsu 0x400 v.toNat false true).ended .tsu 3 = false →
      exec (.cfgDone v) s = .next ((s.regWrite .tsu 0x400 v.toNat false true).failStep .tsu 3 0x302)) ∧
  (∀ (v : Word) (s : State), Runs s .tsu →
      s.locked .tsu = true →
      s.rd F.bootCfgCfgDone ≠ bits v.toNat 0 1 →
      (s.logErr .tsu 0x0001 noPort 0x400).ended .tsu 3 = true →
      exec (.cfgDone v) s = .next (s.logErr .tsu 0x0001 noPort 0x400)) ∧
  (∀ (v : Word) (s : State), Runs s .tsu →
      s.locked .tsu = false →
      bit v.toNat 0 = false →
      exec (.cfgDone v) s = .next ((s.regWrite .tsu 0x400 v.toNat false true))) ∧
  (∀ (p : Part) (step : Nat) (s : State), Runs s p →
      step < 16 →
      exec (.bootRecClear p step) s = .next (((s.wr (F.bootRecConsecFail p) 0 step).wr (F.bootRecLastCode p) 0 step).storeRec p step))

/-- A step of the part that has neither begun nor ended begins when its condition holds, unless the part is halted. One that has begun ends when its condition holds. A halted part takes no step. A step that may reach its limit fails with the code that the row names, which also counts at its port in B6 and B11; a root member whose X0 is dark at the limit of B6 then decides by its downlinks, and a distributor that runs the alternative of B1 halts. -/
def Obligations.BringUpStepsBeginAndEnd : Prop :=
  (∀ (p : Part) (step : Nat) (s : State), Runs s p →
      s.stepApplies p step = true →
      s.is (F.bootStatusHalted p) = false →
      s.ended p step = false →
      (s.node p).bootBegun.contains step = false →
      s.stepBegins p step = true →
      exec (.bringupStep p step) s = .next (s.beginStep p step)) ∧
  (∀ (p : Part) (step : Nat) (s : State), Runs s p →
      s.stepApplies p step = true →
      s.is (F.bootStatusHalted p) = false →
      s.ended p step = false →
      (s.node p).bootBegun.contains step = true →
      s.stepDone p step = true →
      exec (.bringupStep p step) s = .next (s.endStep p step)) ∧
  (∀ (p : Part) (step : Nat) (s : State), Runs s p →
      s.stepApplies p step = true →
      s.is (F.bootStatusHalted p) = false →
      s.ended p step = false →
      (s.node p).bootBegun.contains step = true →
      s.stepDone p step = false →
      exec (.bringupStep p step) s = .next (s)) ∧
  (∀ (p : Part) (step : Nat) (s : State), Runs s p →
      s.stepApplies p step = true →
      s.is (F.bootStatusHalted p) = false →
      s.ended p step = false →
      (s.node p).bootBegun.contains step = false →
      s.stepBegins p step = false →
      exec (.bringupStep p step) s = .next (s)) ∧
  (∀ (p : Part) (step code port : Nat) (s : State), Runs s p →
      s.mayFail p step code port = false →
      exec (.bringupStepLimit p step code port) s = .next (s)) ∧
  (∀ (p : Part) (step : Nat) (s : State), Runs s p →
      s.is (F.bootStatusHalted p) = true →
      exec (.bringupStep p step) s = .next (s)) ∧
  (∀ (p : Part) (step code port : Nat) (s : State), Runs s p →
      s.mayFail p step code port = true →
      exec (.bringupStepLimit p step code port) s = .next (if (p == Part.dbx && step == 6 && (((s.countPort p step port).portsSucceed p step).failStep p step code).isRoot && port == (((s.countPort p step port).portsSucceed p step).failStep p step code).xPort && decide ((((s.countPort p step port).portsSucceed p step).failStep p step code).portSt .dbx port ≤ 1)) = true then (((s.countPort p step port).portsSucceed p step).failStep p step code).rootDecide else if (p == Part.dbx && step == 1 && (((s.countPort p step port).portsSucceed p step).failStep p step code).rd (F.bootRecStatAction .dbx) 1 == 2) = true then (((s.countPort p step port).portsSucceed p step).failStep p step code).halt .dbx else (((s.countPort p step port).portsSucceed p step).failStep p step code)))

/-- At the warning limit THERM_N is asserted once with the interrupt, 3 degrees below it released, and the sensor's report is shown. At 110 degrees the part enters reset with ALERT_N and THERM_N asserted; below 95 degrees it starts again after B0 with trip_evt set and the trip counted. A supply that leaves its tolerance clears its bit and sets its event once. A function reset ends every ring pair, clears the messages and sets its event. A datagram, a block read and a query send the state they name. BYPASS and IDCODE act always, SAMPLE and EXTEST in reset. -/
def Obligations.PackageInputsAct : Prop :=
  (∀ (sensor tj : Nat) (s : State), Runs s .dbx →
      sensor < 16 →
      (s.showTherm sensor tj).thermLimit ≤ tjOf tj →
      (s.showTherm sensor tj).is F.thermStatusTherm = false →
      exec (.thermWarning sensor tj) s = .next ((((s.showTherm sensor tj).wr F.thermStatusTherm 1).emit .dbx (.pin .thermN 0)).interrupt .dbx 7)) ∧
  (∀ (sensor tj : Nat) (s : State), Runs s .dbx →
      sensor < 16 →
      tjOf tj ≤ (s.showTherm sensor tj).thermLimit - 24 →
      (s.showTherm sensor tj).is F.thermStatusTherm = true →
      exec (.thermWarning sensor tj) s = .next (((s.showTherm sensor tj).wr F.thermStatusTherm 0).emit .dbx (.pin .thermN 1))) ∧
  (∀ (sensor tj : Nat) (s : State), Runs s .dbx →
      sensor < 16 →
      (s.showTherm sensor tj).thermLimit - 24 < tjOf tj →
      tjOf tj < (s.showTherm sensor tj).thermLimit →
      exec (.thermWarning sensor tj) s = .next ((s.showTherm sensor tj))) ∧
  (∀ (sensor tj : Nat) (s : State), Runs s .dbx →
      880 ≤ tjOf tj →
      exec (.thermalTrip sensor tj) s = .next (((s.resetDbx.modD fun d => { d with tripped := true }).raiseAlert .dbx 0x343).emit .dbx (.pin .thermN 0))) ∧
  (∀ (tj : Nat) (s : State), s.d.tripped = true →
      tjOf tj < 760 →
      s.d.held = false →
      exec (.thermalRecovery tj) s = .next (((s.endTrip.startDbx.modNode .dbx fun n => { n with bootBegun := [0], bootDone := [0] }).wr F.thermStatusTj tj).tellTrip)) ∧
  (∀ (tj : Nat) (s : State), s.d.tripped = true →
      tjOf tj < 760 →
      s.d.held = true →
      exec (.thermalRecovery tj) s = .next (s.endTrip)) ∧
  (∀ (i : Nat) (s : State), Runs s .dbx →
      i < 8 →
      exec (.supplyLeftTolerance i) s = .next (if (s.wr F.railStatusInTol (setBit (s.rd F.railStatusInTol) i false)).is F.railStatusRailEvt = true then (s.wr F.railStatusInTol (setBit (s.rd F.railStatusInTol) i false)) else ((s.wr F.railStatusInTol (setBit (s.rd F.railStatusInTol) i false)).wr F.railStatusRailEvt 1).interrupt .dbx 7)) ∧
  (∀ (s : State), Runs s .dbx →
      exec (.pcieFunctionReset) s = .next ((List.range 256).foldl State.resetRing ((s.modNode .dbx fun n => { n with msix := [] }).wr F.pcieStatusResetEvt 1))) ∧
  (∀ (s : State), Runs s .dbx →
      exec (.telemetryDatagram) s = .next (s.emit .dbx (.datagram (s.healthBlock .dbx ++ s.portEntries)))) ∧
  (∀ (s : State), Runs s .dbx →
      exec (.smbusBlockRead) s = .next (s.showSec.emit .dbx (.smbus s.showSec.smbusWords))) ∧
  (∀ (query : Nat) (s : State), Runs s .dbx →
      exec (.neighbourDiscovery query) s = .next (s.emit .dbx (.neighbour query))) ∧
  (∀ (inst : Nat) (s : State), inst < 2 ∨ (inst < 4 ∧ s.d.held = true) →
      exec (.boundaryScanInstruction inst) s = .next (s.emit .dbx (.jtag inst))) ∧
  (∀ (inst : Nat) (s : State), 2 ≤ inst →
      4 ≤ inst ∨ s.d.held = false →
      exec (.boundaryScanInstruction inst) s = .next (s))

/-- In every state whose queue begins with a command, the step is that command's effect on the state whose queue is the rest. -/
def Obligations.StepRunsFrontCommand : Prop :=
  ∀ (c : Instr) (rest : List Instr) (s : State), s.pending = c :: rest → step s = exec c { s with pending := rest }

/-- This rests on the model's choice of log entry 11: with no command waiting, a step answers a state in which each part that is out of reset has its SUB 256 units later, or the same where that would pass 7,936, and nothing else has changed; so SUB stays below 8,192 where it was. -/
def Obligations.IdleStepRunsTheCounts : Prop :=
  ∀ s : State, s.pending = [] → ∃ t, step s = .next t ∧ t.t = s.t ∧ t.d = s.d ∧ t.fresh = s.fresh ∧ t.pending = [] ∧
    (∀ p : Part, (t.node p).lfn = (s.node p).lfn ∧ (t.node p).regs = (s.node p).regs ∧
      (t.node p).sub = (if (s.node p).live = true ∧ (s.node p).sub + 256 ≤ 7936 then (s.node p).sub + 256 else (s.node p).sub))

/-- Right after reset every field of both windows reads its reset value, the set-up locks are clear, the error logs and the dynamic records are empty, both nodes are in NO_TIME, the channel, plan, arm and table lists are empty and no command waits. The reset values that the spec does not give are the model's choice (log 6 to 8). -/
def Obligations.ResetGivesEveryFieldItsValue : Prop :=
  (∀ (f : Fld) (i w : Nat), State.reset.rd f i w = f.resetAt i) ∧
  (∀ p : Part, State.reset.locked p = false ∧ State.reset.timeState p = 0 ∧ (State.reset.node p).errlog = [] ∧
    (State.reset.node p).dyn = [] ∧ (State.reset.node p).rings = [] ∧ (State.reset.node p).scrub = none) ∧
  State.reset.d.chans = [] ∧ State.reset.d.plans = [] ∧ State.reset.t.chans = [] ∧ State.reset.t.arm = [] ∧
  State.reset.d.tScope = [] ∧ State.reset.d.tRoute = [] ∧ State.reset.d.tExc = [] ∧ State.reset.pending = []

/-- From any state, with any commands waiting, any number of steps all answer next states: no command faults or is refused. -/
def Obligations.NoRunStops : Prop :=
  ∀ (k : Nat) (s : State), SafeRun k s

/-- Where both parts are in reset and no command that waits is DIE_RESET_RELEASE, DISTRIBUTOR_RESET_RELEASE or THERMAL_RECOVERY, every step answers a state of which the same holds: an invariant of every step. -/
def Obligations.HeldBlockStaysHeld : Prop :=
  ∀ s t : State, BothHeld s → (∀ c ∈ s.pending, (∀ lvl oe port, c ≠ .dieResetRelease lvl oe port) ∧ (∀ b a, c ≠ .distributorResetRelease b a) ∧ (∀ tj, c ≠ .thermalRecovery tj)) →
    step s = .next t → BothHeld t ∧
      (∀ c ∈ t.pending, (∀ lvl oe port, c ≠ .dieResetRelease lvl oe port) ∧ (∀ b a, c ≠ .distributorResetRelease b a) ∧ (∀ tj, c ≠ .thermalRecovery tj))

/-- For any two fields of the register map of one part, any elements within their counts and any words within their widths: a bit that belongs to both makes them the same field, the same element and the same word. A write of one therefore changes no other. -/
def Obligations.RegisterFieldsDoNotOverlap : Prop :=
  ∀ (p : Part) (f g : Fld), f ∈ fieldsOf p → g ∈ fieldsOf p → ∀ i w j u b : Nat,
    i < f.count → w < f.words → j < g.count → u < g.words →
    f.key i w ≤ b → b < f.key i w + f.width → g.key j u ≤ b → b < g.key j u + g.width →
      f = g ∧ i = j ∧ w = u

/-- While the lock of a part is set, a register write leaves each field of access RWL at the offset with its value, whatever it carries; while the error log has room it gains exactly one entry of code 1 with the offset as argument when the write would change such a field, and none otherwise. -/
def Obligations.LockedFieldsKeepTheirValues : Prop :=
  ∀ (p : Part) (off v : Nat) (rot own : Bool) (s : State), s.locked p = true →
    (∀ x ∈ fieldsAt p off, x.1.acc = .rwl ∨ x.1.acc = .rwlRot →
      (s.regWrite p off v rot own).rd x.1 x.2.1 x.2.2 = s.rd x.1 x.2.1 x.2.2) ∧
    ((s.node p).errlog.length < 64 →
      ((s.regWrite p off v rot own).node p).errlog = (s.node p).errlog ++
        if ∃ x ∈ fieldsAt p off, (x.1.acc = .rwl ∨ (x.1.acc = .rwlRot ∧ rot = true)) ∧
            s.rd x.1 x.2.1 x.2.2 ≠ bits v x.1.lo x.1.width
        then [⟨1, noPort, off % 2 ^ 32, (s.exported p).lfn⟩] else [])

/-- For a 32-bit count t and a current LFN C, the extended count is the LFN L with L = t mod 2^32 and -2^31 <= L - C < 2^31, whenever there is one; and from C = 2^31 on it is C plus the sign-extended difference (t - C mod 2^32) mod 2^32. -/
def Obligations.TruncatedCountsExtend : Prop :=
  (∀ t C L : Nat, t < 2 ^ 32 → L % 2 ^ 32 = t → -2 ^ 31 ≤ (L : Int) - C → (L : Int) - C < 2 ^ 31 → extend32 t C = L) ∧
  (∀ t C : Nat, t < 2 ^ 32 → 2 ^ 31 ≤ C →
    (extend32 t C : Int) = C + toSigned 32 (((t : Int) - (C % 2 ^ 32 : Nat)) % 2 ^ 32).toNat)

/-- Index and generation come back from a handle made of them, a handle of a generation from 1 on is never 0, and the generation after g is g + 1, or 1 after 16,383, so that a generation from 1 to 16,383 is followed by another. -/
def Obligations.HandlesAndGenerations : Prop :=
  ∀ g i : Nat, 1 ≤ g → g ≤ 16383 → i < 2 ^ 18 →
    hIndex (mkHandle g i) = i ∧ hGen (mkHandle g i) = g ∧ mkHandle g i < 2 ^ 32 ∧ mkHandle g i ≠ 0 ∧
      1 ≤ nextGen g ∧ nextGen g ≤ 16383 ∧ nextGen g = if g = 16383 then 1 else g + 1

/-- A write at a running distributor into a template that a port names and that has an entry of a share of a partition with a bound plan, or into a valid share entry of such a partition that a template in use has an entry for, is discarded and records an error-log entry with code 0x20 and the template, or the share from 0x10000 on: the answer is the state with that entry, in which every field of the slot maps and shares is as before. -/
def Obligations.LockedTemplatesKeepTheirEntries : Prop :=
  (∀ (off t : Nat) (v : Word) (s : State), Runs s .dbx → 0x40000 ≤ off → off < 0x48000 → t = (off - 0x40000) / 0x200 →
      (∃ j < 132, s.rd (F.portCtrlTxTmpl .dbx) j = t ∨ s.rd (F.portCtrlRxTmpl .dbx) j = t) →
      (∃ q ∈ s.tmplPartitions t, ∃ x ∈ s.d.plans, s.rd F.condPartPartition x.2.slot = q) →
      exec (.templateWrite .dbx off v) s = .next (s.logErr .dbx 0x0020 noPort t) ∧
      (∀ f ∈ fieldsOf .dbx, 0x40000 ≤ f.base → f.base < 0x4C000 → ∀ i w : Nat, i < f.count → w < f.words → (s.logErr .dbx 0x0020 noPort t).rd f i w = s.rd f i w)) ∧
  (∀ (off k : Nat) (v : Word) (s : State), Runs s .dbx → 0x48000 ≤ off → off < 0x4C000 → k = (off - 0x48000) / 8 →
      s.is F.shareValid k = true → (∃ x ∈ s.d.plans, s.rd F.condPartPartition x.2.slot = s.rd F.sharePartition k) →
      (∃ t < 64, (∃ j < 132, s.rd (F.portCtrlTxTmpl .dbx) j = t ∨ s.rd (F.portCtrlRxTmpl .dbx) j = t) ∧
        ∃ i < 144, entryClass (s.tmplEntry .dbx t i) ≠ 0 ∧ entryShare (s.tmplEntry .dbx t i) = k) →
      exec (.templateWrite .dbx off v) s = .next (s.logErr .dbx 0x0020 noPort (0x10000 + k)) ∧
      (∀ f ∈ fieldsOf .dbx, 0x40000 ≤ f.base → f.base < 0x4C000 → ∀ i w : Nat, i < f.count → w < f.words → (s.logErr .dbx 0x0020 noPort (0x10000 + k)).rd f i w = s.rd f i w))

/-- On a ring pair that runs, with nothing waiting to be written and a descriptor to fetch whose fence holds, a descriptor whose tag fails raises the consumed count and the sequence number, raises bad_tag, and completes with status 1 and a cookie of 0; nothing else of it takes effect. -/
def Obligations.BadTagsEndWithoutEffect : Prop :=
  ∀ (p : Part) (ring : Nat) (d : Desc) (s : State), Runs s p →
      s.ringRuns p ring = true →
      (s.ring p ring).waiting = [] →
      s.rd (F.ringSqHeadConsumed p) ring ≠ (s.ring p ring).sqTail →
      (bit d.flags 1 = true → (s.ring p ring).flight = []) →
      ((((s.wr (F.ringSqHeadConsumed p) (s.rd (F.ringSqHeadConsumed p) ring + 1) ring).wr64 (F.ringSeqLoSeq p) (F.ringSeqHiSeq p) (s.rd64 (F.ringSeqLoSeq p) (F.ringSeqHiSeq p) ring + 1) ring).fetchAhead p ring)).tagOk p ring (s.rd64 (F.ringSeqLoSeq p) (F.ringSeqHiSeq p) ring) d = false →
      exec (.descriptorFetch p ring d) s = .next ((((((((s.wr (F.ringSqHeadConsumed p) (s.rd (F.ringSqHeadConsumed p) ring + 1) ring).wr64 (F.ringSeqLoSeq p) (F.ringSeqHiSeq p) (s.rd64 (F.ringSeqLoSeq p) (F.ringSeqHiSeq p) ring + 1) ring).fetchAhead p ring)).modRing p ring fun t => { t with flight := t.flight ++ [({ seq := ((s.rd64 (F.ringSeqLoSeq p) (F.ringSeqHiSeq p) ring) + 2 ^ 64 * (s.ring p ring).bind), desc := { d with cookie := 0 }, committed := !(opConductor p d.opcode || policyInput p d), tenant := (s.ring p ring).tenant, kind := ((((s.wr (F.ringSqHeadConsumed p) (s.rd (F.ringSqHeadConsumed p) ring + 1) ring).wr64 (F.ringSeqLoSeq p) (F.ringSeqHiSeq p) (s.rd64 (F.ringSeqLoSeq p) (F.ringSeqHiSeq p) ring + 1) ring).fetchAhead p ring)).ringKind p ring, key := (s.ring p ring).key, slots := (s.ring p ring).slots, order := (((((s.wr (F.ringSqHeadConsumed p) (s.rd (F.ringSqHeadConsumed p) ring + 1) ring).wr64 (F.ringSeqLoSeq p) (F.ringSeqHiSeq p) (s.rd64 (F.ringSeqLoSeq p) (F.ringSeqHiSeq p) ring + 1) ring).fetchAhead p ring)).node p).starts } : InFlight)] }).modNode p fun x => { x with starts := x.starts + 1 }).bump (F.ringBadTagCount p) ring).finish p ring ((s.rd64 (F.ringSeqLoSeq p) (F.ringSeqHiSeq p) ring) + 2 ^ 64 * (s.ring p ring).bind) 1 0 0)

/-- With a valid grid of origin O and length F = 2^f_log2, a tick falls at an LFN exactly when it is at or after O and a whole number of frames from it; for an LFN at or after O the tick that opens its frame is a tick, not later than it, and less than F before it; before O there is none. -/
def Obligations.FrameTicksFollowTheGrid : Prop :=
  ∀ (s : State) (l : Nat), s.gridValid = true →
    (s.isTick l = true ↔ s.gridOrigin ≤ l ∧ (l - s.gridOrigin) % 2 ^ s.rd F.frameCfgFLog2 = 0) ∧
    (s.gridOrigin ≤ l → s.isTick (s.tickOf l) = true ∧ s.tickOf l ≤ l ∧ l < s.tickOf l + 2 ^ s.rd F.frameCfgFLog2) ∧
    (l < s.gridOrigin → s.isTick l = false)

/-- The n bytes of a number are n bytes below 256 of which byte i is bits 8i to 8i + 7, and reading them back from any offset at which they stand gives the number modulo 256^n. -/
def Obligations.BytesAreLittleEndian : Prop :=
  ∀ (n v : Nat) (pre post : List Byte),
    (toLe n v).length = n ∧ (∀ i < n, (toLe n v).getD i 0 = v / 256 ^ i % 256) ∧
      leNat (pre ++ toLe n v ++ post) pre.length n = v % 256 ^ n

/-- An entry into a log of fewer than 64 entries stands at its end with its code, its port, its argument of 32 bits and the exported LFN, and the log still holds at most 64; into a full log it is dropped, the log stays as it is, and the count of lost entries rises by one up to its greatest value. -/
def Obligations.ErrorLogHoldsSixtyFour : Prop :=
  ∀ (p : Part) (code port arg : Nat) (s : State),
    ((s.node p).errlog.length < 64 →
      ((s.logErr p code port arg).node p).errlog = (s.node p).errlog ++ [⟨code, port, arg % 2 ^ 32, (s.exported p).lfn⟩] ∧
        ((s.logErr p code port arg).node p).errlog.length ≤ 64) ∧
    (64 ≤ (s.node p).errlog.length →
      ((s.logErr p code port arg).node p).errlog = (s.node p).errlog ∧
        (s.logErr p code port arg).rd (F.errlogStatusLost p) =
          min (s.rd (F.errlogStatusLost p) + 1) (2 ^ (F.errlogStatusLost p).width - 1))

/-- At an LFN that is a multiple of 1,024 the marker gives every enabled repeater the full LFN and marks it, or, where it was counting and its low 8 bits disagree, clears region_valid, sets count_err and unmarks it; at any other LFN nothing changes. A first measurement of a repeater with an unbroken chain of parents stores half the round trip plus the parent's compensation; a later one, 1,024 link frames on, moves the compensation and the fine delay by at most one step toward it. Each shows whole periods, fine delay and depth, and judges the region's validity. -/
def Obligations.RegionRepeatersHoldTheCount : Prop :=
  (∀ (s : State), Runs s .tsu →
      s.tsu.lfn % 1024 = 0 →
      exec (.lfnMarker) s = .next ((List.range 64).foldl (fun s r =>
        if s.is F.regionCfgEnable r = false then s
        else if (s.region r).marked = true ∧ (s.region r).lfn % 256 ≠ s.tsu.lfn % 256 then s.regionError r
        else (s.modRegion r fun g => { g with lfn := s.tsu.lfn, marked := true }).regionJudge r) s)) ∧
  (∀ (s : State), Runs s .tsu →
      s.tsu.lfn % 1024 ≠ 0 →
      exec (.lfnMarker) s = .next (s)) ∧
  (∀ (region roundTrip depth : Nat) (s : State), Runs s .tsu →
      s.regionDepth 16 region = some depth →
      (s.region region).measured = false →
      ∃ comp fine : Nat, comp = roundTrip / 2 + s.parentComp region ∧ (comp % 4096 < 2048 → fine = comp % 4096) ∧ fine < 2048 ∧
        exec (.regionRemeasure region roundTrip) s = .next
        (((((s.draw.2.modRegion region fun g => { g with measured := true, comp := comp, fine := fine, measAt := s.tsu.lfn }).wr F.regionStatFineDelay
        fine region).wr F.regionStatWholeCycles (comp / 4096) region).wr F.regionStatDepth depth region).regionJudge region)) ∧
  (∀ (region roundTrip depth : Nat) (s : State), Runs s .tsu →
      s.regionDepth 16 region = some depth →
      (s.region region).measured = true →
      (s.region region).measAt + 1024 ≤ s.tsu.lfn →
      (s.region region).fine < 2048 →
      ∃ comp fine : Nat, comp = (if roundTrip / 2 + s.parentComp region < (s.region region).comp then (s.region region).comp - 1 else if (s.region region).comp < roundTrip / 2 + s.parentComp region then (s.region region).comp + 1 else (s.region region).comp) ∧
        fine ≤ (s.region region).fine + 1 ∧ (s.region region).fine ≤ fine + 1 ∧ fine < 2048 ∧ (comp % 4096 = (s.region region).fine → fine = comp % 4096) ∧
        exec (.regionRemeasure region roundTrip) s = .next
        (((((s.draw.2.modRegion region fun g => { g with measured := true, comp := comp, fine := fine, measAt := s.tsu.lfn }).wr F.regionStatFineDelay
        fine region).wr F.regionStatWholeCycles (comp / 4096) region).wr F.regionStatDepth depth region).regionJudge region))

/-- In the link frame before LFN ≡ 16 (mod 1,024) the time master of the root forms, holds and sends the page whose apply LFN is the next multiple of 1,024, with its civil time run forward to it, or with what CIVIL_SET has given. A received page is held for the count that its apply field names next, and a distributor passes it on. At its apply LFN a tracking page becomes the civil time, with the event where it changes it; one of state unset leaves a node that tracks free-running on its own values; a free-running one gives its values without an event (log 139). 4,096 link frames without a page make a tracking node free-running. CIVIL_SET with an increment in range, and an initial value only against unset civil time, is kept for the next broadcast and completes with its apply LFN; another completes with CIVIL_RANGE or CIVIL_ALREADY. -/
def Obligations.CivilTimeIsBroadcastAndApplied : Prop :=
  (∀ (s : State), Runs s .dbx →
      s.isRoot = true →
      s.is F.selStatusMaster = true →
      (s.dbx.lfn + 1) % 1024 = 16 →
      s.d.civNext = none →
      ∃ pg : CivilPage, pg.apply = ((s.dbx.lfn + 1) / 1024 + 1) * 1024 ∧ pg.sec * 2 ^ 64 + pg.frac = s.dbx.civSec * 2 ^ 64 + s.dbx.civFrac + s.dbx.civInc * (pg.apply - s.dbx.lfn) ∧
        pg.inc = s.dbx.civInc ∧ pg.civilState = s.rd (F.timeStatusCivilState .dbx) ∧
        exec .civilBroadcast s = .next ((((s.modNode .dbx fun n => { n with civHold := some pg, civLast := n.lfn }).modD fun d =>
          { d with civNext := none }).duePage 1).emit .dbx (.civilPage pg.apply pg.sec pg.frac pg.inc pg.civilState))) ∧
  (∀ (inc : Nat) (s : State), Runs s .dbx →
      s.isRoot = true →
      s.is F.selStatusMaster = true →
      (s.dbx.lfn + 1) % 1024 = 16 →
      s.d.civNext = some (inc, none) →
      ∃ pg : CivilPage, pg.apply = ((s.dbx.lfn + 1) / 1024 + 1) * 1024 ∧ pg.sec * 2 ^ 64 + pg.frac = s.dbx.civSec * 2 ^ 64 + s.dbx.civFrac + s.dbx.civInc * (pg.apply - s.dbx.lfn) ∧
        pg.inc = inc ∧ pg.civilState = s.rd (F.timeStatusCivilState .dbx) ∧
        exec .civilBroadcast s = .next ((((s.modNode .dbx fun n => { n with civHold := some pg, civLast := n.lfn }).modD fun d =>
          { d with civNext := none }).duePage 1).emit .dbx (.civilPage pg.apply pg.sec pg.frac pg.inc pg.civilState))) ∧
  (∀ (inc sec frac : Nat) (s : State), Runs s .dbx →
      s.isRoot = true →
      s.is F.selStatusMaster = true →
      (s.dbx.lfn + 1) % 1024 = 16 →
      s.d.civNext = some (inc, some (sec, frac)) →
      ∃ pg : CivilPage, pg.apply = ((s.dbx.lfn + 1) / 1024 + 1) * 1024 ∧ pg.sec = sec ∧ pg.frac = frac ∧ pg.inc = inc ∧ pg.civilState = 1 ∧
        exec .civilBroadcast s = .next ((((s.modNode .dbx fun n => { n with civHold := some pg, civLast := n.lfn }).modD fun d =>
          { d with civNext := none }).duePage 1).emit .dbx (.civilPage pg.apply pg.sec pg.frac pg.inc pg.civilState))) ∧
  (∀ (apply sec frac inc civilState : Nat) (s : State), Runs s .tsu →
      exec (.civilPageReceived .tsu apply sec frac inc civilState) s = .next (s.modNode .tsu fun n => { n with civHold := some ⟨civilApplyAt (s.lfn .tsu) apply, sec, frac, inc, civilState⟩, civLast := n.lfn })) ∧
  (∀ (apply sec frac inc civilState : Nat) (s : State), Runs s .dbx →
      exec (.civilPageReceived .dbx apply sec frac inc civilState) s = .next ((((s.modNode .dbx fun n => { n with civHold := some ⟨civilApplyAt (s.lfn .dbx) apply, sec, frac, inc, civilState⟩, civLast := n.lfn }).modD fun d => { d with civNext := d.civNext.filter fun x => x.1 != inc }).duePage 1).emit .dbx
        (.civilPage (civilApplyAt (s.lfn .dbx) apply) sec frac inc civilState))) ∧
  (∀ (lfn field : Nat) (s : State), lfn < civilApplyAt lfn field ∧ civilApplyAt lfn field ≤ lfn + 2 ^ 18 ∧ civilApplyAt lfn field % 1024 = 0 ∧ civilApplyAt lfn field / 1024 % 256 = field % 256) ∧
  (∀ (p : Part) (pg : CivilPage) (s : State), Runs s p →
      (s.node p).civHold = some pg →
      pg.apply = (s.node p).lfn →
      pg.civilState = 1 →
      (s.node p).civSec = pg.sec →
      (s.node p).civFrac = pg.frac →
      exec (.civilApply p) s = .next (((s.modNode p fun n => { n with civHold := none }).takeCivil p pg).wr (F.timeStatusCivilState p) 1)) ∧
  (∀ (p : Part) (pg : CivilPage) (s : State), Runs s p →
      (s.node p).civHold = some pg →
      pg.apply = (s.node p).lfn →
      pg.civilState = 1 →
      (s.node p).civSec ≠ pg.sec ∨ (s.node p).civFrac ≠ pg.frac →
      exec (.civilApply p) s = .next ((((((s.modNode p fun n => { n with civHold := none }).takeCivil p pg).wr (F.timeStatusCivilState p) 1).wr (F.timeStatusCivilStepEvt p) 1).interrupt p 2).emit p (.event 0x45 [(s.node p).civSec, (s.node p).civFrac, pg.sec, pg.frac]))) ∧
  (∀ (p : Part) (pg : CivilPage) (s : State), Runs s p →
      (s.node p).civHold = some pg →
      pg.apply = (s.node p).lfn →
      pg.civilState = 0 →
      s.rd (F.timeStatusCivilState p) = 1 →
      exec (.civilApply p) s = .next ((s.modNode p fun n => { n with civHold := none }).wr (F.timeStatusCivilState p) 2)) ∧
  (∀ (p : Part) (pg : CivilPage) (s : State), Runs s p →
      (s.node p).civHold = some pg →
      pg.apply = (s.node p).lfn →
      pg.civilState = 0 →
      s.rd (F.timeStatusCivilState p) ≠ 1 →
      exec (.civilApply p) s = .next ((s.modNode p fun n => { n with civHold := none }))) ∧
  (∀ (p : Part) (pg : CivilPage) (s : State), Runs s p →
      (s.node p).civHold = some pg →
      pg.apply = (s.node p).lfn →
      2 ≤ pg.civilState →
      exec (.civilApply p) s = .next (((s.modNode p fun n => { n with civHold := none }).takeCivil p pg).wr (F.timeStatusCivilState p) 2)) ∧
  (∀ (p : Part) (pg : CivilPage) (s : State), ((s.takeCivil p pg).node p).civSec = pg.sec ∧ ((s.takeCivil p pg).node p).civFrac = pg.frac ∧ ((s.takeCivil p pg).node p).civInc = pg.inc) ∧
  (∀ (p : Part) (s : State), Runs s p →
      s.rd (F.timeStatusCivilState p) = 1 →
      (s.node p).civLast + 4096 ≤ s.lfn p →
      exec (.civilTimeout p) s = .next (s.wr (F.timeStatusCivilState p) 2)) ∧
  (∀ (ring seq : Nat) (f : InFlight) (s : State), Runs s .dbx →
      Asked s .dbx ring seq 0x32 f →
      civilNominal ≤ leNat f.desc.ext 0 8 + civilRange →
      leNat f.desc.ext 0 8 ≤ civilNominal + civilRange →
      bit (opnd f.desc 40 1) 0 = false →
      exec (.civilSet ring seq) s = .next (((s.begin_ .dbx ring seq).modD fun t => { t with civNext := some (leNat f.desc.ext 0 8, s.d.civNext.bind (·.2)) }).finish .dbx ring seq 0 (civilApplyLfn ((s.dbx.lfn + 1007) / 1024 * 1024 + 16)) 0)) ∧
  (∀ (ring seq : Nat) (f : InFlight) (s : State), Runs s .dbx →
      Asked s .dbx ring seq 0x32 f →
      civilNominal ≤ leNat f.desc.ext 0 8 + civilRange →
      leNat f.desc.ext 0 8 ≤ civilNominal + civilRange →
      bit (opnd f.desc 40 1) 0 = true →
      s.rd (F.timeStatusCivilState .dbx) = 0 →
      exec (.civilSet ring seq) s = .next (((s.begin_ .dbx ring seq).modD fun t => { t with civNext := some (leNat f.desc.ext 0 8, some (leNat f.desc.ext 8 8, leNat f.desc.ext 16 8)) }).finish .dbx ring seq 0 (civilApplyLfn ((s.dbx.lfn + 1007) / 1024 * 1024 + 16)) 0)) ∧
  (∀ (ring seq : Nat) (f : InFlight) (s : State), Runs s .dbx →
      Asked s .dbx ring seq 0x32 f →
      civilNominal ≤ leNat f.desc.ext 0 8 + civilRange →
      leNat f.desc.ext 0 8 ≤ civilNominal + civilRange →
      bit (opnd f.desc 40 1) 0 = true →
      s.rd (F.timeStatusCivilState .dbx) ≠ 0 →
      exec (.civilSet ring seq) s = .next ((s.begin_ .dbx ring seq).finish .dbx ring seq 0x22 0 0)) ∧
  (∀ (ring seq : Nat) (f : InFlight) (s : State), Runs s .dbx →
      Asked s .dbx ring seq 0x32 f →
      leNat f.desc.ext 0 8 + civilRange < civilNominal ∨ civilNominal + civilRange < leNat f.desc.ext 0 8 →
      exec (.civilSet ring seq) s = .next ((s.begin_ .dbx ring seq).finish .dbx ring seq 0x21 0 0))

/-- A write of _TDC_CTRL stores the fields; with start and no set running it sets busy and opens a set of n_m1 + 1 attempts in mode 0, or in modes 1 to 4 on a port that does not supply the time; a mode that measures the time port, one from 5 up, and modes 3 and 4 on a TSU are refused. A stop edge within the timeout adds its interval as a sample, a later one and an attempt whose timeout has expired count as missed, while attempts are left. A complete set shows its count, timeouts, mean, deviation, least and greatest value and no_data, clears busy and sets done, and in mode 0 shows offset and round trip. A self-test, once in 2^20 link frames, clears tdc_fault where each tap lies within 4 units of its expected mean, and sets it and logs each tap that does not. -/
def Obligations.MeasurementSetsRun : Prop :=
  (∀ (p : Part) (v : Word) (s : State), Runs s p →
      bit v.toNat 31 = true →
      (((s.wr (F.tdcCtrlPort p) (bits v.toNat 0 8)).wr (F.tdcCtrlMode p) (bits v.toNat 8 3)).wr (F.tdcCtrlNM1 p) (bits v.toNat 12 16)).is (F.tdcStatusBusy p) = false →
      bits v.toNat 8 3 = 0 →
      exec (.tdcStart p v) s = .next ((let t := ((s.wr (F.tdcCtrlPort p) (bits v.toNat 0 8)).wr (F.tdcCtrlMode p) (bits v.toNat 8 3)).wr (F.tdcCtrlNM1 p) (bits v.toNat 12 16)
        (t.wr (F.tdcStatusBusy p) 1).modNode p fun n => { n with tdc := some ⟨bits v.toNat 0 8, bits v.toNat 8 3, bits v.toNat 12 16 + 1, {}, ⟨n.lfn, n.sub⟩⟩ }))) ∧
  (∀ (p : Part) (v : Word) (s : State), Runs s p →
      bit v.toNat 31 = true →
      (((s.wr (F.tdcCtrlPort p) (bits v.toNat 0 8)).wr (F.tdcCtrlMode p) (bits v.toNat 8 3)).wr (F.tdcCtrlNM1 p) (bits v.toNat 12 16)).is (F.tdcStatusBusy p) = false →
      1 ≤ bits v.toNat 8 3 →
      bits v.toNat 8 3 ≤ 4 →
      (p = .tsu → bits v.toNat 8 3 ≤ 2) →
      (((s.wr (F.tdcCtrlPort p) (bits v.toNat 0 8)).wr (F.tdcCtrlMode p) (bits v.toNat 8 3)).wr (F.tdcCtrlNM1 p) (bits v.toNat 12 16)).suppliesTime p (bits v.toNat 0 8) = false →
      exec (.tdcStart p v) s = .next ((let t := ((s.wr (F.tdcCtrlPort p) (bits v.toNat 0 8)).wr (F.tdcCtrlMode p) (bits v.toNat 8 3)).wr (F.tdcCtrlNM1 p) (bits v.toNat 12 16)
        (t.wr (F.tdcStatusBusy p) 1).modNode p fun n => { n with tdc := some ⟨bits v.toNat 0 8, bits v.toNat 8 3, bits v.toNat 12 16 + 1, {}, ⟨n.lfn, n.sub⟩⟩ }))) ∧
  (∀ (p : Part) (v : Word) (s : State), Runs s p →
      bit v.toNat 31 = true →
      (((s.wr (F.tdcCtrlPort p) (bits v.toNat 0 8)).wr (F.tdcCtrlMode p) (bits v.toNat 8 3)).wr (F.tdcCtrlNM1 p) (bits v.toNat 12 16)).is (F.tdcStatusBusy p) = false →
      5 ≤ bits v.toNat 8 3 ∨ (p = .tsu ∧ 3 ≤ bits v.toNat 8 3) ∨ (1 ≤ bits v.toNat 8 3 ∧ bits v.toNat 8 3 ≤ 4 ∧ (((s.wr (F.tdcCtrlPort p) (bits v.toNat 0 8)).wr (F.tdcCtrlMode p) (bits v.toNat 8 3)).wr (F.tdcCtrlNM1 p) (bits v.toNat 12 16)).suppliesTime p (bits v.toNat 0 8) = true) →
      exec (.tdcStart p v) s = .next ((((s.wr (F.tdcCtrlPort p) (bits v.toNat 0 8)).wr (F.tdcCtrlMode p) (bits v.toNat 8 3)).wr (F.tdcCtrlNM1 p) (bits v.toNat 12 16)).wr (F.tdcStatusRefused p) 1)) ∧
  (∀ (p : Part) (v : Word) (s : State), Runs s p →
      bit v.toNat 31 = false ∨ (((s.wr (F.tdcCtrlPort p) (bits v.toNat 0 8)).wr (F.tdcCtrlMode p) (bits v.toNat 8 3)).wr (F.tdcCtrlNM1 p) (bits v.toNat 12 16)).is (F.tdcStatusBusy p) = true →
      exec (.tdcStart p v) s = .next (((s.wr (F.tdcCtrlPort p) (bits v.toNat 0 8)).wr (F.tdcCtrlMode p) (bits v.toNat 8 3)).wr (F.tdcCtrlNM1 p) (bits v.toNat 12 16))) ∧
  (∀ (p : Part) (t : TdcSet) (s : State), Runs s p →
      (s.node p).tdc = some t →
      t.acc.tried < t.req →
      mtBefore (s.now p) (mtAdd t.since (s.tdcTimeout p)) = false →
      exec (.tdcAttemptTimeout p) s = .next (s.modNode p fun n => { n with tdc := some { t with acc := t.acc.miss, since := ⟨n.lfn, n.sub⟩ } })) ∧
  (∀ (p : Part) (interval : Nat) (t : TdcSet) (s : State), Runs s p →
      (s.node p).tdc = some t →
      t.acc.tried < t.req →
      s.tdcEdges p t = true →
      interval ≤ 16 * s.tdcTimeout p →
      exec (.tdcStopEdge p interval) s = .next (s.modNode p fun n => { n with tdc := some { t with acc := t.acc.sample interval, since := ⟨n.lfn, n.sub⟩ } })) ∧
  (∀ (p : Part) (interval : Nat) (t : TdcSet) (s : State), Runs s p →
      (s.node p).tdc = some t →
      t.acc.tried < t.req →
      s.tdcEdges p t = true →
      16 * s.tdcTimeout p < interval →
      exec (.tdcStopEdge p interval) s = .next (s.modNode p fun n => { n with tdc := some { t with acc := t.acc.miss, since := ⟨n.lfn, n.sub⟩ } })) ∧
  (∀ (p : Part) (t : TdcSet) (s : State), Runs s p →
      (s.node p).tdc = some t →
      t.acc.tried = t.req →
      t.mode ≠ 0 ∨ t.acc.n = 0 →
      exec (.measurementSetComplete p) s = .next ((((((((((s.modNode p fun n => { n with tdc := none }).wr (F.tdcCountCount p) t.acc.n).wr (F.tdcTimeoutsTimeouts p) t.acc.tmo).wrI (F.tdcMeanValue p)
          t.acc.mean).wr (F.tdcSdValue p) t.acc.sd).wrI (F.tdcMinValue p) t.acc.lo).wrI (F.tdcMaxValue p) t.acc.hi).wr (F.tdcStatusNoData p) (b2n (t.acc.n == 0))).wr (F.tdcStatusBusy p) 0).wr (F.tdcStatusDone p) 1)) ∧
  (∀ (p : Part) (t : TdcSet) (s : State), Runs s p →
      (s.node p).tdc = some t →
      t.acc.tried = t.req →
      t.mode = 0 →
      0 < t.acc.n →
      exec (.measurementSetComplete p) s = .next ((((((((((((((s.modNode p fun n => { n with tdc := none }).wr (F.tdcCountCount p) t.acc.n).wr (F.tdcTimeoutsTimeouts p) t.acc.tmo).wrI (F.tdcMeanValue p)
          t.acc.mean).wr (F.tdcSdValue p) t.acc.sd).wrI (F.tdcMinValue p) t.acc.lo).wrI (F.tdcMaxValue p) t.acc.hi).wr (F.tdcStatusNoData p) (b2n (t.acc.n == 0))).wrI (F.portOffsetTheta p) t.acc.mean t.port).wrI (F.portRttRtt p) t.acc.meanRtt t.port).wr
        (F.portTstatSetValid p) 1 t.port).wr (F.tdcStatusBusy p) 0).wr (F.tdcStatusDone p) 1))) ∧
  (∀ (p : Part) (port : Nat) (a1 a2 a3 : List (Option Nat)) (s : State), Runs s p →
      (s.port p port).selfDue ≤ s.lfn p →
      tapBad p port 1 a1 = false →
      tapBad p port 2 a2 = false →
      tapBad p port 3 a3 = false →
      exec (.tdcSelfTest p port a1 a2 a3) s = .next (((s.modPort p port fun t => { t with selfDue := s.lfn p + 2 ^ 20 }).wr (F.portTstatTdcFault p) 0 port).score p (some port))) ∧
  (∀ (p : Part) (port : Nat) (a1 a2 a3 : List (Option Nat)) (s : State), Runs s p →
      (s.port p port).selfDue ≤ s.lfn p →
      tapBad p port 1 a1 = true →
      tapBad p port 2 a2 = true →
      tapBad p port 3 a3 = true →
      exec (.tdcSelfTest p port a1 a2 a3) s = .next ((((((s.modPort p port fun t => { t with selfDue := s.lfn p + 2 ^ 20 }).wr (F.portTstatTdcFault p) 1 port).logErr p 0x11 port 1).logErr p 0x11 port 2).logErr p 0x11 port 3).score p (some port)))

/-- A close page at a downlink of a distributor stores the far end's θ, cable record and flags, shows the θ of this member's side and compares the cable records; over the pair link it stores them, at the parent end shows the child's θ, compares the records and lets the lower of two masters yield; on another port, and at a TSU, it brings the cable record alone. A write of DBX_CLOSE_CTRL with run, and the run due every 2^20 link frames while periodic is set, compute every valid loop's closure, the median, the flagged loops and X0's verdict; without run only periodic changes. -/
def Obligations.LoopClosureJudgesCables : Prop :=
  (∀ (port p0 p1 p2 p3 : Nat) (s : State), Runs s .dbx →
      port < 128 →
      exec (.closePageReceived .dbx port p0 p1 p2 p3) s = .next (((s.takeClosePage .dbx port p0 p1 p2 p3).wr (F.portOffsetTheta .dbx) (if (s.takeClosePage .dbx port p0 p1 p2 p3).sideB = true then p1 else p0) port).checkCable .dbx port)) ∧
  (∀ (port p0 p1 p2 p3 : Nat) (s : State), Runs s .dbx →
      port = 130 ∨ (port = 131 ∧ s.is F.x1CfgActive = true) →
      exec (.closePageReceived .dbx port p0 p1 p2 p3) s = .next (((if (s.takeClosePage .dbx port p0 p1 p2 p3).childEnd .dbx port = true then (s.takeClosePage .dbx port p0 p1 p2 p3) else (s.takeClosePage .dbx port p0 p1 p2 p3).wr (F.portOffsetTheta .dbx) p0 port).checkCable .dbx port).masterYield)) ∧
  (∀ (port p0 p1 p2 p3 : Nat) (s : State), Runs s .dbx →
      128 ≤ port →
      port ≠ 130 →
      (port = 131 → s.is F.x1CfgActive = false) →
      exec (.closePageReceived .dbx port p0 p1 p2 p3) s = .next ((s.modPort .dbx port fun t => { t with cCable := toSigned 16 p2, cAt := some s.dbx.lfn }).checkCable .dbx port)) ∧
  (∀ (port p0 p1 p2 p3 : Nat) (s : State), Runs s .tsu →
      exec (.closePageReceived .tsu port p0 p1 p2 p3) s = .next ((s.modPort .tsu port fun t => { t with cCable := toSigned 16 p2, cAt := some s.tsu.lfn }).checkCable .tsu port)) ∧
  (∀ (v : Word) (s : State), Runs s .dbx →
      bit v.toNat 0 = true →
      exec (.closureRun v) s = .next ((s.wr F.closeCtrlPeriodic (bits v.toNat 1 1)).closure)) ∧
  (∀ (v : Word) (s : State), Runs s .dbx →
      bit v.toNat 0 = false →
      exec (.closureRun v) s = .next (s.wr F.closeCtrlPeriodic (bits v.toNat 1 1))) ∧
  (∀ (s : State), Runs s .dbx →
      s.is F.closeCtrlPeriodic = true →
      s.d.closeDue ≤ s.dbx.lfn →
      exec (.closurePeriodic) s = .next (s.closure.modD fun d => { d with closeDue := s.dbx.lfn + 2 ^ 20 }))

/-- At a root member: LOS of an enabled REF input enters LOS; its lock returns it to QUALIFYING with an empty run; 10 s there make it UNQUALIFIED; a second consecutive information PDU of one acceptable code with an acceptable offset qualifies it, and any other PDU only gives its code and offset; a PDU with a worse code or offset unqualifies a QUALIFIED input, one that does not lets the tree code follow; 5 s without a PDU set esmc_tmo; they, and an offset beyond ±9.2 ppm, unqualify a QUALIFIED input; the OCXO input qualifies on its edges and enters LOS without them; the loop of the selected input freezes its frequency on a lost-lock indication. Each change of QUALIFIED moves the selector. -/
def Obligations.ReferenceInputsChangeState : Prop :=
  (∀ (i : Nat) (delta : Int) (s : State), Runs s .dbx →
      s.isRoot = true →
      i < 2 →
      s.refEnabled i = true →
      s.refState i ≠ 0 →
      exec (.refLos i delta) s = .next (s.setRefState i 1 delta)) ∧
  (∀ (i : Nat) (s : State), Runs s .dbx →
      s.isRoot = true →
      i < 2 →
      s.refState i = 1 →
      exec (.refBlockLockReturn i) s = .next ((s.wr F.refStatState 2 i).modD fun d => { d with refs := fset d.refs i { qualAt := s.dbx.lfn, lastPdu := s.dbx.lfn } })) ∧
  (∀ (i ssm : Nat) (event : Bool) (freqOff delta : Int) (s : State), Runs s .dbx →
      s.isRoot = true →
      i < 2 →
      s.refState i = 2 ∨ s.refState i = 4 →
      (s.takePdu i event ssm freqOff).pduQualifies i ssm freqOff = true →
      exec (.esmcPdu i event ssm freqOff delta) s = .next ((s.takePdu i event ssm freqOff).setRefState i 3 delta)) ∧
  (∀ (i ssm : Nat) (event : Bool) (freqOff delta : Int) (s : State), Runs s .dbx →
      s.isRoot = true →
      i < 2 →
      s.refState i = 2 ∨ s.refState i = 4 →
      (s.takePdu i event ssm freqOff).pduQualifies i ssm freqOff = false →
      exec (.esmcPdu i event ssm freqOff delta) s = .next ((s.takePdu i event ssm freqOff))) ∧
  (∀ (i ssm : Nat) (event : Bool) (freqOff delta : Int) (s : State), Runs s .dbx →
      s.isRoot = true →
      i < 2 →
      s.refState i = 3 →
      treeOfSsm (ssm % 16) = 0 ∨ treeOfSsm (s.rd F.refStatSsm i) < treeOfSsm (ssm % 16) ∨ freqOk freqOff = false →
      exec (.esmcPdu i event ssm freqOff delta) s = .next ((s.takePdu i event ssm freqOff).setRefState i 4 delta)) ∧
  (∀ (i ssm : Nat) (event : Bool) (freqOff delta : Int) (s : State), Runs s .dbx →
      s.isRoot = true →
      i < 2 →
      s.refState i = 3 →
      1 ≤ treeOfSsm (ssm % 16) →
      treeOfSsm (ssm % 16) ≤ treeOfSsm (s.rd F.refStatSsm i) →
      freqOk freqOff = true →
      exec (.esmcPdu i event ssm freqOff delta) s = .next ((s.takePdu i event ssm freqOff).showQl)) ∧
  (∀ (i ssm : Nat) (freqOff : Int) (r : RefIn) (s : State), r = fgetD s.d.refs i {} →
      r.infoSsm = ssm % 16 →
      1 ≤ r.run →
      1 ≤ treeOfSsm (ssm % 16) →
      treeOfSsm (ssm % 16) ≤ (s.takePdu i false ssm freqOff).qlMin i →
      i < 2 →
      freqOk freqOff = true →
      (s.takePdu i false ssm freqOff).pduQualifies i ssm freqOff = true) ∧
  (∀ (i : Nat) (s : State), Runs s .dbx →
      s.isRoot = true →
      i < 2 →
      s.refState i = 2 →
      (fgetD s.d.refs i {}).qualAt + lfOfS 10 ≤ s.dbx.lfn →
      exec (.qualifyTimeout i) s = .next (s.wr F.refStatState 4 i)) ∧
  (∀ (i : Nat) (delta : Int) (s : State), Runs s .dbx →
      s.isRoot = true →
      i < 2 →
      s.refState i = 2 ∨ s.refState i = 4 →
      (fgetD s.d.refs i {}).lastPdu + lfOfS 5 ≤ s.dbx.lfn →
      exec (.esmcTimeout i delta) s = .next (s.wr F.refStatEsmcTmo 1 i)) ∧
  (∀ (i : Nat) (delta : Int) (s : State), Runs s .dbx →
      s.isRoot = true →
      i < 2 →
      s.refState i = 3 →
      (fgetD s.d.refs i {}).lastPdu + lfOfS 5 ≤ s.dbx.lfn →
      exec (.esmcTimeout i delta) s = .next ((s.wr F.refStatEsmcTmo 1 i).setRefState i 4 delta)) ∧
  (∀ (freqOff delta : Int) (s : State), Runs s .dbx →
      s.isRoot = true →
      s.refEnabled 2 = true →
      s.refState 2 ≠ 3 →
      freqOff.natAbs ≤ 9200 →
      exec (.ocxoQualify freqOff delta) s = .next (((s.wrI F.refStatFreqOff freqOff 2).wr F.refStatFreqErr 0 2).setRefState 2 3 delta)) ∧
  (∀ (delta : Int) (s : State), Runs s .dbx →
      s.isRoot = true →
      s.refEnabled 2 = true →
      s.refState 2 ≠ 0 →
      exec (.ocxoLos delta) s = .next (s.setRefState 2 1 delta)) ∧
  (∀ (i : Nat) (freqOff delta : Int) (s : State), Runs s .dbx →
      s.isRoot = true →
      i < 3 →
      s.refState i = 3 →
      9200 < freqOff.natAbs →
      exec (.frequencyError i freqOff delta) s = .next (((s.wrI F.refStatFreqOff freqOff i).wr F.refStatFreqErr 1 i).setRefState i 4 delta)) ∧
  (∀ (i : Nat) (s : State), Runs s .dbx →
      s.isRoot = true →
      s.rd F.selStatusSelState = 1 →
      s.rd F.selStatusSelected = i →
      exec (.lostLockIndication i) s = .next (s.modD fun d => { d with frozenHz := true }))

/-- The first receipt of a step notice before its end schedules the ramp, slews what of it has passed, sets ref_step and is a step event, whose inputs and cause the notice does not give (free values, log 140); 1,536 link frames after its start the ramp ends, ref_step clears, the echo sets that have begun are discarded, and a deferred step of the root begins. A change of the oven's warm state sets warm_evt. A follower that judges its master failed becomes master and valid on its own selected input with cause 3, or in HOLDOVER. -/
def Obligations.PhaseStepsArePlannedAndEnded : Prop :=
  (∀ (p : Part) (delta : Int) (l0 : Nat) (s : State), Runs s p →
      (s.node p).ramp = none →
      (s.node p).lfn < l0 + 1536 →
      exec (.stepNoticeReceived p delta l0) s = .next ((let t := (s.modNode p fun n => { n with ramp := some ⟨delta, l0, rampApplied ⟨delta, l0, 0⟩ (s.node p).lfn⟩, slew := n.slew + rampApplied ⟨delta, l0, 0⟩ (s.node p).lfn }).wr (F.timeStatusRefStep p) 1
        let a := t.draw
        let b := a.2.draw
        let c := b.2.draw
        c.2.stepEvent p delta l0 (a.1 % 4) (b.1 % 4) (c.1 % 4)))) ∧
  (∀ (p : Part) (delta : Int) (r : Ramp) (s : State), Runs s p →
      (s.node p).ramp = some r →
      r.l0 + 1536 ≤ s.lfn p →
      (p = .dbx → s.d.deferred = none) →
      exec (.refStepClear p delta) s = .next (((s.modNode p fun n => { n with ramp := none }).wr (F.timeStatusRefStep p) 0).discardSets p)) ∧
  (∀ (delta : Int) (r : Ramp) (a b c : Nat) (s : State), Runs s .dbx →
      s.dbx.ramp = some r →
      r.l0 + 1536 ≤ s.lfn .dbx →
      s.d.deferred = some (a, b, c) →
      exec (.refStepClear .dbx delta) s = .next ((((((s.modNode .dbx fun n => { n with ramp := none }).wr (F.timeStatusRefStep .dbx) 0).discardSets .dbx).modD fun d => { d with deferred := none }).wr F.selStatusStepPending 0).startStep delta a b c)) ∧
  (∀ (warm : Bool) (s : State), Runs s .dbx →
      s.isRoot = true →
      s.is F.selStatusOcxoWarm ≠ warm →
      exec (.ocxoWarmChange warm) s = .next ((((s.wr F.selStatusOcxoWarm (b2n warm)).wr F.selStatusWarmEvt 1).interrupt .dbx 2).showQl)) ∧
  (∀ (delta : Int) (s : State), Runs s .dbx →
      s.isRoot = true →
      s.is F.selStatusMaster = false →
      s.masterFailed = true →
      (((s.wr F.selStatusMaster 1).modNode .dbx fun n =>
        { n with fromHold := s.timeState .dbx == 3 || (s.timeState .dbx == 1 && s.dbx.fromHold) }).rootValid).rd F.selStatusSelState = 1 →
      exec (.masterFailureJudged delta) s = .next ((((s.wr F.selStatusMaster 1).modNode .dbx fun n =>
        { n with fromHold := s.timeState .dbx == 3 || (s.timeState .dbx == 1 && s.dbx.fromHold) }).rootValid).switchTo ((((s.wr F.selStatusMaster 1).modNode .dbx fun n =>
        { n with fromHold := s.timeState .dbx == 3 || (s.timeState .dbx == 1 && s.dbx.fromHold) }).rootValid).rd F.selStatusSelected) 3 3 delta)) ∧
  (∀ (delta : Int) (s : State), Runs s .dbx →
      s.isRoot = true →
      s.is F.selStatusMaster = false →
      s.masterFailed = true →
      (((s.wr F.selStatusMaster 1).modNode .dbx fun n =>
        { n with fromHold := s.timeState .dbx == 3 || (s.timeState .dbx == 1 && s.dbx.fromHold) }).rootValid).rd F.selStatusSelState ≠ 1 →
      exec (.masterFailureJudged delta) s = .next ((((s.wr F.selStatusMaster 1).modNode .dbx fun n =>
        { n with fromHold := s.timeState .dbx == 3 || (s.timeState .dbx == 1 && s.dbx.fromHold) }).rootValid).enterHoldover))

/-- An edge of a PPS input stores it as that input's anchor and clears anchor_stale of every output in mode 2 that follows it. Two periods after the last edge, or after the set-up where none has come, anchor_stale is set. An output edge that is due at a valid node is driven with its width and remembered, once for its count; REF10M_OUT has its edges alike. The periodic ESMC PDU leaves on both reference ports. -/
def Obligations.OutputsFollowTimeAndAnchors : Prop :=
  (∀ (i sub : Nat) (s : State), Runs s .dbx →
      s.isRoot = true →
      i < 2 →
      exec (.ppsInEdge i sub) s = .next ([0, 1, 2, 3, 4, 5].foldl (fun s k =>
        if s.rd F.outCfgMode k = 2 ∧ s.rd F.outCfgSrc k = i then s.wr F.outCfgAnchorStale 0 k else s)
        (s.modD fun d => { d with anchors := fset d.anchors i ⟨s.dbx.lfn, sub % 8192⟩ }))) ∧
  (∀ (k : Nat) (e : MTime) (s : State), Runs s .dbx →
      s.isRoot = true →
      k < 6 →
      s.rd F.outCfgMode k = 2 →
      e = (fget? s.d.anchors (s.rd F.outCfgSrc k)).getD (fgetD s.d.outCfgAt k ⟨0, 0⟩) →
      mtBefore (s.now .dbx) (mtAdd e (2 * s.outPeriod k)) = false →
      exec (.anchorStale k) s = .next (s.wr F.outCfgAnchorStale 1 k)) ∧
  (∀ (k sub : Nat) (s : State), Runs s .dbx →
      k < 6 →
      s.timeValid .dbx = true →
      s.is (F.bootStatusHalted .dbx) = false →
      s.edgeDue k ⟨s.dbx.lfn, sub % 8192⟩ = true →
      fget? s.d.outLast k ≠ some ⟨s.dbx.lfn, sub % 8192⟩ →
      exec (.outputEdge k sub) s = .next ((s.modD fun d => { d with outLast := fset d.outLast k ⟨s.dbx.lfn, sub % 8192⟩ }).emit .dbx (.pin (.output k) (max 1 (s.rd F.outCfgWidth k))))) ∧
  (∀ (sub : Nat) (s : State), Runs s .dbx →
      s.timeValid .dbx = true →
      s.is (F.bootStatusHalted .dbx) = false →
      s.edgeDue 6 ⟨s.dbx.lfn, sub % 8192⟩ = true →
      fget? s.d.outLast 6 ≠ some ⟨s.dbx.lfn, sub % 8192⟩ →
      exec (.outputEdge 6 sub) s = .next ((s.modD fun d => { d with outLast := fset d.outLast 6 ⟨s.dbx.lfn, sub % 8192⟩ }).emit .dbx (.pin .ref10m 1))) ∧
  (∀ (s : State), Runs s .dbx →
      s.isRoot = true →
      exec (.esmcTransmit) s = .next (s.sendEsmc false))

/-- A dynamic record other than the divergence record is merged into the coalescing table. A sample of a present module stores its bias currents and powers and judges them against its beginning-of-life values, or sets its nack bit where the module does not acknowledge; one of an absent module only takes the received powers. 2^30 link frames after a module became present and enabled, its present values become its beginning-of-life values. A write of the enables drives ELS_EN_N of all 8 modules, active low. An arriving module has its beginning-of-life values cleared; a leaving one is no longer present. A slot-map write takes effect with its reserved bits 0, unless its template or share is in use by a bound plan (a channel, at a TSU): it is discarded and logged with code 0x20. -/
def Obligations.OpticsAreSampledAndJudged : Prop :=
  (∀ (p : Part) (rec_ : DynRec) (s : State), Runs s p →
      (p = .dbx → rec_.type = 3 → rec_.code ≠ 3) →
      exec (.dynamicRecordReceived p rec_) s = .next (s.modNode p fun n => { n with dyn := dynMerge 256 n.dyn rec_ })) ∧
  (∀ (k b0 bias1 : Nat) (pwr0 pwr1 : Int) (rx : List (Nat × Int × Int)) (s : State), Runs s .dbx →
      k < 8 →
      (rx.foldl (fun s x => s.takeRx .dbx x.1 x.2.1 x.2.2) s).is F.elsStatPresent k = true →
      exec (.elsSample k (some b0) bias1 pwr0 pwr1 rx) s = .next ((let t := ((((rx.foldl (fun s x => s.takeRx .dbx x.1 x.2.1 x.2.2) s).wr F.elsBiasCh0 b0 k).wr F.elsBiasCh1 bias1 k).wrI F.elsPwrCh0 pwr0 k).wrI F.elsPwrCh1 pwr1 k
        t.elsJudge k (t.elsOver k b0 bias1 pwr0 pwr1 (t.rd F.elsLimitsBiasWarn) (t.rd F.elsLimitsPwrWarn))
          (t.elsOver k b0 bias1 pwr0 pwr1 (t.rd F.elsLimitsBiasAlarm) (t.rd F.elsLimitsPwrAlarm))))) ∧
  (∀ (k bias1 : Nat) (pwr0 pwr1 : Int) (rx : List (Nat × Int × Int)) (s : State), Runs s .dbx →
      k < 8 →
      (rx.foldl (fun s x => s.takeRx .dbx x.1 x.2.1 x.2.2) s).is F.elsStatPresent k = true →
      exec (.elsSample k none bias1 pwr0 pwr1 rx) s = .next ((let t := rx.foldl (fun s x => s.takeRx .dbx x.1 x.2.1 x.2.2) s
        t.wr F.elsBusNack (setBit (t.rd F.elsBusNack) k true)))) ∧
  (∀ (k bias1 : Nat) (b0 : Option Nat) (pwr0 pwr1 : Int) (rx : List (Nat × Int × Int)) (s : State), Runs s .dbx →
      (rx.foldl (fun s x => s.takeRx .dbx x.1 x.2.1 x.2.2) s).is F.elsStatPresent k = false →
      exec (.elsSample k b0 bias1 pwr0 pwr1 rx) s = .next (rx.foldl (fun s x => s.takeRx .dbx x.1 x.2.1 x.2.2) s)) ∧
  (∀ (k c : Nat) (s : State), Runs s .dbx →
      fget? s.d.elsSince k = some c →
      k < 8 →
      s.elsOn k = true →
      s.rd F.elsBolBiasCh0 k + s.rd F.elsBolBiasCh1 k + s.rd F.elsBolPwrCh0 k + s.rd F.elsBolPwrCh1 k = 0 →
      c + 2 ^ 30 ≤ s.dbx.lfn →
      exec (.bolCapture k) s = .next (((((s.wr F.elsBolBiasCh0 (s.rd F.elsBiasCh0 k) k).wr F.elsBolBiasCh1 (s.rd F.elsBiasCh1 k) k).wr F.elsBolPwrCh0 (s.rd F.elsPwrCh0 k) k).wr
        F.elsBolPwrCh1 (s.rd F.elsPwrCh1 k) k).wr F.elsStatBolSet 1 k)) ∧
  (∀ (v : Word) (s : State), Runs s .dbx →
      exec (.elsEnable v) s = .next ((List.range 8).foldl (fun t k =>
        (t.emit .dbx (.pin (.elsEnN k) (1 - bits v.toNat k 1))).elsSinceFollows k (((List.range 8).map fun k => s.elsOn k).getD k false))
        (s.regWrite .dbx 0xA0204 v.toNat false true))) ∧
  (∀ (k : Nat) (s : State), Runs s .dbx →
      k < 8 →
      s.is F.elsStatPresent k = false →
      exec (.elsPresenceChange k true) s = .next (((((((s.wr F.elsStatPresent 1 k).wr F.elsBolBiasCh0 0 k).wr F.elsBolBiasCh1 0 k).wr F.elsBolPwrCh0 0 k).wr F.elsBolPwrCh1 0 k).wr F.elsStatBolSet 0 k).elsSinceFollows k (s.elsOn k))) ∧
  (∀ (k : Nat) (s : State), Runs s .dbx →
      k < 8 →
      s.is F.elsStatPresent k = true →
      exec (.elsPresenceChange k false) s = .next ((s.wr F.elsStatPresent 0 k).elsSinceFollows k (s.elsOn k))) ∧
  (∀ (off : Nat) (v : Word) (s : State), Runs s .tsu →
      0x2800 ≤ off →
      off < 0x3000 →
      s.tsuTmplLocked ((off - 0x2800) / 0x200) = false →
      exec (.templateWrite .tsu off v) s = .next (s.regWrite .tsu off (entryBits v.toNat) false true)) ∧
  (∀ (off : Nat) (v : Word) (s : State), Runs s .tsu →
      0x2800 ≤ off →
      off < 0x3000 →
      s.tsuTmplLocked ((off - 0x2800) / 0x200) = true →
      exec (.templateWrite .tsu off v) s = .next (s.logErr .tsu 0x0020 noPort ((off - 0x2800) / 0x200))) ∧
  (∀ (off : Nat) (v : Word) (s : State), Runs s .dbx →
      0x40000 ≤ off →
      off < 0x48000 →
      s.tmplLocked ((off - 0x40000) / 0x200) = false →
      exec (.templateWrite .dbx off v) s = .next (s.regWrite .dbx off (entryBits v.toNat) false true)) ∧
  (∀ (off : Nat) (v : Word) (s : State), Runs s .dbx →
      0x40000 ≤ off →
      off < 0x48000 →
      s.tmplLocked ((off - 0x40000) / 0x200) = true →
      exec (.templateWrite .dbx off v) s = .next (s.logErr .dbx 0x0020 noPort ((off - 0x40000) / 0x200))) ∧
  (∀ (off : Nat) (v : Word) (s : State), Runs s .dbx →
      0x48000 ≤ off →
      off < 0x4C000 →
      s.shareLocked ((off - 0x48000) / 8) = false →
      exec (.templateWrite .dbx off v) s = .next (s.regWrite .dbx off v.toNat false true)) ∧
  (∀ (off : Nat) (v : Word) (s : State), Runs s .dbx →
      0x48000 ≤ off →
      off < 0x4C000 →
      s.shareLocked ((off - 0x48000) / 8) = true →
      exec (.templateWrite .dbx off v) s = .next (s.logErr .dbx 0x0020 noPort (0x10000 + (off - 0x48000) / 8))) ∧
  (∀ (v : Nat) (s : State), bits (entryBits v) 14 2 = 0 ∧ bits (entryBits v) 30 2 = 0 ∧ bits (entryBits v) 0 14 = bits v 0 14 ∧ bits (entryBits v) 16 14 = bits v 16 14)

/-- At an awake part a link-frame start advances LFN by 1 with SUB and fraction 0, slew, ramp and civil time one link frame on. A TSU counts the region repeaters with it and sends an owed ready report; a distributor lets the table entries written in the link frame before take effect. Then every port forms and sends its link frame; at a root the oldest dynamic records that the rate allows, two at most, go to its record log. A port that is not DISABLED forms S0, its plan positions and S7, or SC and its plan positions, with the tag; one that is UP holds the link frame in its retry buffer of 128. -/
def Obligations.LinkFramesAreCountedAndSent : Prop :=
  (∀ (s : State), Runs s .tsu →
      exec (.linkFrameStart .tsu) s = .next ((List.range (portCount .tsu)).foldl (fun s i => s.sendPort .tsu i) ((s.modNode .tsu Node.nextFrame).regionsCount.oweReady))) ∧
  (∀ (s : State), Runs s .dbx →
      exec (.linkFrameStart .dbx) s = .next ((let t := (List.range (portCount .dbx)).foldl (fun s i => s.sendPort .dbx i) ((s.modNode .dbx Node.nextFrame).applyTables.showQl)
        if t.isRoot = true then ((t.nextRecord .dbx).2 ++ ((t.nextRecord .dbx).1.nextRecord .dbx).2).foldl State.logRecord ((t.nextRecord .dbx).1.nextRecord .dbx).1 else t))) ∧
  (∀ (n : Node), n.nextFrame.lfn = n.lfn + 1 ∧ n.nextFrame.sub = 0 ∧ n.nextFrame.frac = 0 ∧ n.nextFrame.civSec * 2 ^ 64 + n.nextFrame.civFrac = n.civSec * 2 ^ 64 + n.civFrac + n.civInc) ∧
  (∀ (p : Part) (port : Nat) (s : State), s.rd (F.portStateState p) port ≠ 4 →
      (s.formFrame p port).2.slots.length = (if s.txLayout p port = 0 then 8 else 4) ∧ (s.formFrame p port).2.label = s.label p ∧ (s.formFrame p port).2.layout = s.txLayout p port)

/-- A link frame on a port in TRAINING or beyond takes its label from its S0, counts its failed slots, gives the lanes it came on, and, where they differ from those before, is a change of layout; its content is used and released whole or its missing slots are asked for; its replay descriptors act; the latest label rises; link frames 128 behind are given up and the label up to which all is released or given up is acknowledged. On a DISABLED or DARK port nothing happens. A NAK on an UP port queues the named slots of a held link frame for replay. A missing slot is asked for again after its wait, up to nak_max times in all; then the link frame is given up and counted as lost. -/
def Obligations.LinkFramesAreReceived : Prop :=
  (∀ (p : Part) (port : Nat) (frame : LinkFrame) (s : State), Runs s p →
      2 ≤ s.rd (F.portStateState p) port →
      exec (.linkFrameReceived p port frame) s = .next ((let f := { frame with label := s.rxLabel p port frame }
        let bad := failedSlots frame.slots
        let a := (s.noteEpoch p port f.label).countFails p port frame.layout bad
        let lanes := if frame.layout = 0 then 3 else frame.layout
        let b := a.wr (F.portStateRxLanes p) lanes port
        let c := if a.rd (F.portStateRxLanes p) port = 0 ∨ a.rd (F.portStateRxLanes p) port = lanes then b
          else b.layoutChanged p port (if b.parentEnd p port = true then 1 else 0) (lanes ≠ 3)
        let d := (if bad = [] then c.receiveGood p port f else c.receiveBad p port f bad).takeReplays p port f
        ((d.modPort p port fun t => { t with lastLabel := max t.lastLabel f.label, lastSlots := frame.slots }).giveUpOld p port).ackLabel p port))) ∧
  (∀ (p : Part) (port : Nat) (frame : LinkFrame) (s : State), Runs s p →
      s.rd (F.portStateState p) port < 2 →
      exec (.linkFrameReceived p port frame) s = .next (s)) ∧
  (∀ (p : Part) (port lfnLow mask : Nat) (r : LinkFrame) (s : State), Runs s p →
      s.up p port = true →
      ((s.port p port).retry.find? fun r => r.label % 256 == lfnLow % 256) = some r →
      exec (.nakReceived p port lfnLow mask) s = .next (s.modPort p port fun t => { t with replayQ := t.replayQ ++ ((List.range r.slots.length).filter fun i => bit mask i && !(s.port p port).replayQ.contains (r.label, i)).map fun i => (r.label, i) })) ∧
  (∀ (p : Part) (port lfnLow mask : Nat) (s : State), Runs s p →
      s.up p port = true →
      ((s.port p port).retry.find? fun r => r.label % 256 == lfnLow % 256) = none →
      exec (.nakReceived p port lfnLow mask) s = .next (s)) ∧
  (∀ (p : Part) (port label : Nat) (m : Missing) (s : State), Runs s p →
      ((s.port p port).missing.find? fun m => m.label == label) = some m →
      m.nakAt + s.nakWait p port ≤ s.lfn p →
      m.naks < max 1 (s.rd (F.linkCfgNakMax p)) →
      exec (.nakRepeat p port label) s = .next ((s.modPort p port fun t => { t with missing := ((s.port p port).missing.filter fun q => q.label != label) ++ [{ m with naks := m.naks + 1, nakAt := s.lfn p }] }).sendNak p port label m.mask)) ∧
  (∀ (p : Part) (port label : Nat) (m : Missing) (s : State), Runs s p →
      ((s.port p port).missing.find? fun m => m.label == label) = some m →
      m.nakAt + s.nakWait p port ≤ s.lfn p →
      max 1 (s.rd (F.linkCfgNakMax p)) ≤ m.naks →
      exec (.nakRepeat p port label) s = .next (((s.modPort p port fun t => { t with missing := (s.port p port).missing.filter fun q => q.label != label }).bump
        (F.portLostCount p) port).ackLabel p port)) ∧
  (∀ (p : Part) (port : Nat) (s : State), (s.port p port).missing = [] →
      ((s.ackLabel p port).port p port).acked = (s.port p port).lastLabel)

/-- Sixty-four valid headers give a lane of a port block lock, start its clean time and make it the lane that locked last; an enabled port that is DISABLED or DARK then trains, on both lanes or on the one that its boot record names. Sixteen invalid headers lose the lock of a lane that holds it; beyond DARK, with lock on the other lane, the receiver gives that lane up. PORT_DARK takes a port down that has had no power and lock together for 122 link frames. A training that has lasted 150 ms is a failure: an event, counted once a start, and it begins again without an ident page. Enable 0 disables the port and forgets its peer; enable 1 of a disabled port trains it where a lane has lock and leaves it DARK else. Isolate puts an enabled port into ISOLATED, and the time port moves time away; a distributor with another isolated port refuses with the event. A loopback mode isolates the port where it is permitted, and is refused at a TSU whose other port is not UP. Isolate or loopback taken away gives the port the state that its keys, ident page and lock allow. -/
def Obligations.PortsChangeStateByLockAndControl : Prop :=
  (∀ (p : Part) (port : Nat) (lane : LaneHeaders) (s : State), Runs s p →
      port < portCount p →
      lane.lane < 2 →
      64 ≤ lane.headers.length →
      headerErrors lane = 0 →
      (((s.setLock p port lane.lane true).setClean p port lane.lane (some (s.lfn p))).modNode p fun n => { n with lockLane := fset n.lockLane port lane.lane }).rd (F.portStateState p) port ≤ 1 →
      (((s.setLock p port lane.lane true).setClean p port lane.lane (some (s.lfn p))).modNode p fun n => { n with lockLane := fset n.lockLane port lane.lane }).is (F.portCtrlEnable p) port = true →
      exec (.blockLockGained p port lane) s = .next ((((s.setLock p port lane.lane true).setClean p port lane.lane (some (s.lfn p))).modNode p fun n => { n with lockLane := fset n.lockLane port lane.lane }).startTraining p port)) ∧
  (∀ (p : Part) (port : Nat) (lane : LaneHeaders) (s : State), Runs s p →
      port < portCount p →
      lane.lane < 2 →
      64 ≤ lane.headers.length →
      headerErrors lane = 0 →
      2 ≤ (((s.setLock p port lane.lane true).setClean p port lane.lane (some (s.lfn p))).modNode p fun n => { n with lockLane := fset n.lockLane port lane.lane }).rd (F.portStateState p) port →
      exec (.blockLockGained p port lane) s = .next ((((s.setLock p port lane.lane true).setClean p port lane.lane (some (s.lfn p))).modNode p fun n => { n with lockLane := fset n.lockLane port lane.lane }))) ∧
  (∀ (p : Part) (port : Nat) (s : State), s.is (F.bootPortOneLane p) port = false →
      s.startTraining p port = (((s.setPort p port 2).wr (F.portStateTxLanes p) 3 port).wr (F.portStateRxLanes p) 3 port).modPort p port fun t => { t with want := 3 }) ∧
  (∀ (p : Part) (port : Nat) (lane : LaneHeaders) (s : State), Runs s p →
      port < portCount p →
      lane.lane < 2 →
      (if lane.lane = 0 then (s.port p port).lock0 else (s.port p port).lock1) = true →
      16 ≤ headerErrors lane →
      2 ≤ ((s.setLock p port lane.lane false).setClean p port lane.lane none).rd (F.portStateState p) port →
      (if lane.lane = 0 then (s.port p port).lock1 else (s.port p port).lock0) = true →
      exec (.blockLockLost p port lane) s = .next (((s.setLock p port lane.lane false).setClean p port lane.lane none).degradeLane p port lane.lane)) ∧
  (∀ (p : Part) (port : Nat) (lane : LaneHeaders) (s : State), Runs s p →
      port < portCount p →
      lane.lane < 2 →
      (if lane.lane = 0 then (s.port p port).lock0 else (s.port p port).lock1) = true →
      16 ≤ headerErrors lane →
      ((s.setLock p port lane.lane false).setClean p port lane.lane none).rd (F.portStateState p) port < 2 ∨ (if lane.lane = 0 then (s.port p port).lock1 else (s.port p port).lock0) = false →
      exec (.blockLockLost p port lane) s = .next (((s.setLock p port lane.lane false).setClean p port lane.lane none))) ∧
  (∀ (p : Part) (port : Nat) (lane : LaneHeaders) (s : State), Runs s p →
      port < portCount p →
      lane.lane < 2 →
      (if lane.lane = 0 then (s.port p port).lock0 else (s.port p port).lock1) = true →
      1 ≤ headerErrors lane →
      headerErrors lane < 16 →
      exec (.blockLockLost p port lane) s = .next (s.setClean p port lane.lane (some (s.lfn p)))) ∧
  (∀ (p : Part) (port : Nat) (s : State), Runs s p →
      s.darkLong p port = true →
      port < portCount p →
      s.rd (F.portStateState p) port ≠ 1 →
      s.rd (F.portCtrlLoop p) port ≠ 1 →
      s.is (F.portCtrlEnable p) port = true →
      (((s.setPort p port 1).forgetPeer p port).modPort p port fun t => { t with lock0 := false, lock1 := false, clean0 := none, clean1 := none }).is (F.portCtrlExpected p) port = true →
      exec (.portDark p port) s = .next (((((s.setPort p port 1).forgetPeer p port).modPort p port fun t => { t with lock0 := false, lock1 := false, clean0 := none, clean1 := none }).portEvent p (F.portEvtDark p) port).raiseAlert p 0x108)) ∧
  (∀ (p : Part) (port : Nat) (s : State), Runs s p →
      s.darkLong p port = true →
      port < portCount p →
      s.rd (F.portStateState p) port ≠ 1 →
      s.rd (F.portCtrlLoop p) port ≠ 1 →
      s.is (F.portCtrlEnable p) port = true →
      (((s.setPort p port 1).forgetPeer p port).modPort p port fun t => { t with lock0 := false, lock1 := false, clean0 := none, clean1 := none }).is (F.portCtrlExpected p) port = false →
      exec (.portDark p port) s = .next ((((s.setPort p port 1).forgetPeer p port).modPort p port fun t => { t with lock0 := false, lock1 := false, clean0 := none, clean1 := none }))) ∧
  (∀ (p : Part) (port : Nat) (s : State), Runs s p →
      s.rd (F.portStateState p) port = 2 →
      (s.port p port).trainAt + lfOfMs 150 ≤ s.lfn p →
      exec (.trainingTimeout p port) s = .next (((s.portEvent p (F.portEvtTrainFail p) port).countTrain p port).modPort p port fun t => { t with ident := false, trainAt := s.lfn p })) ∧
  (∀ (p : Part) (port : Nat) (s : State), Runs s p →
      port < portCount p →
      exec (.portEnable p port false) s = .next (((s.wr (F.portCtrlEnable p) 0 port).setPort p port 0).forgetPeer p port)) ∧
  (∀ (p : Part) (port : Nat) (s : State), Runs s p →
      port < portCount p →
      s.is (F.portCtrlEnable p) port = false →
      (s.port p port).lock0 = true ∨ (s.port p port).lock1 = true →
      exec (.portEnable p port true) s = .next ((s.wr (F.portCtrlEnable p) 1 port).startTraining p port)) ∧
  (∀ (p : Part) (port : Nat) (s : State), Runs s p →
      port < portCount p →
      s.is (F.portCtrlEnable p) port = false →
      (s.port p port).lock0 = false →
      (s.port p port).lock1 = false →
      exec (.portEnable p port true) s = .next ((s.wr (F.portCtrlEnable p) 1 port).setPort p port 1)) ∧
  (∀ (p : Part) (port : Nat) (s : State), Runs s p →
      port < portCount p →
      (p = .dbx → s.othersIsolated port = false) →
      (s.wr (F.portCtrlIsolate p) 1 port).is (F.portCtrlEnable p) port = true →
      exec (.portIsolate p port true) s = .next ((s.wr (F.portCtrlIsolate p) 1 port).isolatePort p port)) ∧
  (∀ (port : Nat) (s : State), Runs s .dbx →
      port < 132 →
      s.othersIsolated port = true →
      exec (.portIsolate .dbx port true) s = .next (s.portEvent .dbx (F.portEvtIsolateRefused .dbx) port)) ∧
  (∀ (p : Part) (port : Nat) (s : State), Runs s p →
      port < portCount p →
      (s.wr (F.portCtrlIsolate p) 0 port).is (F.portCtrlEnable p) port = true →
      (s.wr (F.portCtrlIsolate p) 0 port).rd (F.portStateState p) port = 5 →
      (s.wr (F.portCtrlIsolate p) 0 port).rd (F.portCtrlLoop p) port % 3 = 0 →
      exec (.portIsolate p port false) s = .next ((s.wr (F.portCtrlIsolate p) 0 port).setPort p port ((s.wr (F.portCtrlIsolate p) 0 port).portFor p port))) ∧
  (∀ (port mode : Nat) (s : State), Runs s .tsu →
      port < 2 →
      mode = 1 ∨ mode = 2 →
      s.up .tsu (1 - port) = true →
      s.timeValid .tsu = true →
      (s.wr (F.portCtrlLoop .tsu) mode port).is (F.portCtrlEnable .tsu) port = true →
      exec (.portLoopback .tsu port mode) s = .next ((s.wr (F.portCtrlLoop .tsu) mode port).isolatePort .tsu port)) ∧
  (∀ (port mode : Nat) (s : State), Runs s .dbx →
      port < 132 →
      mode = 1 ∨ mode = 2 →
      s.othersIsolated port = false →
      (s.wr (F.portCtrlLoop .dbx) mode port).is (F.portCtrlEnable .dbx) port = true →
      exec (.portLoopback .dbx port mode) s = .next ((s.wr (F.portCtrlLoop .dbx) mode port).isolatePort .dbx port)) ∧
  (∀ (port mode : Nat) (s : State), Runs s .tsu →
      port < 2 →
      mode = 1 ∨ mode = 2 →
      s.up .tsu (1 - port) = false →
      exec (.portLoopback .tsu port mode) s = .next (s.portEvent .tsu (F.portEvtLoopRefused .tsu) port)) ∧
  (∀ (port mode : Nat) (s : State), Runs s .dbx →
      port < 132 →
      mode = 1 ∨ mode = 2 →
      s.othersIsolated port = true →
      exec (.portLoopback .dbx port mode) s = .next (s.portEvent .dbx (F.portEvtIsolateRefused .dbx) port)) ∧
  (∀ (p : Part) (port : Nat) (s : State), Runs s p →
      port < portCount p →
      (s.wr (F.portCtrlLoop p) 0 port).is (F.portCtrlEnable p) port = true →
      (s.wr (F.portCtrlLoop p) 0 port).rd (F.portStateState p) port = 5 →
      (s.wr (F.portCtrlLoop p) 0 port).is (F.portCtrlIsolate p) port = false →
      exec (.portLoopback p port 0) s = .next ((s.wr (F.portCtrlLoop p) 0 port).setPort p port ((s.wr (F.portCtrlLoop p) 0 port).portFor p port)))

/-- A lane drop stores the bit and asks the peer for the other lane, and the clean time of a lane in use till then begins; unpin clears both pinned bits and the scores follow; a request for other lanes is answered with a switch announced for the stated count; at that count the transmit layout changes and the change is reported; 16 link frames after a degraded switch the queued content that no degraded position can carry is dropped and counted; a lane that has been clean for 2^20 link frames, neither dropped nor pinned, is asked for again. -/
def Obligations.LanesAreDroppedAndRestored : Prop :=
  (∀ (p : Part) (port lane : Nat) (s : State), Runs s p →
      port < portCount p →
      lane < 2 →
      (s.port p port).want = 3 →
      exec (.dropLane p port lane true) s = .next (((s.wr (dropF p lane) 1 port).setWant p port (otherLane lane)).modPort p port fun t => t.startClean lane ((s.wr (dropF p lane) 1 port).lfn p))) ∧
  (∀ (p : Part) (port lane : Nat) (s : State), Runs s p →
      port < portCount p →
      lane < 2 →
      (s.port p port).want ≠ 3 →
      exec (.dropLane p port lane true) s = .next ((s.wr (dropF p lane) 1 port).setWant p port (otherLane lane))) ∧
  (∀ (p : Part) (port lane : Nat) (s : State), Runs s p →
      port < portCount p →
      lane < 2 →
      exec (.dropLane p port lane false) s = .next (s.wr (dropF p lane) 0 port)) ∧
  (∀ (p : Part) (port : Nat) (s : State), Runs s p →
      port < portCount p →
      exec (.unpin p port) s = .next (((s.wr (F.portStatePinnedL0 p) 0 port).wr (F.portStatePinnedL1 p) 0 port).score p (some port))) ∧
  (∀ (p : Part) (port want : Nat) (s : State), Runs s p →
      port < portCount p →
      1 ≤ want →
      want ≤ 3 →
      2 ≤ s.rd (F.portStateState p) port →
      s.rd (F.portStateTxLanes p) port ≠ want →
      exec (.degradeRequestReceived p port want) s = .next (s.modPort p port fun t => { t with switchAt := some (switchCount (s.lfn p), want) })) ∧
  (∀ (p : Part) (port c lanes : Nat) (s : State), Runs s p →
      (s.port p port).switchAt = some (c, lanes) →
      c ≤ s.lfn p →
      exec (.layoutSwitch p port) s = .next (((s.wr (F.portStateTxLanes p) lanes port).modPort p port fun t => { t with switchAt := none, switched := if lanes = 3 then none else some (s.lfn p) }).layoutChanged
        p port (if ((s.wr (F.portStateTxLanes p) lanes port).modPort p port fun t =>
          { t with switchAt := none, switched := if lanes = 3 then none else some (s.lfn p) }).parentEnd p port = true then 0 else 1) (lanes ≠ 3))) ∧
  (∀ (p : Part) (port c : Nat) (s : State), Runs s p →
      (s.port p port).switched = some c →
      c + 16 ≤ s.lfn p →
      exec (.degradedQueueDrop p port) s = .next ((s.bump (F.portDropCount p) port ((s.port p port).queue.length - ((s.port p port).queue.filter fun q => ((List.range 48).map fun i => s.tmplEntry p (s.txTmpl p port) (96 + i)).any fun e => s.itemFits p e q).length)).modPort p port fun t =>
        { t with queue := ((s.port p port).queue.filter fun q => ((List.range 48).map fun i => s.tmplEntry p (s.txTmpl p port) (96 + i)).any fun e => s.itemFits p e q), switched := none })) ∧
  (∀ (p : Part) (port lane c : Nat) (s : State), Runs s p →
      lane < 2 →
      (if lane = 0 then (s.port p port).clean0 else (s.port p port).clean1) = some c →
      (s.port p port).want = otherLane lane →
      c + 2 ^ 20 ≤ s.lfn p →
      s.is (dropF p lane) port = false →
      s.is (pinnedF p lane) port = false →
      exec (.laneRestoreRequest p port lane) s = .next (s.setWant p port 3))

/-- Half an epoch into it a keyed UP port without keys for the next epoch, and with no exchange for it under way, starts that exchange. In the last 2^24 link frames of an epoch without keys for the next, up to twice in a row, the next keys come by ratchet, which is counted. At the first label of a later epoch the keys held for it take force; without any, after two ratcheted epochs, the port goes AUTH_DOWN; a jump ratchets once to the epoch and starts a new exchange. At a distributor a certificate that is accepted is kept, a SHARE derives the keys and is answered with the signature, a signature that verifies is answered with the confirmation, and a confirmation that verifies completes the exchange; each one that fails refuses the peer. A TSU passes each message to its root of trust. A completed exchange puts its keys into force on a port that had none, which becomes UP, and keeps them for their epoch on one that had. -/
def Obligations.LinkKeysAreAgreedAndRatcheted : Prop :=
  (∀ (p : Part) (port : Nat) (s : State), Runs s p →
      (s.port p port).keyed = true →
      s.up p port = true →
      2 ^ 31 ≤ s.lfn p % 2 ^ 32 →
      (s.port p port).nextOk = false ∨ (s.port p port).nextEpoch ≠ s.lfn p / 2 ^ 32 + 1 →
      (s.port p port).exch = false ∨ (s.port p port).exEpoch ≠ s.lfn p / 2 ^ 32 + 1 →
      exec (.linkEpochExchangeStart p port) s = .next (s.startExchange p port (s.lfn p / 2 ^ 32 + 1))) ∧
  (∀ (p : Part) (port : Nat) (s : State), Runs s p →
      (s.port p port).keyed = true →
      0xFF000000 ≤ s.lfn p % 2 ^ 32 →
      ((s.port p port).nextOk = false ∧ (s.port p port).nextRat = false) ∨ (s.port p port).nextEpoch ≠ s.lfn p / 2 ^ 32 + 1 →
      s.rd (F.portStateRatchets p) port < 2 →
      exec (.keyRatchet p port) s = .next ((s.ratchetTo p port (s.lfn p / 2 ^ 32 + 1)).bump (F.portStateRatchets p) port)) ∧
  (∀ (p : Part) (port : Nat) (s : State), Runs s p →
      (s.port p port).keyed = true →
      (s.port p port).txEpoch < s.label p / 2 ^ 32 →
      (s.port p port).nextOk = true ∨ (s.port p port).nextRat = true →
      (s.port p port).nextEpoch = s.label p / 2 ^ 32 →
      exec (.epochBoundary p port) s = .next (s.takeNextTx p port (s.label p / 2 ^ 32))) ∧
  (∀ (p : Part) (port : Nat) (s : State), Runs s p →
      (s.port p port).keyed = true →
      s.label p / 2 ^ 32 = (s.port p port).txEpoch + 1 →
      (s.node p).jumpTo ≠ some (s.label p / 2 ^ 32) →
      (s.port p port).nextOk = false →
      (s.port p port).nextRat = false →
      s.rd (F.portStateRatchets p) port = 2 →
      exec (.epochBoundary p port) s = .next (s.authDown p port)) ∧
  (∀ (p : Part) (port : Nat) (s : State), Runs s p →
      (s.port p port).keyed = true →
      (s.port p port).txEpoch < s.label p / 2 ^ 32 →
      (s.node p).jumpTo = some (s.label p / 2 ^ 32) →
      (s.port p port).nextOk = false →
      (s.port p port).nextRat = false →
      exec (.epochBoundary p port) s = .next (((s.ratchetTo p port (s.label p / 2 ^ 32)).takeNextTx p port (s.label p / 2 ^ 32)).startExchange p port (s.label p / 2 ^ 32 + 1))) ∧
  (∀ (port : Nat) (cert : PeerCert) (s : State), Runs s .dbx →
      port < 132 →
      s.acceptPeer .dbx port cert = true →
      exec (.linkCert .dbx port cert) s = .next (s.modPort .dbx port fun t => { t with cert := some cert })) ∧
  (∀ (port : Nat) (cert : PeerCert) (s : State), Runs s .dbx →
      port < 132 →
      s.acceptPeer .dbx port cert = false →
      exec (.linkCert .dbx port cert) s = .next (s.refusePeer .dbx port)) ∧
  (∀ (port : Nat) (cert : PeerCert) (s : State), Runs s .tsu →
      port < 2 →
      (s.mbLink port (toLe 8 1 ++ toLe 4 cert.chain.length ++ cert.chain)).acceptPeer .tsu port cert = true →
      exec (.linkCert .tsu port cert) s = .next ((s.mbLink port (toLe 8 1 ++ toLe 4 cert.chain.length ++ cert.chain)).modPort .tsu port fun t => { t with cert := some cert })) ∧
  (∀ (port : Nat) (cert : PeerCert) (s : State), Runs s .tsu →
      port < 2 →
      (s.mbLink port (toLe 8 1 ++ toLe 4 cert.chain.length ++ cert.chain)).acceptPeer .tsu port cert = false →
      exec (.linkCert .tsu port cert) s = .next ((s.mbLink port (toLe 8 1 ++ toLe 4 cert.chain.length ++ cert.chain)).refusePeer .tsu port)) ∧
  (∀ (port epoch nonce pub : Nat) (s : State), Runs s .dbx →
      port < 132 →
      s.dbx.labelled = true →
      3 ≤ s.rd (F.portStateState .dbx) port →
      (s.port .dbx port).exch = true →
      (s.port .dbx port).exEpoch = epoch →
      exec (.linkShare .dbx port epoch nonce pub) s = .next ((let b := s.deriveKeys port epoch nonce pub
        b.sendKey .dbx port 3 [Config.aliasSign (b.port .dbx port).transcript]))) ∧
  (∀ (port epoch nonce pub : Nat) (s : State), Runs s .dbx →
      port < 132 →
      s.dbx.labelled = true →
      3 ≤ s.rd (F.portStateState .dbx) port →
      (s.port .dbx port).exch = false ∨ (s.port .dbx port).exEpoch ≠ epoch →
      exec (.linkShare .dbx port epoch nonce pub) s = .next ((let b := (s.startExchange .dbx port epoch).deriveKeys port epoch nonce pub
        b.sendKey .dbx port 3 [Config.aliasSign (b.port .dbx port).transcript]))) ∧
  (∀ (port epoch nonce pub : Nat) (s : State), Runs s .tsu →
      port < 2 →
      s.tsu.labelled = true →
      3 ≤ s.rd (F.portStateState .tsu) port →
      exec (.linkShare .tsu port epoch nonce pub) s = .next (s.mbLink port (shareBytes epoch nonce pub))) ∧
  (∀ (port sig : Nat) (c : PeerCert) (s : State), Runs s .dbx →
      port < 132 →
      (s.port .dbx port).cert = some c →
      (s.port .dbx port).exch = true →
      (s.port .dbx port).shared = true →
      exec (.linkSig .dbx port sig) s = .next ((if Config.ecdsaVerify c.alias_ (s.port .dbx port).transcript sig = true then
          (s.modPort .dbx port fun t => { t with sigOk := true }).sendKey .dbx port 4 [Config.hmacConfirm (s.port .dbx port).confirm (s.port .dbx port).transcript]
        else s.refusePeer .dbx port))) ∧
  (∀ (port sig : Nat) (s : State), Runs s .dbx →
      port < 132 →
      (s.port .dbx port).cert = none →
      (s.port .dbx port).exch = true →
      exec (.linkSig .dbx port sig) s = .next (s.refusePeer .dbx port)) ∧
  (∀ (port sig : Nat) (s : State), Runs s .tsu →
      port < 2 →
      exec (.linkSig .tsu port sig) s = .next (s.mbLink port (toLe 8 3 ++ toLe 96 sig))) ∧
  (∀ (port mac : Nat) (s : State), Runs s .dbx →
      port < 132 →
      (s.port .dbx port).exch = true →
      (s.port .dbx port).shared = true →
      (s.port .dbx port).sigOk = true →
      exec (.linkConfirm .dbx port mac) s = .next ((if Config.hmacConfirm (s.port .dbx port).confirm (s.port .dbx port).transcript = mac then
          s.exchangeDone .dbx port (s.port .dbx port).exEpoch (s.port .dbx port).pendTx (s.port .dbx port).pendRx
        else s.refusePeer .dbx port))) ∧
  (∀ (port mac : Nat) (s : State), Runs s .tsu →
      port < 2 →
      exec (.linkConfirm .tsu port mac) s = .next (s.mbLink port (toLe 8 4 ++ toLe 16 mac))) ∧
  (∀ (p : Part) (port epoch tx rx : Nat) (s : State), (s.port p port).keyed = true →
      s.exchangeDone p port epoch tx rx = s.modPort p port fun t => { t with exch := false, nextEpoch := epoch, nextTx := tx, nextRx := rx, nextOk := true, nextRat := false })

/-- A half that is idle or lies in a share that is not valid is left alone; a malformed crozier counts as a fault; the first copy of a key is kept, counted and sent down to the ports that the partition's tables give; a second copy within the window is counted, and one that differs is counted as divergent, logged with handle, step, both ports and the first byte that differs, and raises the pair record. When the window ends the keys in it leave, those without a second copy counted as single, with a record where the other uplink has been UP throughout. A write of DBX_TBL_SEL with write set that the tables refuse sets refused; one that they take puts the entry, without its reserved bits, in for the next link frame; the selected entry is shown either way. -/
def Obligations.CroziersAreForwardedOnce : Prop :=
  (∀ (port share : Nat) (cz : Crozier) (s : State), Runs s .dbx →
      czIdle cz = true ∨ s.is F.shareValid share = false →
      exec (.crozierReceived port share cz) s = .next (s)) ∧
  (∀ (port share : Nat) (cz : Crozier) (s : State), Runs s .dbx →
      czIdle cz = false →
      s.is F.shareValid share = true →
      czMalformed cz = true →
      exec (.crozierReceived port share cz) s = .next (s.bump F.dczFaultCount)) ∧
  (∀ (port share : Nat) (cz : Crozier) (s : State), Runs s .dbx →
      czIdle cz = false →
      s.is F.shareValid share = true →
      czMalformed cz = false →
      s.d.czKeys.find? (fun k => k.partition == s.rd F.sharePartition share && czSameKey k.cz cz && decide (s.dbx.lfn < k.atLfn + s.czWindow)) = none →
      exec (.crozierReceived port share cz) s = .next ((let t := s.czAdd ⟨s.rd F.sharePartition share, cz, port, s.dbx.lfn, false⟩
        (t.bump F.dczFwdCount).sendDown (s.rd F.sharePartition share) 1 (t.czRoles (s.rd F.sharePartition share) cz) (.crozier cz)))) ∧
  (∀ (port share : Nat) (cz : Crozier) (k : CzKey) (s : State), Runs s .dbx →
      czIdle cz = false →
      s.is F.shareValid share = true →
      czMalformed cz = false →
      s.d.czKeys.find? (fun k => k.partition == s.rd F.sharePartition share && czSameKey k.cz cz && decide (s.dbx.lfn < k.atLfn + s.czWindow)) = some k →
      czDiffers k.cz cz = none →
      exec (.crozierReceived port share cz) s = .next (((s.bump F.dczDupCount).modD fun d => { d with czKeys := d.czKeys.map fun x => if x = k then { x with second := true } else x }))) ∧
  (∀ (port share byte : Nat) (cz : Crozier) (k : CzKey) (s : State), Runs s .dbx →
      czIdle cz = false →
      s.is F.shareValid share = true →
      czMalformed cz = false →
      s.d.czKeys.find? (fun k => k.partition == s.rd F.sharePartition share && czSameKey k.cz cz && decide (s.dbx.lfn < k.atLfn + s.czWindow)) = some k →
      czDiffers k.cz cz = some byte →
      exec (.crozierReceived port share cz) s = .next (((((s.bump F.dczDupCount).modD fun d => { d with czKeys := d.czKeys.map fun x => if x = k then { x with second := true } else x }).bump F.dczDivergeCount).divLog k.cz.handle k.cz.step k.port port byte).pairDiverges)) ∧
  (∀ (s : State), Runs s .dbx →
      ((s.d.czKeys.filter fun k => k.atLfn + s.czWindow ≤ s.dbx.lfn).filter fun k => !k.second) = [] →
      exec (.compareWindowExpiry) s = .next ((s.modD fun d => { d with czKeys := d.czKeys.filter fun k => !(k.atLfn + s.czWindow ≤ s.dbx.lfn) }))) ∧
  (∀ (k : CzKey) (s : State), Runs s .dbx →
      ((s.d.czKeys.filter fun k => k.atLfn + s.czWindow ≤ s.dbx.lfn).filter fun k => !k.second) = [k] →
      ((s.modD fun d => { d with czKeys := d.czKeys.filter fun k => !(k.atLfn + s.czWindow ≤ s.dbx.lfn) }).bump F.dczSingleCount).upSince .dbx (otherUplink k.port) k.atLfn = true →
      exec (.compareWindowExpiry) s = .next (((s.modD fun d => { d with czKeys := d.czKeys.filter fun k => !(k.atLfn + s.czWindow ≤ s.dbx.lfn) }).bump F.dczSingleCount).record .dbx 1 (Config.recordCode 1 125))) ∧
  (∀ (k : CzKey) (s : State), Runs s .dbx →
      ((s.d.czKeys.filter fun k => k.atLfn + s.czWindow ≤ s.dbx.lfn).filter fun k => !k.second) = [k] →
      ((s.modD fun d => { d with czKeys := d.czKeys.filter fun k => !(k.atLfn + s.czWindow ≤ s.dbx.lfn) }).bump F.dczSingleCount).upSince .dbx (otherUplink k.port) k.atLfn = false →
      exec (.compareWindowExpiry) s = .next (((s.modD fun d => { d with czKeys := d.czKeys.filter fun k => !(k.atLfn + s.czWindow ≤ s.dbx.lfn) }).bump F.dczSingleCount))) ∧
  (∀ (v : Word) (s : State), Runs s .dbx →
      bit v.toNat 18 = true →
      (s.regPut .dbx 0x58080 v.toNat false true).tblRefuses ((s.regPut .dbx 0x58080 v.toNat false true).rd F.tblSelTable) ((s.regPut .dbx 0x58080 v.toNat false true).rd F.tblSelIndex) (sumNat ((List.range 4).map fun k => fgetD s.d.tblStage k 0 * 2 ^ (32 * k))) = true →
      exec (.tableWrite v) s = .next ((((s.regPut .dbx 0x58080 v.toNat false true).wr F.tblSelRefused 1).showTbl).regClear .dbx 0x58080 v.toNat)) ∧
  (∀ (v : Word) (s : State), Runs s .dbx →
      bit v.toNat 18 = true →
      (s.regPut .dbx 0x58080 v.toNat false true).tblRefuses ((s.regPut .dbx 0x58080 v.toNat false true).rd F.tblSelTable) ((s.regPut .dbx 0x58080 v.toNat false true).rd F.tblSelIndex) (sumNat ((List.range 4).map fun k => fgetD s.d.tblStage k 0 * 2 ^ (32 * k))) = false →
      exec (.tableWrite v) s = .next ((((s.regPut .dbx 0x58080 v.toNat false true).modD fun d => { d with tblPend := d.tblPend ++ [((s.regPut .dbx 0x58080 v.toNat false true).rd F.tblSelTable, (s.regPut .dbx 0x58080 v.toNat false true).rd F.tblSelIndex, tblMask ((s.regPut .dbx 0x58080 v.toNat false true).rd F.tblSelTable) (sumNat ((List.range 4).map fun k => fgetD s.d.tblStage k 0 * 2 ^ (32 * k))))] }).showTbl).regClear .dbx 0x58080 v.toNat)) ∧
  (∀ (v : Word) (s : State), Runs s .dbx →
      bit v.toNat 18 = false →
      exec (.tableWrite v) s = .next (((s.regPut .dbx 0x58080 v.toNat false true).showTbl).regClear .dbx 0x58080 v.toNat))

/-- A half that is idle is left alone; a copy of a key that the TSU holds is answered by what holds it; a first copy is judged at its count of arrival. One with margin between guard and greatest lead, for a bound channel of its generation, is armed in the lowest free entry; one below the guard is refused with cause 1; an abort is kept for its count. An entry due for staging whose words find room hands them to its regions; a launch without room is missed with cause 6, another type waits. A launch whose fire edge has come, in VALID and covered by no abort, fires its words in the regions that fire it, notes its fires and becomes FIRED, and is missed with cause 5 where a region is not valid; one that an abort covers is cancelled; without VALID, or past its edge, it is missed with cause 4; during a compute-domain reset it ends without a fire. A FIRED launch is freed at the end of its frame, another type 16 link frames after its fire count. Retired keys leave after 512 link frames. -/
def Obligations.CroziersAreAdmittedAndStaged : Prop :=
  (∀ (port sub : Nat) (cz : Crozier) (s : State), Runs s .tsu →
      czIdle cz = true →
      exec (.crozierAdmission port cz sub) s = .next (s)) ∧
  (∀ (port sub : Nat) (cz : Crozier) (t : State) (s : State), Runs s .tsu →
      czIdle cz = false →
      s.knownCopy cz = some t →
      exec (.crozierAdmission port cz sub) s = .next (t)) ∧
  (∀ (port sub e : Nat) (cz : Crozier) (m : Int) (s : State), Runs s .tsu →
      czIdle cz = false →
      s.knownCopy cz = none →
      czMalformed cz = false →
      s.targetsMe cz = true →
      s.timeValid .tsu = true →
      m = mtDiff ⟨extend32 cz.fireLfn s.tsu.lfn, cz.fireSub % 8192⟩ ⟨s.tsu.lfn, sub % 8192⟩ →
      m ≤ s.maxLeadUnits →
      cz.ctype = 1 →
      (s.noteMargin m).guardUnits ≤ m →
      (s.noteMargin m).gen .tsu (hIndex cz.handle) = hGen cz.handle →
      ((s.noteMargin m).chanOf cz.handle).any (fun ch => ch.state == 2) = true →
      (s.noteMargin m).t.chans.length ≤ 4096 →
      (s.noteMargin m).is F.thealthRolePending = false →
      (s.noteMargin m).freeEntry? = some e →
      exec (.crozierAdmission port cz sub) s = .next ((s.noteMargin m).arm (port % 2) cz ⟨extend32 cz.fireLfn s.tsu.lfn, cz.fireSub % 8192⟩ e)) ∧
  (∀ (port sub : Nat) (cz : Crozier) (m : Int) (s : State), Runs s .tsu →
      czIdle cz = false →
      s.knownCopy cz = none →
      czMalformed cz = false →
      s.targetsMe cz = true →
      s.timeValid .tsu = true →
      m = mtDiff ⟨extend32 cz.fireLfn s.tsu.lfn, cz.fireSub % 8192⟩ ⟨s.tsu.lfn, sub % 8192⟩ →
      m ≤ s.maxLeadUnits →
      cz.ctype ≠ 3 →
      m < (s.noteMargin m).guardUnits →
      exec (.crozierAdmission port cz sub) s = .next ((s.noteMargin m).refuseCz cz (extend32 cz.fireLfn s.tsu.lfn) 0x1)) ∧
  (∀ (port sub : Nat) (cz : Crozier) (m : Int) (s : State), Runs s .tsu →
      czIdle cz = false →
      s.knownCopy cz = none →
      czMalformed cz = false →
      s.targetsMe cz = true →
      s.timeValid .tsu = true →
      m = mtDiff ⟨extend32 cz.fireLfn s.tsu.lfn, cz.fireSub % 8192⟩ ⟨s.tsu.lfn, sub % 8192⟩ →
      m ≤ s.maxLeadUnits →
      cz.ctype = 3 →
      s.gen .tsu (hIndex cz.handle) = hGen cz.handle →
      exec (.crozierAdmission port cz sub) s = .next (s.modT fun t => { t with aborts := t.aborts ++ [{ cz := cz, port := port % 2, act := if mtBefore ⟨extend32 cz.fireLfn s.tsu.lfn, cz.fireSub % 8192⟩ ⟨s.tsu.lfn, sub % 8192⟩ = true then ⟨s.tsu.lfn, sub % 8192⟩ else ⟨extend32 cz.fireLfn s.tsu.lfn, cz.fireSub % 8192⟩ }] })) ∧
  (∀ (entry : Nat) (fullRegions : List Nat) (a : ArmEntry) (s : State), Runs s .tsu →
      s.dueStage entry = some a →
      s.stageFits a = true ∧ (a.targets.any fun t => fullRegions.contains (s.regionOf t)) = false →
      exec (.launchStage entry fullRegions) s = .next (s.stageWords entry a)) ∧
  (∀ (entry : Nat) (fullRegions : List Nat) (a : ArmEntry) (s : State), Runs s .tsu →
      s.dueStage entry = some a →
      a.cz.ctype = 1 →
      s.stageFits a = false ∨ (a.targets.any fun t => fullRegions.contains (s.regionOf t)) = true →
      exec (.launchStage entry fullRegions) s = .next ((s.entryVoid entry).missLaunch a.cz a.fire.lfn 0x6)) ∧
  (∀ (entry : Nat) (fullRegions : List Nat) (a : ArmEntry) (s : State), Runs s .tsu →
      s.dueStage entry = some a →
      a.cz.ctype ≠ 1 →
      s.stageFits a = false ∨ (a.targets.any fun t => fullRegions.contains (s.regionOf t)) = true →
      exec (.launchStage entry fullRegions) s = .next (s)) ∧
  (∀ (entry : Nat) (a : ArmEntry) (s : State), Runs s .tsu →
      s.liveEntry entry 1 = some a →
      (fireEdge a.fire).lfn = s.tsu.lfn →
      s.abortCovers a = false →
      s.t.cmpAck = false →
      s.timeValid .tsu = true →
      3 ≤ a.state ∨ s.stageFits a = true →
      (a.targets.any fun t => !s.regionValid (s.regionOf t)) = false →
      exec (.launchFire entry) s = .next (((s.fireEntry entry a).noteFires entry a).entryFired entry)) ∧
  (∀ (entry : Nat) (a : ArmEntry) (s : State), Runs s .tsu →
      s.liveEntry entry 1 = some a →
      (fireEdge a.fire).lfn = s.tsu.lfn →
      s.abortCovers a = false →
      s.t.cmpAck = false →
      s.timeValid .tsu = true →
      3 ≤ a.state ∨ s.stageFits a = true →
      (a.targets.any fun t => !s.regionValid (s.regionOf t)) = true →
      exec (.launchFire entry) s = .next ((((s.fireEntry entry a).noteFires entry a).entryFired entry).missLaunch a.cz a.fire.lfn 0x5)) ∧
  (∀ (entry : Nat) (a : ArmEntry) (s : State), Runs s .tsu →
      s.liveEntry entry 1 = some a →
      (fireEdge a.fire).lfn ≤ s.tsu.lfn →
      s.abortCovers a = false →
      s.t.cmpAck = false →
      s.timeValid .tsu = false ∨ (fireEdge a.fire).lfn < s.tsu.lfn →
      exec (.launchFire entry) s = .next ((s.entryVoid entry).missLaunch a.cz a.fire.lfn 0x4)) ∧
  (∀ (entry : Nat) (a : ArmEntry) (s : State), Runs s .tsu →
      s.liveEntry entry 1 = some a →
      (fireEdge a.fire).lfn = s.tsu.lfn →
      s.abortCovers a = true →
      exec (.launchFire entry) s = .next (s.cancelEntry entry)) ∧
  (∀ (entry : Nat) (a : ArmEntry) (s : State), Runs s .tsu →
      s.liveEntry entry 1 = some a →
      (fireEdge a.fire).lfn = s.tsu.lfn →
      s.abortCovers a = false →
      s.t.cmpAck = true →
      exec (.launchFire entry) s = .next (s.entryVoid entry)) ∧
  (∀ (entry : Nat) (a : ArmEntry) (s : State), Runs s .tsu →
      fget? s.t.arm entry = some a →
      a.state = 4 →
      a.cz.ctype = 1 →
      mtBefore (s.now .tsu) ⟨s.tickOf a.fire.lfn + s.frameLen, 0⟩ = false →
      exec (.armEntryFree entry) s = .next (s.endEntry entry)) ∧
  (∀ (entry : Nat) (a : ArmEntry) (s : State), Runs s .tsu →
      fget? s.t.arm entry = some a →
      a.state = 4 →
      a.cz.ctype ≠ 1 →
      mtBefore (s.now .tsu) ⟨a.fire.lfn + 16, a.fire.sub⟩ = false →
      exec (.armEntryFree entry) s = .next (s.endEntry entry)) ∧
  (∀ (s : State), Runs s .tsu →
      exec (.retiredKeyExpiry) s = .next (s.modT fun t => { t with retired := t.retired.filter fun x => s.tsu.lfn < x.2 + 512, aborts := t.aborts.filter fun x => !(x.done && x.act.lfn + 512 ≤ s.tsu.lfn) }))

/-- In VALID, covered by no abort, at its fire edge a token crozier sets its channel's token record and fires its words, and a time event fires its words; an epoch crozier at its count sets the epoch, from its step on, of the channel it names or, with handle 0, of every channel in its target set; each is then FIRED. A frequency crozier at a frame tick sets the level cap, and the tick is sampled and committed with it. Without VALID each ends without effect. The first abort that is due acts on the channels that it names, by its code: DESTROY tears them down, another aborts them. A frame tick of a loaded grid, at a node whose count runs or is held, closes the open steps, sends RESET during a compute-domain reset, purges what is old, takes the cap of a frequency crozier due at it, samples the level requests and commits them; any other does nothing. -/
def Obligations.OtherCroziersAct : Prop :=
  (∀ (entry : Nat) (a : ArmEntry) (s : State), Runs s .tsu →
      s.liveEntry entry 5 = some a →
      (fireEdge a.fire).lfn ≤ s.tsu.lfn →
      s.abortCovers a = false →
      s.timeValid .tsu = true →
      exec (.tokenApply entry) s = .next ((s.modChan a.cz.handle fun c => { c with token := a.cz.payload }).fireOther entry a)) ∧
  (∀ (entry : Nat) (a : ArmEntry) (s : State), Runs s .tsu →
      s.liveEntry entry 5 = some a →
      (fireEdge a.fire).lfn ≤ s.tsu.lfn →
      s.abortCovers a = false →
      s.timeValid .tsu = false →
      exec (.tokenApply entry) s = .next (s.entryVoid entry)) ∧
  (∀ (entry : Nat) (a : ArmEntry) (s : State), Runs s .tsu →
      s.liveEntry entry 6 = some a →
      (fireEdge a.fire).lfn ≤ s.tsu.lfn →
      s.abortCovers a = false →
      s.timeValid .tsu = true →
      exec (.timeEventFire entry) s = .next (s.fireOther entry a)) ∧
  (∀ (entry : Nat) (a : ArmEntry) (s : State), Runs s .tsu →
      s.liveEntry entry 6 = some a →
      (fireEdge a.fire).lfn ≤ s.tsu.lfn →
      s.abortCovers a = false →
      s.timeValid .tsu = false →
      exec (.timeEventFire entry) s = .next (s.entryVoid entry)) ∧
  (∀ (entry : Nat) (a : ArmEntry) (s : State), s.t.cmpAck = false →
      s.tsu.lfn ≤ (fireEdge a.fire).lfn →
      3 ≤ a.state ∨ s.stageFits a = true →
      s.fireOther entry a = (s.fireEntry entry a).entryFired entry) ∧
  (∀ (entry : Nat) (a : ArmEntry) (s : State), Runs s .tsu →
      s.dueEntry entry 4 = some a →
      s.abortCovers a = false →
      s.timeValid .tsu = true →
      exec (.epochApply entry) s = .next (((s.abortChannels a.cz).foldl (fun s x => s.modT fun t => { t with chans := fset t.chans x.1 (x.2.setEpoch a.cz.step a.cz.payload) }) s).entryFired entry)) ∧
  (∀ (c : TsuChan) (step e : Nat) (s : State), (c.setEpoch step e).epoch = e ∧ (step, e) ∈ (c.setEpoch step e).epochs ∧ ∀ x ∈ c.epochs, x.1 < step → x ∈ (c.setEpoch step e).epochs) ∧
  (∀ (entry : Nat) (lvlReq : List Nat) (a : ArmEntry) (s : State), Runs s .tsu →
      s.dueEntry entry 2 = some a →
      s.timeValid .tsu = true →
      s.isTick s.tsu.lfn = true →
      exec (.frequencyCrozierFire entry lvlReq) s = .next ((((s.wr F.lvlCapCap (a.cz.payload % 16)).entryFired entry).sampleLvl lvlReq).commitLvl)) ∧
  (∀ (x : PendAbort) (s : State), Runs s .tsu →
      s.dueAbort = some x →
      x.cz.payload = 2 →
      exec (.abortAct) s = .next ((((s.modT fun t => { t with aborts := t.aborts.map fun y => if y = x then { y with done := true } else y })).abortChannels x.cz).foldl (fun s y => s.destroyChannel x.cz ⟨extend32 x.cz.fireLfn x.act.lfn, x.cz.fireSub⟩ y.1 y.2) (s.modT fun t => { t with aborts := t.aborts.map fun y => if y = x then { y with done := true } else y }))) ∧
  (∀ (x : PendAbort) (s : State), Runs s .tsu →
      s.dueAbort = some x →
      x.cz.payload ≠ 2 →
      exec (.abortAct) s = .next ((((s.modT fun t => { t with aborts := t.aborts.map fun y => if y = x then { y with done := true } else y })).abortChannels x.cz).foldl (fun s y => s.abortChannel x.cz ⟨extend32 x.cz.fireLfn x.act.lfn, x.cz.fireSub⟩ y.1 y.2) (s.modT fun t => { t with aborts := t.aborts.map fun y => if y = x then { y with done := true } else y }))) ∧
  (∀ (lvlReq : List Nat) (s : State), Runs s .tsu →
      s.isTick s.tsu.lfn = true →
      s.timeState .tsu ≠ 0 →
      exec (.frameTick lvlReq) s = .next ((((((s.t.steps.foldl (fun s o => s.closeStep o) s).resetSteps.purgeSteps).t.arm.map (·.1)).foldl (fun s e => s.takeCap e) ((s.t.steps.foldl (fun s o => s.closeStep o) s).resetSteps.purgeSteps)).sampleLvl lvlReq).commitLvl)) ∧
  (∀ (lvlReq : List Nat) (s : State), Runs s .tsu →
      s.isTick s.tsu.lfn = false ∨ s.timeState .tsu = 0 →
      exec (.frameTick lvlReq) s = .next (s)) ∧
  (∀ (o : OpenStep) (s : State), o.tick + s.frameLen ≠ s.tsu.lfn →
      s.closeStep o = s)

/-- A peristome configuration in range stores source and argument and shows the state; one out of range changes nothing. At an LFN that is a multiple of 64 with a configured peristome the vector is taken, shown and contributed as one AND and one OR contribution with neutral values for the others. A scope table stores its fields, core sets, partition and role, pending or valid, or leaves the die without a role. A frame grid of a legal length at least 1,024 link frames ahead, or a running one that a spare whose role is pending takes over, is stored and valid, and one that changes the grid sets the level cap to 15 and forgets the level requests; a grid nearer than that is refused. A write of TSU_ARM_MARGIN with clear restores the least margin to its greatest value. -/
def Obligations.TsuTablesAreLoaded : Prop :=
  (∀ (index source arg : Nat) (s : State), Runs s .tsu →
      index < 256 →
      source < 7 →
      exec (.peristomeConfig index source arg) s = .next (((s.wr F.periCfgSource source index).wr F.periCfgArg arg index).showTsuPeri index)) ∧
  (∀ (index source arg : Nat) (s : State), Runs s .tsu →
      256 ≤ index ∨ 7 ≤ source →
      exec (.peristomeConfig index source arg) s = .next (s)) ∧
  (∀ (s : State), Runs s .tsu →
      s.tsu.lfn % 64 = 0 →
      ((List.range 256).filter fun k => s.rd F.periCfgSource k != 0).isEmpty = false →
      exec (.peristomePoll) s = .next ((let v := ((List.range 256).filter fun k => s.rd F.periCfgSource k != 0).filter fun k => s.periBit k == 1
        let t := (List.range 256).foldl (fun s k => s.showTsuPeri k) s
        let off := (List.range 256).filter fun k => t.rd F.periCfgSource k == 0
        ((((t.emit .tsu (.periVector (v ++ off))).emit .tsu (.periVector v)).sendPoll 5 (v ++ off)).sendPoll 6 v)))) ∧
  (∀ (tbl : ScopeTable) (pend : Bool) (r : Nat) (s : State), Runs s .tsu →
      tbl.role = some r →
      exec (.scopeTableLoad tbl pend) s = .next ((let t := (((List.range 15).foldl (fun s i => (List.range 8).foldl (fun s w => s.wr F.coresetMask (bits (tbl.coresets.getD i 0) (32 * w) 32) i w) s)
          (((((s.wr F.scopePodPod tbl.pod).wr F.scopePkgBrdPackage tbl.package).wr F.scopePkgBrdBoard tbl.board).wr
            F.scopeChassisChassis tbl.chassis).wr F.scopeChassisNested (b2n tbl.nested)))).modT fun t => { t with partition := some tbl.partition, readySent := false }
        ((((t.wr F.roleRole r).wr F.roleRoleValid (b2n (!pend))).wr F.thealthRolePending (b2n pend))).oweReady))) ∧
  (∀ (tbl : ScopeTable) (pend : Bool) (s : State), Runs s .tsu →
      tbl.role = none →
      exec (.scopeTableLoad tbl pend) s = .next ((let t := (((List.range 15).foldl (fun s i => (List.range 8).foldl (fun s w => s.wr F.coresetMask (bits (tbl.coresets.getD i 0) (32 * w) 32) i w) s)
          (((((s.wr F.scopePodPod tbl.pod).wr F.scopePkgBrdPackage tbl.package).wr F.scopePkgBrdBoard tbl.board).wr
            F.scopeChassisChassis tbl.chassis).wr F.scopeChassisNested (b2n tbl.nested)))).modT fun t => { t with partition := none, readySent := false }
        ((t.wr F.roleRole 0).wr F.roleRoleValid 0).wr F.thealthRolePending 0))) ∧
  (∀ (k origin : Nat) (s : State), Runs s .tsu →
      3 ≤ k →
      k ≤ 20 →
      s.tsu.lfn + 1024 ≤ origin ∨ s.is F.thealthRolePending = true →
      s.gridValid = false ∨ s.rd F.frameCfgFLog2 ≠ k ∨ s.gridOrigin ≠ origin →
      exec (.frameGridLoad (2 ^ k) origin) s = .next ((((((s.wr F.frameCfgFLog2 k).wr64 F.frameOriginLoOrigin F.frameOriginHiOrigin origin).wr (F.timeStatusGridValid .tsu) 1).wr F.lvlCapCap 15).modT fun t => { t with lvlReq := [], lvlSampleAt := none }))) ∧
  (∀ (k origin : Nat) (s : State), Runs s .tsu →
      3 ≤ k →
      k ≤ 20 →
      s.tsu.lfn + 1024 ≤ origin ∨ s.is F.thealthRolePending = true →
      s.gridValid = true →
      s.rd F.frameCfgFLog2 = k →
      s.gridOrigin = origin →
      exec (.frameGridLoad (2 ^ k) origin) s = .next (((s.wr F.frameCfgFLog2 k).wr64 F.frameOriginLoOrigin F.frameOriginHiOrigin origin).wr (F.timeStatusGridValid .tsu) 1)) ∧
  (∀ (k origin : Nat) (s : State), Runs s .tsu →
      3 ≤ k →
      k ≤ 20 →
      origin < s.tsu.lfn + 1024 →
      s.is F.thealthRolePending = false →
      exec (.frameGridLoad (2 ^ k) origin) s = .next (s)) ∧
  (∀ (v : Word) (s : State), Runs s .tsu →
      bit v.toNat 31 = true →
      exec (.clrMargin v) s = .next ((s.regWrite .tsu 0x5800 v.toNat false false).wr F.armMarginMinMargin 0xFFFFFFFF))

/-- A read of an entry of which the handle matches answers its context and data beats, through the channel cache, and stale for any other. An acknowledge of a staged word adds its target to the entry's acknowledged ones. After bring-up step B3 the generations are replayed once, between the edges of GEN_SYNC. A memory response frees its tag, which the request that waits longest takes; an error stops the ring pair with cause 3 for a write and 2 for a read; without a missing response the completions held for a result, and an owed message, go out; a carve-out read is made again once, and logged with code 0x30 when it fails again. An optical-engine interrupt, and the poll every 2^20 link frames, read the engine. -/
def Obligations.BoundaryWordsActAtTheTsu : Prop :=
  (∀ (entry target handle : Nat) (s : State), Runs s .tsu →
      (fget? s.t.arm entry).filter (fun a => a.cz.handle == handle) = none →
      exec (.entryRead entry target handle) s = .next (s.emit .tsu (.entryBeat (List.replicate 64 0) true))) ∧
  (∀ (entry target handle : Nat) (a : ArmEntry) (s : State), Runs s .tsu →
      (fget? s.t.arm entry).filter (fun a => a.cz.handle == handle) = some a →
      exec (.entryRead entry target handle) s = .next (((if a.cz.handle = 0 then s else s.cacheLook (hIndex a.cz.handle)).emit .tsu (.entryBeat ((if a.cz.handle = 0 then s else s.cacheLook (hIndex a.cz.handle)).entryCtx a) false)).emit .tsu (.entryBeat ((if a.cz.handle = 0 then s else s.cacheLook (hIndex a.cz.handle)).entryData a) false))) ∧
  (∀ (region target entry : Nat) (s : State), Runs s .tsu →
      ((s.region region).staged.any fun w => w.1 == entry && w.2.1 == target) = true →
      exec (.lwAck region target entry) s = .next (s.modEntry entry fun a => { a with acked := if a.acked.contains target then a.acked else a.acked ++ [target] })) ∧
  (∀ (s : State), Runs s .tsu →
      s.t.genSynced = false →
      s.ended .tsu 3 = true →
      exec (.genSyncReplay) s = .next (((((s.emit .tsu (.pin .genSync 1)).emit .tsu (.genTable s.replayWords)).emit .tsu (.pin .genSync 0)).modT fun t =>
        { t with genSynced := true }).oweReady)) ∧
  (∀ (s : State), Runs s .tsu →
      s.t.genSynced = true ∨ s.ended .tsu 3 = false →
      exec (.genSyncReplay) s = .next (s)) ∧
  (∀ (tag r : Nat) (w : Bool) (s : State), Runs s .tsu →
      fget? s.t.memReqs tag = some (.ring r w) →
      exec (.memoryResponse tag false) s = .next (((s.modT fun t => { t with memReqs := fdel t.memReqs tag }).nextRequest).released r)) ∧
  (∀ (tag r : Nat) (w : Bool) (s : State), Runs s .tsu →
      fget? s.t.memReqs tag = some (.ring r w) →
      exec (.memoryResponse tag true) s = .next ((((s.modT fun t => { t with memReqs := fdel t.memReqs tag }).nextRequest).stopRing .tsu r (if w = true then 3 else 2)).released r)) ∧
  (∀ (tag r seq : Nat) (err : Bool) (s : State), Runs s .tsu →
      fget? s.t.memReqs tag = some (.result r seq) →
      exec (.memoryResponse tag err) s = .next ((if err = true then ((s.modT fun t => { t with memReqs := fdel t.memReqs tag }).nextRequest).stopRing .tsu r 3 else ((s.modT fun t => { t with memReqs := fdel t.memReqs tag }).nextRequest)).released r)) ∧
  (∀ (tag r : Nat) (s : State), Runs s .tsu →
      fget? s.t.memReqs tag = some (.msix (some r)) →
      exec (.memoryResponse tag true) s = .next (((s.modT fun t => { t with memReqs := fdel t.memReqs tag }).nextRequest).stopRing .tsu r 3)) ∧
  (∀ (tag i : Nat) (s : State), Runs s .tsu →
      fget? s.t.memReqs tag = some (.carve i false) →
      exec (.memoryResponse tag true) s = .next (((s.modT fun t => { t with memReqs := fdel t.memReqs tag }).nextRequest).memRequest (.carve i true))) ∧
  (∀ (tag i : Nat) (s : State), Runs s .tsu →
      fget? s.t.memReqs tag = some (.carve i true) →
      exec (.memoryResponse tag true) s = .next (((s.modT fun t => { t with memReqs := fdel t.memReqs tag }).nextRequest).logErr .tsu 0x0030 noPort i)) ∧
  (∀ (q : MemReq) (l : List MemReq) (s : State), s.t.memWait = q :: l →
      s.nextRequest = (s.modT fun t => { t with memWait := l }).memRequest q) ∧
  (∀ (r : Nat) (x : Nat × Completion) (s : State), (s.ring .tsu r).held = [x] →
      s.memOpen (.result r x.1) = false →
      (((s.modRing .tsu r fun t => { t with held := [] }).complete .tsu r x.2).ring .tsu r).irqOwed = false →
      s.released r = (s.modRing .tsu r fun t => { t with held := [] }).complete .tsu r x.2) ∧
  (∀ (status : Nat) (rx : List Int) (s : State), Runs s .tsu →
      exec (.oeInterrupt status rx) s = .next (s.readEngine status rx)) ∧
  (∀ (status : Nat) (rx : List Int) (s : State), Runs s .tsu →
      s.tsu.lfn % 2 ^ 20 = 0 →
      exec (.oePoll status rx) s = .next (s.readEngine status rx)) ∧
  (∀ (status : Nat) (rx : List Int) (s : State), Runs s .tsu →
      s.tsu.lfn % 2 ^ 20 ≠ 0 →
      exec (.oePoll status rx) s = .next (s))

/-- A completion contribution of a position that belongs to no role is counted late; a second copy is left alone; at the apex of its partition it is held as an input and elsewhere forwarded up. A layout report is held at the apex and sent on elsewhere. An active member fixes the commit count of an input when it holds it, commit_lf link frames on, and tells the shadow, a descriptor in full. A committed input whose count has come, with none before it, leaves the list and is applied; another stays. A notice at an active member commits the input that the shadow has sent; at a shadow one in time stores its commit count, adds a forwarded descriptor, or waits for its input, and a late one puts the groups concerned into resync. An input without a notice for twice commit_lf is sent to the active member. -/
def Obligations.ConductorInputsAreHeldAndCommitted : Prop :=
  (∀ (pos : Nat) (second : Bool) (c : CompContrib) (s : State), Runs s .dbx →
      (s.rolesAt c.partition pos).isEmpty = true →
      exec (.completionContribution pos second c) s = .next (s.bump F.condLateDiscCount)) ∧
  (∀ (pos : Nat) (c : CompContrib) (s : State), Runs s .dbx →
      (s.rolesAt c.partition pos).isEmpty = false →
      exec (.completionContribution pos true c) s = .next (s)) ∧
  (∀ (pos : Nat) (c : CompContrib) (k : Nat) (s : State), Runs s .dbx →
      (s.rolesAt c.partition pos).isEmpty = false →
      s.apexSlot c.partition = some k →
      exec (.completionContribution pos false c) s = .next (s.holdInput (some k) (.aggregate c))) ∧
  (∀ (pos : Nat) (c : CompContrib) (s : State), Runs s .dbx →
      (s.rolesAt c.partition pos).isEmpty = false →
      s.apexSlot c.partition = none →
      exec (.completionContribution pos false c) s = .next (s.forwardCompl c.partition c)) ∧
  (∀ (partition uid port dir k : Nat) (degraded : Bool) (s : State), Runs s .dbx →
      s.apexSlot partition = some k →
      exec (.layoutReport partition uid port dir degraded) s = .next (s.holdInput (some k) (.layout partition uid port dir degraded))) ∧
  (∀ (partition uid port dir : Nat) (degraded : Bool) (s : State), Runs s .dbx →
      s.apexSlot partition = none →
      exec (.layoutReport partition uid port dir degraded) s = .next (s.mgmtUp .dbx 7 partition [port, dir, b2n degraded, uid])) ∧
  (∀ (slot : Option Nat) (k : InputKind) (s : State), s.condRole = 0 →
      s.d.notices = [] →
      s.holdInput slot k = (s.modD fun d => { d with inputs := d.inputs ++ [⟨d.nextId, k, s.dbx.lfn, some (s.dbx.lfn + s.commitLf slot), slot⟩], nextId := d.nextId + 1 }).emit .dbx (.input 1 k (some (s.dbx.lfn + s.commitLf slot)))) ∧
  (∀ (id t : Nat) (x : Input) (s : State), Runs s .dbx →
      (s.d.inputs.find? fun x => x.id == id) = some x →
      x.commitAt = some t →
      t ≤ s.dbx.lfn →
      s.condRole ≠ 3 →
      (s.d.inputs.any fun y => y.commitAt.isSome && inputBefore y x) = false →
      exec (.inputCommit id) s = .next ((s.modD fun d => { d with inputs := d.inputs.filter fun y => y.id != id }).applyInput x.kind)) ∧
  (∀ (id t : Nat) (x : Input) (s : State), Runs s .dbx →
      (s.d.inputs.find? fun x => x.id == id) = some x →
      x.commitAt = some t →
      s.dbx.lfn < t →
      exec (.inputCommit id) s = .next (s)) ∧
  (∀ (k : InputKind) (commitLfn : Nat) (s : State), Runs s .dbx →
      s.condRole = 0 →
      (s.d.inputs.any fun x => x.kind == k) = false →
      exec (.commitNoticeReceived k commitLfn) s = .next (s.holdInput (s.inputSlot k) k)) ∧
  (∀ (k : InputKind) (commitLfn : Nat) (s : State), Runs s .dbx →
      s.condRole = 0 →
      (s.d.inputs.any fun x => x.kind == k) = true →
      exec (.commitNoticeReceived k commitLfn) s = .next (s)) ∧
  (∀ (k : InputKind) (commitLfn : Nat) (x : Input) (s : State), Runs s .dbx →
      s.condRole = 1 →
      (s.d.inputs.find? fun x => x.kind == k && x.commitAt.isNone) = some x →
      s.dbx.lfn ≤ commitLfn →
      exec (.commitNoticeReceived k commitLfn) s = .next (s.modD fun d => { d with inputs := d.inputs.map fun y => if y.id = x.id then { y with commitAt := some commitLfn } else y })) ∧
  (∀ (k : InputKind) (commitLfn : Nat) (x : Input) (s : State), Runs s .dbx →
      s.condRole = 1 →
      (s.d.inputs.find? fun x => x.kind == k && x.commitAt.isNone) = some x →
      commitLfn < s.dbx.lfn →
      exec (.commitNoticeReceived k commitLfn) s = .next (((s.concerned k).map groupOf).eraseDups.foldl State.enterResync (s.modD fun d => { d with inputs := d.inputs.filter fun y => y.id != x.id }))) ∧
  (∀ (k : InputKind) (commitLfn : Nat) (s : State), Runs s .dbx →
      s.condRole = 1 →
      (s.d.inputs.find? fun x => x.kind == k && x.commitAt.isNone) = none →
      commitLfn < s.dbx.lfn →
      exec (.commitNoticeReceived k commitLfn) s = .next (((s.concerned k).map groupOf).eraseDups.foldl State.enterResync s)) ∧
  (∀ (ring seq tenant kind commitLfn : Nat) (dsc : Desc) (s : State), Runs s .dbx →
      s.condRole = 1 →
      (s.d.inputs.find? fun x => x.kind == .descriptor ring seq dsc tenant kind && x.commitAt.isNone) = none →
      s.dbx.lfn ≤ commitLfn →
      exec (.commitNoticeReceived (.descriptor ring seq dsc tenant kind) commitLfn) s = .next ((s.modD fun d => { d with inputs := d.inputs ++ [⟨d.nextId, .descriptor ring seq dsc tenant kind, s.dbx.lfn, some commitLfn, s.inputSlot (.descriptor ring seq dsc tenant kind)⟩], nextId := d.nextId + 1 }))) ∧
  (∀ (k : InputKind) (commitLfn : Nat) (s : State), Runs s .dbx →
      s.condRole = 1 →
      (s.d.inputs.find? fun x => x.kind == k && x.commitAt.isNone) = none →
      s.dbx.lfn ≤ commitLfn →
      (∀ ring seq dsc tenant kind, k ≠ .descriptor ring seq dsc tenant kind) →
      exec (.commitNoticeReceived k commitLfn) s = .next (s.modD fun d => { d with notices := d.notices ++ [(k, commitLfn)] })) ∧
  (∀ (id : Nat) (x : Input) (s : State), Runs s .dbx →
      (s.d.inputs.find? fun x => x.id == id) = some x →
      s.condRole = 1 →
      x.commitAt = none →
      x.heldAt + 2 * s.commitLf x.slot ≤ s.dbx.lfn →
      exec (.commitNoticeTimeout id) s = .next (s.emit .dbx (.input 2 x.kind none))) ∧
  (∀ (id : Nat) (x : Input) (s : State), Runs s .dbx →
      (s.d.inputs.find? fun x => x.id == id) = some x →
      s.condRole = 1 →
      x.commitAt = none →
      s.dbx.lfn < x.heldAt + 2 * s.commitLf x.slot →
      exec (.commitNoticeTimeout id) s = .next (s))

/-- A member that serves a slot emits the queued croziers due in the next link frame up to its cap, and one with none due nothing. At the end of a map period the meters are cleared and the channels that wait for the meter run. At a compare a member sends its 64 group digests; an active one adds what it has reported; with an equal twin and no resync under way it shows in_step and remembers the count, and one that hands its activity over turns shadow while the shadow that hears so turns active, commits what it holds and writes its queued posts. A shadow drops queued posts that the active member has reported. A group that differs is counted, logged and put into resync. A resync copy for a group in resync ends it at the active member. A channel in REPLAY without a wait restarts at its count. A shadow whose twin is lost by its downlinks, or that has missed two compares, takes over, and one that cannot tell turns passive. A handback request of the active member in step is kept, another is refused. A write of the channel selector shows the record of the selected channel. -/
def Obligations.ConductorPairStaysInStep : Prop :=
  (∀ (slot : Nat) (s : State), Runs s .dbx →
      s.condRole ≠ 3 →
      s.slotServes slot = true →
      ((s.czQueue slot).filter fun x => x.at_ ≤ s.dbx.lfn + 1) = [] →
      exec (.crozierEmission slot) s = .next (s)) ∧
  (∀ (slot : Nat) (x : CzQ) (s : State), Runs s .dbx →
      s.condRole ≠ 3 →
      s.slotServes slot = true →
      s.czQueue slot = [x] →
      x.at_ = s.dbx.lfn + 1 →
      fget? s.d.czSent slot = none →
      0 < s.czCap slot →
      x.abort = true →
      exec (.crozierEmission slot) s = .next ((let t := (s.modD fun d => { d with czq := fset d.czq slot [], czSent := fset d.czSent slot (s.dbx.lfn + 1, 1) })
        if t.silentFor x.ch = true then t
        else t.sendDown (s.slotPart slot) 1 (t.czRoles (s.slotPart slot) x.cz) (.crozier x.cz)))) ∧
  (∀ (slot : Nat) (x : CzQ) (s : State), Runs s .dbx →
      s.condRole ≠ 3 →
      s.slotServes slot = true →
      s.czQueue slot = [x] →
      x.at_ = s.dbx.lfn + 1 →
      fget? s.d.czSent slot = none →
      0 < s.czCap slot →
      x.abort = false →
      fget? s.d.czMeter x.plan = none →
      exec (.crozierEmission slot) s = .next ((let t := (s.modD fun d => { d with czq := fset d.czq slot [], czSent := fset d.czSent slot (s.dbx.lfn + 1, 1) }).modD fun d => { d with czMeter := fset d.czMeter x.plan ((s.dbx.lfn + 1) / 16, 1) }
        if t.silentFor x.ch = true then t
        else t.sendDown (s.slotPart slot) 1 (t.czRoles (s.slotPart slot) x.cz) (.crozier x.cz)))) ∧
  (∀ (s : State), Runs s .dbx →
      s.dbx.lfn % 16 = 0 →
      exec (.meterPeriod) s = .next ((s.d.chans.filter fun x => x.2.wait == .meter && x.2.r.exec == 2).foldl (fun s x => s.runCh x.1) (s.modD fun d => { d with meters := [] }))) ∧
  (∀ (s : State), Runs s .dbx →
      s.dbx.lfn % 16 ≠ 0 →
      exec (.meterPeriod) s = .next (s)) ∧
  (∀ (twin : List Nat) (differing : List (Nat × List Nat)) (msg : TwinMsg) (s : State), Runs s .dbx →
      s.pairUp = true →
      s.compareDue = true →
      s.d.resync = [] →
      twin = (List.range 64).map s.groupDigest →
      s.condRole = 0 →
      s.d.handing = false →
      exec (.groupDigestCompare twin differing msg) s = .next ((((s.emit .dbx (.compare twin s.reported false)).modD fun d => { d with resync := [], lastCmp := s.dbx.lfn, cmpNow := false, posts := d.posts }).wr F.condStatusInStep 1).showSec)) ∧
  (∀ (twin : List Nat) (differing : List (Nat × List Nat)) (msg : TwinMsg) (s : State), Runs s .dbx →
      s.pairUp = true →
      s.compareDue = true →
      s.d.resync = [] →
      twin = (List.range 64).map s.groupDigest →
      s.condRole = 0 →
      s.d.handing = true →
      exec (.groupDigestCompare twin differing msg) s = .next ((((((s.emit .dbx (.compare twin s.reported true)).modD fun d => { d with resync := [], lastCmp := s.dbx.lfn, cmpNow := false, posts := d.posts }).wr F.condStatusInStep 1).showSec).setRole 1).modD fun d => { d with handing := false })) ∧
  (∀ (twin : List Nat) (differing : List (Nat × List Nat)) (msg : TwinMsg) (s : State), Runs s .dbx →
      s.pairUp = true →
      s.compareDue = true →
      s.d.resync = [] →
      twin = (List.range 64).map s.groupDigest →
      s.condRole = 1 →
      msg.handback = true →
      exec (.groupDigestCompare twin differing msg) s = .next ((let t := (((s.emit .dbx (.compare twin [] s.d.handing)).modD fun d => { d with resync := [], lastCmp := s.dbx.lfn, cmpNow := false, posts := unreported d.posts msg.posts }).wr F.condStatusInStep 1).showSec
        (t.d.posts.map (·.1)).eraseDups.foldl State.flushPosts (t.setRole 0).commitHeld))) ∧
  (∀ (twin : List Nat) (differing : List (Nat × List Nat)) (msg : TwinMsg) (s : State), Runs s .dbx →
      s.pairUp = true →
      s.compareDue = true →
      s.d.resync = [] →
      twin = (List.range 64).map s.groupDigest →
      s.condRole = 1 →
      msg.handback = false →
      exec (.groupDigestCompare twin differing msg) s = .next ((((s.emit .dbx (.compare twin [] s.d.handing)).modD fun d => { d with resync := [], lastCmp := s.dbx.lfn, cmpNow := false, posts := unreported d.posts msg.posts }).wr F.condStatusInStep 1).showSec)) ∧
  (∀ (group : Nat) (records : List (Nat × CondChan)) (s : State), Runs s .dbx →
      s.d.resync.contains group = true →
      s.condRole ≠ 1 →
      s.d.badRecs = [] →
      exec (.resyncCopyComplete group records) s = .next ((let t := s.modD fun d => { d with resync := s.d.resync.filter (· != group) }
        t.wr F.condStatusResyncBusy (b2n (t.d.resync.any (· < 64)))))) ∧
  (∀ (group : Nat) (records : List (Nat × CondChan)) (s : State), Runs s .dbx →
      s.d.resync.contains group = true →
      s.condRole = 1 →
      exec (.resyncCopyComplete group records) s = .next ((let t := (records.filter fun x => groupOf x.1 == group).foldl State.takeRecord <|
          (s.modD fun d => { d with resync := s.d.resync.filter (· != group) ++ [group + 64] });
        t.wr F.condStatusResyncBusy (b2n (t.d.resync.any (· < 64)))))) ∧
  (∀ (ch : Nat) (c : CondChan) (s : State), Runs s .dbx →
      s.chan ch = some c →
      c.r.exec = 6 →
      c.wait = .none →
      c.replayAt ≤ s.dbx.lfn →
      s.condRole ≠ 3 →
      exec (.replayRestart ch) s = .next (s.runCh ch)) ∧
  (∀ (s : State), Runs s .dbx →
      s.condRole = 1 →
      s.dbx.lfn % 64 = 0 →
      s.pairUp = false →
      s.twinLost = true →
      exec (.conductorTakeover) s = .next (s.takeOver)) ∧
  (∀ (s : State), Runs s .dbx →
      s.condRole = 1 →
      s.dbx.lfn % 64 = 0 →
      s.pairUp = false →
      s.twinLost = false →
      exec (.conductorTakeover) s = .next (s.setRole 3)) ∧
  (∀ (s : State), Runs s .dbx →
      s.condRole = 1 →
      s.dbx.lfn % 64 = 0 →
      s.pairUp = true →
      s.d.lastCmp + 128 ≤ s.dbx.lfn →
      exec (.conductorTakeover) s = .next (s.takeOver)) ∧
  (∀ (v : Word) (s : State), Runs s .dbx →
      bit v.toNat 0 = true →
      (s.regWrite .dbx 0x50000 v.toNat false true).condRole = 0 →
      (s.regWrite .dbx 0x50000 v.toNat false true).is F.condStatusInStep = true →
      (s.regWrite .dbx 0x50000 v.toNat false true).pairUp = true →
      (s.regWrite .dbx 0x50000 v.toNat false true).d.resync = [] →
      exec (.handback v) s = .next ((s.regWrite .dbx 0x50000 v.toNat false true).modD fun d => { d with handing := true })) ∧
  (∀ (v : Word) (s : State), Runs s .dbx →
      bit v.toNat 0 = true →
      (s.regWrite .dbx 0x50000 v.toNat false true).condRole ≠ 0 →
      exec (.handback v) s = .next ((s.regWrite .dbx 0x50000 v.toNat false true).wr F.condStatusHandbackRefused 1)) ∧
  (∀ (v : Word) (c : CondChan) (s : State), Runs s .dbx →
      (s.regWrite .dbx 0x57000 v.toNat false true).chan ((s.regWrite .dbx 0x57000 v.toNat false true).rd F.condChSelIndex) = some c →
      exec (.chSelSnapshot v) s = .next ((List.range 64).foldl (fun s k => s.wr F.condChDataData (if k = 40 ∨ k = 41 then 0 else (recWords c.r).getD k 0) k) (s.regWrite .dbx 0x57000 v.toNat false true))) ∧
  (∀ (v : Word) (s : State), Runs s .dbx →
      (s.regWrite .dbx 0x57000 v.toNat false true).chan ((s.regWrite .dbx 0x57000 v.toNat false true).rd F.condChSelIndex) = none →
      exec (.chSelSnapshot v) s = .next ((List.range 64).foldl (fun s k => s.wr F.condChDataData 0 k) (s.regWrite .dbx 0x57000 v.toNat false true)))

/-- A PLAN_LOAD of the ring's tenant whose image verifies under the slot's signing key and is valid for the slot, and whose plan fits the store and the links' demand, binds the plan at the lowest free index, shows the store and completes with the index; each failed check completes with its status in the order tenant, signature, image, space. PLAN_RETIRE marks a bound plan of its tenant, which is dropped when no channel is bound to it, and completes with OK; one that is not bound, or already retires, completes with NO_PLAN, and one of another tenant with TENANT. A channel that waits for a reloaded word runs on, and the word is whole again. A member that returns, or leaves passive, takes every record and image of the twin and becomes its shadow. -/
def Obligations.PlanStoreLoadsAndRetires : Prop :=
  (∀ (ring seq : Nat) (f : InFlight) (s : State), Runs s .dbx →
      Asked s .dbx ring seq 0x10 f →
      imTenant f.desc.ext ≠ f.tenant →
      exec (.planLoad ring seq) s = .next ((s.begin_ .dbx ring seq).finish .dbx ring seq 7 0 0)) ∧
  (∀ (ring seq : Nat) (f : InFlight) (s : State), Runs s .dbx →
      Asked s .dbx ring seq 0x10 f →
      imTenant f.desc.ext = f.tenant →
      exec (.planLoad ring seq) s = .next ((let b := s.begin_ .dbx ring seq
        let im := f.desc.ext
        let slot := opnd f.desc 40 1
        let plan := planOfImage im slot (b.freePage (imPages im))
        if Config.ecdsaVerify (fgetD b.d.owners slot (0, 0)).2 (imDigest im) (leNat im 416 96) = false then b.finish .dbx ring seq 0x10 0 0
        else if b.planValid slot im = false then b.finish .dbx ring seq 0x11 0 0
        else if b.planFits slot plan = false then b.finish .dbx ring seq 0x12 0 0
        else ((b.modD fun d => { d with plans := fset d.plans b.freePlan plan }).showStore slot).finish .dbx ring seq 0 b.freePlan 0))) ∧
  (∀ (ring seq : Nat) (f : InFlight) (q : Plan) (s : State), Runs s .dbx →
      Asked s .dbx ring seq 0x11 f →
      fget? s.d.plans (opnd f.desc 40 2) = some q →
      q.retiring = false →
      q.tenant = f.tenant →
      exec (.planRetire ring seq) s = .next (((((s.begin_ .dbx ring seq).modD fun d => { d with plans := fset d.plans (opnd f.desc 40 2) { q with retiring := true } }).showPlan).dropPlan (opnd f.desc 40 2)).finish .dbx ring seq 0 0 0)) ∧
  (∀ (ring seq : Nat) (f : InFlight) (q : Plan) (s : State), Runs s .dbx →
      Asked s .dbx ring seq 0x11 f →
      fget? s.d.plans (opnd f.desc 40 2) = some q →
      q.retiring = false →
      q.tenant ≠ f.tenant →
      exec (.planRetire ring seq) s = .next ((s.begin_ .dbx ring seq).finish .dbx ring seq 7 0 0)) ∧
  (∀ (ring seq : Nat) (f : InFlight) (q : Plan) (s : State), Runs s .dbx →
      Asked s .dbx ring seq 0x11 f →
      fget? s.d.plans (opnd f.desc 40 2) = some q →
      q.retiring = true →
      exec (.planRetire ring seq) s = .next ((s.begin_ .dbx ring seq).finish .dbx ring seq 0x13 0 0)) ∧
  (∀ (ring seq : Nat) (f : InFlight) (s : State), Runs s .dbx →
      Asked s .dbx ring seq 0x11 f →
      fget? s.d.plans (opnd f.desc 40 2) = none →
      exec (.planRetire ring seq) s = .next ((s.begin_ .dbx ring seq).finish .dbx ring seq 0x13 0 0)) ∧
  (∀ (i : Nat) (q : Plan) (s : State), fget? s.d.plans i = some q →
      q.retiring = true →
      s.planChans i = [] →
      s.dropPlan i = (s.modD fun d => { d with plans := fdel d.plans i }).showStore q.slot) ∧
  (∀ (ch : Nat) (c : CondChan) (s : State), Runs s .dbx →
      s.chan ch = some c →
      c.wait = .reload →
      exec (.storeReloadComplete ch) s = .next ((s.modD fun d => { d with badWords := d.badWords.filter (· != (c.r.plan, c.r.variant, c.r.pc)) }).runCh ch)) ∧
  (∀ (records : List (Nat × CondChan)) (images : List PlanCopy) (s : State), Runs s .dbx →
      s.pairUp = true →
      s.condRole = 3 ∨ s.d.chans = [] →
      exec (.shadowCopyComplete records images) s = .next ((let t := s.modD fun d => { d with chans := [], plans := [], inputs := [], notices := [], lastCmp := s.dbx.lfn }
        let u := images.foldl (fun s x =>
          (s.modD fun d => { d with plans := fset d.plans x.index { planOfImage x.image x.slot x.page with retiring := x.retiring } }).showStore x.slot) t
        (records.foldl State.takeRecord u).setRole 1))) ∧
  (∀ (x : Nat × CondChan) (s : State), (s.takeRecord x) = (s.modD fun d => { d with chans := fset d.chans x.1 { x.2 with readyAt := s.dbx.lfn }, badRecs := d.badRecs.filter (· != x.1), foundRecs := d.foundRecs.filter (· != x.1) }).showBound x.2.r.slot)

/-- A LAUNCH word whose turn it is, and that at the end of a step finds a crozier position, passes its channel's step boundary where it is the first of a run and then appends to the run its target entry, type, offsets and payload and moves to the next word; with the end bit set the step closes: its croziers are placed and its number rises. Within a run there is no boundary; at the first word of a step a pause that waits takes effect instead. An EPOCH word appends an epoch crozier for its channel, or for all, and makes its value pending. Each word counts for its plan's meter, its partition's rate and its engine; a plan whose map period has no room waits for the next one and counts. -/
def Obligations.LaunchAndEpochWordsGather : Prop :=
  (∀ (ch w : Nat) (c : CondChan) (q : Plan) (s : State), Runs s .dbx →
      WordAt s ch 1 c q w →
      ((if bits w 45 2 = 3 then [0] else []).any fun g => c.outst.any fun x => x.2 == g) = false →
      (bit w 47 = true → s.czCap c.r.slot ≠ 0) →
      exec (.launch ch) s = .next ((s.countWord ch c).atBoundary ch (!c.inRun) q w fun w s =>
          let t := s.modCh ch fun c => { c with run := c.run ++ [⟨c.r.pc, false, false, bits w 33 12, bits w 48 3, bits w 13 20, bits w 0 13, launchPayload c.r q w, none⟩], r := { c.r with pc := c.r.pc + 1 } }
          if bit w 47 = true then t.closeCondStep ch q else t)) ∧
  (∀ (ch w : Nat) (c : CondChan) (q : Plan) (s : State), Runs s .dbx →
      s.condRole ≠ 3 →
      s.chan ch = some c →
      chanReady c = true →
      s.turn ch c = true →
      s.planOf c = some q →
      q.word c.r.variant c.r.pc = some w →
      bits w 56 8 = 1 →
      q.wordsMp ≤ s.wordsUsed c.r.plan →
      s.d.badRecs.contains ch = false →
      s.d.foundRecs.contains ch = false →
      s.d.badWords.contains (c.r.plan, c.r.variant, c.r.pc) = false →
      exec (.launch ch) s = .next ((s.holdCh ch 2 .meter).bump F.condMeterWaitCount)) ∧
  (∀ (ch w : Nat) (c : CondChan) (q : Plan) (s : State), Runs s .dbx →
      WordAt s ch 9 c q w →
      ((if bit w 13 then [bits w 14 3] else []).any fun g => c.outst.any fun x => x.2 == g) = false →
      exec (.epoch ch) s = .next ((s.countWord ch c).atBoundary ch (!c.inRun && !c.r.stepOpen && leadsToLaunch q c.r.variant (q.variants.getD 0 []).length c.r.pc) q w fun w s =>
          s.modCh ch fun c => { c with run := c.run ++ [⟨c.r.pc, true, bit w 12, bits w 0 12, 4, 0, 0, 0, none⟩], r := { c.r with pc := c.r.pc + 1, pendingOk := true, pending := if bit w 13 = true then c.r.g.getD (bits w 14 3) 0 % 2 ^ 32 else bits w 17 32 } })) ∧
  (∀ (ch w : Nat) (q : Plan) (f : Nat → State → State) (c : CondChan) (s : State), s.chan ch = some c →
      s.atBoundary ch false q w f = f w s) ∧
  (∀ (ch w : Nat) (q : Plan) (f : Nat → State → State) (c : CondChan) (s : State), s.chan ch = some c →
      c.pauseBy ≠ [] →
      s.atBoundary ch true q w f = (s.uncount ch c).pauseNow ch 1) ∧
  (∀ (ch k : Nat) (c : CondChan) (s : State), (s.countWord ch c).wordsUsed c.r.plan = s.wordsUsed c.r.plan + 1)

/-- A WAITC word without an outstanding step passes; with a complete aggregate it ends the wait; else it extends the completion deadline and waits for the aggregate. At its deadline a channel that waits for an incomplete aggregate takes status MISSING and the shortfall, which is counted, and its faults are judged; where they leave it waiting, the wait ends. Before the deadline nothing happens. -/
def Obligations.WaitWordsAndDeadlines : Prop :=
  (∀ (ch w : Nat) (c : CondChan) (q : Plan) (s : State), Runs s .dbx →
      WordAt s ch 2 c q w →
      c.r.stepOpen = false →
      exec (.waitc ch) s = .next ((s.countWord ch c).nextPc ch)) ∧
  (∀ (ch w : Nat) (c : CondChan) (q : Plan) (s : State), Runs s .dbx →
      WordAt s ch 2 c q w →
      c.r.stepOpen = true →
      c.done = true →
      exec (.waitc ch) s = .next ((s.countWord ch c).endWait ch)) ∧
  (∀ (ch w : Nat) (c : CondChan) (q : Plan) (s : State), Runs s .dbx →
      WordAt s ch 2 c q w →
      c.r.stepOpen = true →
      c.done = false →
      exec (.waitc ch) s = .next (((s.countWord ch c).modCh ch fun c => { c with deadline := c.deadline + bits w 0 8 }).holdCh ch 2 .aggregate)) ∧
  (∀ (ch : Nat) (c c2 : CondChan) (s : State), Runs s .dbx →
      s.chan ch = some c →
      c.wait = .aggregate →
      c.r.exec = 2 →
      c.r.stepOpen = true →
      c.done = false →
      c.deadline ≤ s.dbx.lfn →
      (((s.modCh ch fun c => { c with r := { c.r with aggStatus := orSt c.r.aggStatus stMissing }, shortfall := c.r.expected - c.r.aggCount, dead := true }).bump F.condMissingCount).judgeFaults ch).chan ch = some c2 →
      c2.wait = .aggregate →
      c2.r.exec = 2 →
      exec (.waitcDeadline ch) s = .next ((((s.modCh ch fun c => { c with r := { c.r with aggStatus := orSt c.r.aggStatus stMissing }, shortfall := c.r.expected - c.r.aggCount, dead := true }).bump F.condMissingCount).judgeFaults ch).endWait ch)) ∧
  (∀ (ch : Nat) (c c2 : CondChan) (s : State), Runs s .dbx →
      s.chan ch = some c →
      c.wait = .aggregate →
      c.r.exec = 2 →
      c.r.stepOpen = true →
      c.done = false →
      c.deadline ≤ s.dbx.lfn →
      (((s.modCh ch fun c => { c with r := { c.r with aggStatus := orSt c.r.aggStatus stMissing }, shortfall := c.r.expected - c.r.aggCount, dead := true }).bump F.condMissingCount).judgeFaults ch).chan ch = some c2 →
      c2.wait ≠ .aggregate ∨ c2.r.exec ≠ 2 →
      exec (.waitcDeadline ch) s = .next ((((s.modCh ch fun c => { c with r := { c.r with aggStatus := orSt c.r.aggStatus stMissing }, shortfall := c.r.expected - c.r.aggCount, dead := true }).bump F.condMissingCount).judgeFaults ch))) ∧
  (∀ (ch : Nat) (c : CondChan) (s : State), Runs s .dbx →
      s.chan ch = some c →
      c.wait = .aggregate →
      c.r.exec = 2 →
      c.r.stepOpen = true →
      c.done = false →
      s.dbx.lfn < c.deadline →
      exec (.waitcDeadline ch) s = .next (s))

/-- A REDUCE word records its register and tag, moves on, waits for its result where it asks to, and gives its word to the key it names at the apex. A SAMPLE word waits for its tokens and gives its word to the key of each of its positions, for the roles of its target entry below the apex. A word whose key is not open yet opens it with the first deadline. An ACCEPT word accepts the longest prefix in which draft and target tokens agree, stores its length in accepted and in its register, takes the token of the target at that place, adds accepted + 1 to tokens_out and clears draft_n. -/
def Obligations.ReduceSampleAcceptWords : Prop :=
  (∀ (ch w : Nat) (c : CondChan) (q : Plan) (s : State), Runs s .dbx →
      WordAt s ch 3 c q w →
      exec (.reduce ch) s = .next ((let t := (s.countWord ch c).modCh ch fun c => { c with outst := c.outst ++ [(rwTag w, rwDst w)], r := { c.r with pc := c.r.pc + 1 } }
        let u := if rwWait w = true then t.holdCh ch 2 (.result (rwTag w)) else t
        u.attachWord (u.slotPart c.r.slot) (reduceHdr c.r w) w (lastStep c.r) 0 none))) ∧
  (∀ (ch w : Nat) (c : CondChan) (q : Plan) (s : State), Runs s .dbx →
      WordAt s ch 4 c q w →
      exec (.sample ch) s = .next ((let e := q.entry (swTref w)
        let part := (s.countWord ch c).slotPart c.r.slot
        let t := ((s.countWord ch c).modCh ch fun c => { c with tokens := [] }).holdCh ch 2 (.tokens (swTag w) (swPositions w))
        (List.range (swPositions w)).foldl (fun u i =>
          u.attachWord part (sampleHdr c.r e w i) w (lastStep c.r) i (some (ivMeet ((s.countWord ch c).targetRoles part e.form e.scope e.target) (u.rolesBelow part)))) t))) ∧
  (∀ (part w step pos : Nat) (h : PHdr) (roles : Option Ivs) (s : State), (s.d.tau.find? fun k => k.partition == part && samePKey k.first h) = none →
      s.attachWord part h w step pos roles = (s.modD fun d => { d with tau := d.tau ++ [{ partition := part, first := h, atLfn := s.dbx.lfn, deadline := some s.firstDeadline, word := some w, step := step, pos := pos, roles := roles }] }).showTau) ∧
  (∀ (ch w : Nat) (c : CondChan) (q : Plan) (s : State), Runs s .dbx →
      WordAt s ch 5 c q w →
      exec (.accept ch) s = .next (((s.countWord ch c).modCh ch fun c' =>
        { c' with r := { c'.r with pc := c'.r.pc + 1, accepted := matching (bits w 0 3) c.r.draft c.r.target, g := c'.r.g.set (bits w 3 3) (matching (bits w 0 3) c.r.draft c.r.target), token := c.r.target.getD (matching (bits w 0 3) c.r.draft c.r.target) 0, tokensOut := (c.r.tokensOut + matching (bits w 0 3) c.r.draft c.r.target + 1) % 2 ^ 32, draftN := 0 }, allAcc := matching (bits w 0 3) c.r.draft c.r.target == bits w 0 3 })))

/-- A BRANCH word jumps to its address where its condition, inverted by its bit, holds, else goes on, and clears the flag it has read. A LOOP word loads its counter and goes on, or decrements it and jumps while it was above 1. A VARIANT word goes on; while no hold is left it chooses the first select entry that fits, or the base variant, for the next step boundary. A DIGEST word with its soredium there writes and compares the digest, and posts it where asked; without one it waits. A POST word with room in its ring posts its two registers and goes on, and is held for a full one. A HALT word halts its channel, after the event where asked. -/
def Obligations.ControlWordsMoveThePlan : Prop :=
  (∀ (ch w : Nat) (c : CondChan) (q : Plan) (s : State), Runs s .dbx →
      WordAt s ch 6 c q w →
      ((if 1 ≤ bits w 20 4 && bits w 20 4 ≤ 3 then [bits w 24 3] else []).any fun g => c.outst.any fun x => x.2 == g) = false →
      exec (.branch ch) s = .next ((s.countWord ch c).modRec ch fun r =>
        { r with pc := if (s.countWord ch c).condHolds c q w = !bit w 27 then bits w 0 20 else r.pc + 1, stepEvt := r.stepEvt && bits w 20 4 != 6, diverged := r.diverged && bits w 20 4 != 8 })) ∧
  (∀ (ch w : Nat) (c : CondChan) (q : Plan) (s : State), Runs s .dbx →
      WordAt s ch 7 c q w →
      bit w 22 = true →
      exec (.loop ch) s = .next ((s.countWord ch c).modRec ch fun r => { r with pc := r.pc + 1, counters := r.counters.set (bits w 20 2) (bits w 23 16) })) ∧
  (∀ (ch w : Nat) (c : CondChan) (q : Plan) (s : State), Runs s .dbx →
      WordAt s ch 7 c q w →
      bit w 22 = false →
      exec (.loop ch) s = .next ((s.countWord ch c).modRec ch fun r => { r with pc := if 1 < c.r.counters.getD (bits w 20 2) 0 then bits w 0 20 else r.pc + 1, counters := r.counters.set (bits w 20 2) (c.r.counters.getD (bits w 20 2) 0 - 1) })) ∧
  (∀ (ch w : Nat) (c : CondChan) (q : Plan) (s : State), Runs s .dbx →
      WordAt s ch 11 c q w →
      ((if bit w 26 then [bits w 23 3] else [bits w 20 3, bits w 23 3]).any fun g => c.outst.any fun x => x.2 == g) = false →
      c.r.holdLeft ≠ 0 →
      exec (.variant ch) s = .next ((s.countWord ch c).nextPc ch)) ∧
  (∀ (ch w : Nat) (c : CondChan) (q : Plan) (s : State), Runs s .dbx →
      WordAt s ch 11 c q w →
      ((if bit w 26 then [bits w 23 3] else [bits w 20 3, bits w 23 3]).any fun g => c.outst.any fun x => x.2 == g) = false →
      c.r.holdLeft = 0 →
      exec (.variant ch) s = .next ((let role := c.r.g.getD (bits w 23 3) 0
        let v := if bit w 26 = true then c.r.aggSlack else c.r.g.getD (bits w 20 3) 0
        let pick := ((q.selects.drop (bits w 0 12)).take (bits w 12 8)).find? fun e => (bit w 26 || (decide (e.first ≤ role) && decide (role ≤ e.last))) && decide (v < e.threshold)
        ((s.countWord ch c).nextPc ch).modCh ch fun c' => { c' with chosen := match pick with | some e => e.variant | none => c'.r.baseVariant, holdNext := some (bits w 27 16) }))) ∧
  (∀ (ch w : Nat) (c : CondChan) (q : Plan) (s : State), Runs s .dbx →
      WordAt s ch 12 c q w →
      ((if bit w 6 then [bits w 3 3] else []).any fun g => c.outst.any fun x => x.2 == g) = false →
      digestSor c = none →
      exec (.digest ch) s = .next (s.holdCh ch 2 .digest)) ∧
  (∀ (ch w : Nat) (c : CondChan) (q : Plan) (x : Soredium) (s : State), Runs s .dbx →
      WordAt s ch 12 c q w →
      ((if bit w 6 then [bits w 3 3] else []).any fun g => c.outst.any fun x => x.2 == g) = false →
      digestSor c = some x →
      bit w 7 = false →
      exec (.digest ch) s = .next (((s.countWord ch c).modRec ch fun r =>
        { r with pc := r.pc + 1, g := r.g.set (bits w 0 3) x.digest, digestBad := if bit w 6 = true then c.r.g.getD (bits w 3 3) 0 != x.digest else r.digestBad }))) ∧
  (∀ (ch w : Nat) (c : CondChan) (q : Plan) (x : Soredium) (s : State), Runs s .dbx →
      WordAt s ch 12 c q w →
      ((if bit w 6 then [bits w 3 3] else []).any fun g => c.outst.any fun x => x.2 == g) = false →
      digestSor c = some x →
      bit w 7 = true →
      s.ringFree c.r.ring = true →
      exec (.digest ch) s = .next (((s.countWord ch c).modRec ch fun r =>
        { r with pc := r.pc + 1, g := r.g.set (bits w 0 3) x.digest, digestBad := if bit w 6 = true then c.r.g.getD (bits w 3 3) 0 != x.digest else r.digestBad }).post ch 1 0xD16E x.digest
          (x.count % 2 ^ 22 + 2 ^ 22 * b2n x.incomplete + 2 ^ 23 * b2n x.multi + 2 ^ 24 * b2n x.weight + 2 ^ 25 * b2n x.varMixed) false)) ∧
  (∀ (ch w : Nat) (c : CondChan) (q : Plan) (a : CondChan) (s : State), Runs s .dbx →
      WordAt s ch 13 c q w →
      (([bits w 16 3, bits w 19 3]).any fun g => c.outst.any fun x => x.2 == g) = false →
      s.ringFree c.r.ring = true →
      c.resume ≠ 3 →
      (((s.countWord ch c).nextPc ch).post ch 1 (bits w 0 16) (c.r.g.getD (bits w 16 3) 0) (c.r.g.getD (bits w 19 3) 0) (bit w 22)).chan ch = some a →
      a.wait ≠ .ring →
      exec (.post ch) s = .next ((((s.countWord ch c).nextPc ch).post ch 1 (bits w 0 16) (c.r.g.getD (bits w 16 3) 0) (c.r.g.getD (bits w 19 3) 0) (bit w 22)))) ∧
  (∀ (ch w : Nat) (c : CondChan) (q : Plan) (a : CondChan) (s : State), Runs s .dbx →
      WordAt s ch 13 c q w →
      (([bits w 16 3, bits w 19 3]).any fun g => c.outst.any fun x => x.2 == g) = false →
      s.ringFree c.r.ring = false →
      (s.holdCh ch 3 .ring).chan ch = some a →
      a.wait = .ring →
      exec (.post ch) s = .next ((s.holdCh ch 3 .ring).bump F.condRingWaitCount)) ∧
  (∀ (ch w : Nat) (c : CondChan) (q : Plan) (s : State), Runs s .dbx →
      WordAt s ch 15 c q w →
      bit w 0 = false →
      exec (.halt ch) s = .next ((s.countWord ch c).holdCh ch 5 .none)) ∧
  (∀ (ch w : Nat) (c : CondChan) (q : Plan) (a : CondChan) (s : State), Runs s .dbx →
      WordAt s ch 15 c q w →
      bit w 0 = true →
      s.ringFree c.r.ring = true →
      (((s.countWord ch c).event ch 0x81 0 0).holdCh ch 5 .none).chan ch = some a →
      a.wait ≠ .ring →
      exec (.halt ch) s = .next (((s.countWord ch c).event ch 0x81 0 0).holdCh ch 5 .none))

/-- A PERI word at a peristome that is not ARMED, with no arm bit, passes with its position set; with the arm bit it arms the peristome, configures its target set and holds its channel there; at an ARMED one it holds its channel, or passes it where the timeout has passed. A SWAP word on a slot without a swap begins it at its first layer with the peristome armed and gated, and holds its channel; another waits. A swap whose channels all have left its peristome opens the layer, configures and ungates the peristome; a released peristome leads to the next layer, or ends the swap at its last; at its deadline the swap ends with timeout. A peristome timeout of an ARMED peristome marks it and passes its channels with the timeout. -/
def Obligations.PeristomeAndSwapWords : Prop :=
  (∀ (ch w : Nat) (c : CondChan) (q : Plan) (s : State), Runs s .dbx →
      WordAt s ch 8 c q w →
      bit w 55 = false →
      c.r.epochStrict = false →
      (((s.countWord ch c).nextPc ch).peri ((s.countWord ch c).rd F.condSharePeriBase c.r.slot + bits w 0 12)).state ≠ 1 →
      exec (.peri ch) s = .next (((s.countWord ch c).nextPc ch).modCh ch fun c' => { c' with r := { c'.r with periPos := ((s.countWord ch c).rd F.condSharePeriBase c.r.slot + bits w 0 12) % 2 ^ 12, periTmo := false }, offPeri := false })) ∧
  (∀ (ch w : Nat) (c : CondChan) (q : Plan) (s : State), Runs s .dbx →
      WordAt s ch 8 c q w →
      bit w 55 = false →
      c.r.epochStrict = false →
      (((s.countWord ch c).nextPc ch).peri ((s.countWord ch c).rd F.condSharePeriBase c.r.slot + bits w 0 12)).state = 1 →
      (((s.countWord ch c).nextPc ch).peri ((s.countWord ch c).rd F.condSharePeriBase c.r.slot + bits w 0 12)).timedOut = false →
      exec (.peri ch) s = .next ((((s.countWord ch c).nextPc ch).holdCh ch 3 (.peri ((s.countWord ch c).rd F.condSharePeriBase c.r.slot + bits w 0 12))).showPeri)) ∧
  (∀ (ch w : Nat) (c : CondChan) (q : Plan) (s : State), Runs s .dbx →
      WordAt s ch 8 c q w →
      bit w 55 = false →
      c.r.epochStrict = false →
      (((s.countWord ch c).nextPc ch).peri ((s.countWord ch c).rd F.condSharePeriBase c.r.slot + bits w 0 12)).state = 1 →
      (((s.countWord ch c).nextPc ch).peri ((s.countWord ch c).rd F.condSharePeriBase c.r.slot + bits w 0 12)).timedOut = true →
      exec (.peri ch) s = .next (((s.countWord ch c).nextPc ch).passPeri ch ((s.countWord ch c).rd F.condSharePeriBase c.r.slot + bits w 0 12) true)) ∧
  (∀ (ch w : Nat) (c : CondChan) (q : Plan) (s : State), Runs s .dbx →
      WordAt s ch 8 c q w →
      bit w 55 = true →
      ((s.countWord ch c).peri ((s.countWord ch c).rd F.condSharePeriBase c.r.slot + bits w 0 12)).state ≠ 1 →
      c.r.epochStrict = false →
      (((((s.countWord ch c).setPeri ((s.countWord ch c).rd F.condSharePeriBase c.r.slot + bits w 0 12) ⟨1, bits w 12 8, bits w 20 1, c.r.slot, (s.countWord ch c).periDeadline (bits w 48 5), false, false⟩).configPeri
        c.r.slot (q.entry (bits w 21 12)) (bits w 12 8) (bits w 33 3) (bits w 36 12) (bits w 20 1)).nextPc ch).peri ((s.countWord ch c).rd F.condSharePeriBase c.r.slot + bits w 0 12)).state = 1 →
      (((((s.countWord ch c).setPeri ((s.countWord ch c).rd F.condSharePeriBase c.r.slot + bits w 0 12) ⟨1, bits w 12 8, bits w 20 1, c.r.slot, (s.countWord ch c).periDeadline (bits w 48 5), false, false⟩).configPeri
        c.r.slot (q.entry (bits w 21 12)) (bits w 12 8) (bits w 33 3) (bits w 36 12) (bits w 20 1)).nextPc ch).peri ((s.countWord ch c).rd F.condSharePeriBase c.r.slot + bits w 0 12)).timedOut = false →
      exec (.peri ch) s = .next ((((((s.countWord ch c).setPeri ((s.countWord ch c).rd F.condSharePeriBase c.r.slot + bits w 0 12) ⟨1, bits w 12 8, bits w 20 1, c.r.slot, (s.countWord ch c).periDeadline (bits w 48 5), false, false⟩).configPeri
        c.r.slot (q.entry (bits w 21 12)) (bits w 12 8) (bits w 33 3) (bits w 36 12) (bits w 20 1)).nextPc ch).holdCh ch 3 (.peri ((s.countWord ch c).rd F.condSharePeriBase c.r.slot + bits w 0 12))).showPeri)) ∧
  (∀ (ch w : Nat) (c : CondChan) (q : Plan) (s : State), Runs s .dbx →
      WordAt s ch 10 c q w →
      (([bits w 44 3]).any fun g => c.outst.any fun x => x.2 == g) = false →
      s.swapOf c.r.slot = none →
      exec (.swap ch) s = .next (((((((s.countWord ch c).modD fun d => { d with swaps := fset d.swaps c.r.slot ({ ch := ch, base := ((s.countWord ch c).rd F.condSharePeriBase c.r.slot + bits w 0 12), first := bits w 12 10, last := bits w 22 10, cur := bits w 12 10, phase := 0, entry := q.entry (bits w 32 12), epoch := bits w 44 3, tmo := bits w 47 5 } : SwapRt) }).wr F.condPartStatSwapActive 1 c.r.slot).armGated c.r.slot
        ((s.countWord ch c).rd F.condSharePeriBase c.r.slot + bits w 0 12) (bits w 47 5)).nextPc ch).holdCh ch 2 .swap))) ∧
  (∀ (ch w : Nat) (c : CondChan) (q : Plan) (x : SwapRt) (s : State), Runs s .dbx →
      WordAt s ch 10 c q w →
      (([bits w 44 3]).any fun g => c.outst.any fun x => x.2 == g) = false →
      s.swapOf c.r.slot = some x →
      exec (.swap ch) s = .next (s.holdCh ch 2 .swap)) ∧
  (∀ (slot : Nat) (x : SwapRt) (s : State), Runs s .dbx →
      s.swapOf slot = some x →
      x.phase = 0 →
      (∀ i ∈ s.slotChans slot, ∀ d, s.chan i = some d → d.offPeri = true ∨ d.r.periPos ≠ x.at x.cur) →
      exec (.swapAdvance slot) s = .next ((let k := x.at x.cur
        let e := x.entry
        let t := s.mgmtDown (s.slotPart slot) (s.targetRoles (s.slotPart slot) e.form e.scope e.target) 9 [x.cur]
        ((t.setPeri k { t.peri k with gated := false }).configPeri slot e (k % 256) 2 x.cur 0).modD fun d => { d with swaps := fset d.swaps slot { x with phase := 1 } }))) ∧
  (∀ (slot t : Nat) (x : SwapRt) (s : State), Runs s .dbx →
      s.swapOf slot = some x →
      x.phase ≠ 0 →
      (s.peri (x.at x.cur)).state ≠ 2 →
      (s.peri (x.at x.cur)).deadline = some t →
      t ≤ s.dbx.lfn →
      exec (.swapAdvance slot) s = .next (s.endSwap slot x true)) ∧
  (∀ (slot : Nat) (x : SwapRt) (s : State), Runs s .dbx →
      s.swapOf slot = some x →
      x.phase ≠ 0 →
      (s.peri (x.at x.cur)).state = 2 →
      x.cur = x.last →
      exec (.swapAdvance slot) s = .next (s.endSwap slot x false)) ∧
  (∀ (slot : Nat) (x : SwapRt) (s : State), Runs s .dbx →
      s.swapOf slot = some x →
      x.phase ≠ 0 →
      (s.peri (x.at x.cur)).state = 2 →
      x.cur ≠ x.last →
      exec (.swapAdvance slot) s = .next ((s.modD fun d => { d with swaps := fset d.swaps slot { x with cur := x.cur + 1, phase := 0 } }).armGated slot
        (SwapRt.at { x with cur := x.cur + 1, phase := 0 } (x.cur + 1)) x.tmo)) ∧
  (∀ (index t : Nat) (s : State), Runs s .dbx →
      (s.peri index).deadline = some t →
      (s.peri index).state = 1 →
      t ≤ s.dbx.lfn →
      (s.peri index).timedOut = false →
      exec (.peristomeTimeout index) s = .next ((((((s.setPeri index { s.peri index with timedOut := true }).bump F.periTmoCount).heldAt index).foldl (fun s ch => s.passPeri ch index true) ((s.setPeri index { s.peri index with timedOut := true }).bump F.periTmoCount)).showPeri)))

/-- A contribution word of a die with a role, a channel of the die, the attempt in force and a key that is not closed enters its key, which stays open, or closes with the last word; any other counts as an error. At a TSU the first copy of a result takes a free result slot when none waits, or waits for one; a second copy is only compared; a waiting result takes the next free slot; keys of broadcasts leave after 4,096 link frames. A first pass 2 broadcast releases the logits of its key and, unless it skips, answers with their weight sum, or with a contribution error where a die in scope holds none. A distributor sends the first copy of either on to every downlink whose roles lie in its scope, and one of a share that is not valid nowhere; a second copy that equals it changes nothing, one that differs is pair divergence. Logits held for 4,096 link frames are released and counted. -/
def Obligations.ReductionFrontEndContributes : Prop :=
  (∀ (hdr : CtHdr) (data : List Byte) (s : State), Runs s .tsu →
      s.hasRole = true →
      (s.chanOf hdr.handle).isSome = true →
      s.attempt (hIndex hdr.handle) = hdr.attempt →
      s.t.closed.any (samePKey (rfeHdr hdr (s.rd F.roleRole))) = false →
      exec (.contributionWord hdr data true) s = .next (s.closeRfe (rfeWord ((s.t.rfe.find? fun x => samePKey x.hdr (rfeHdr hdr (s.rd F.roleRole))).getD (rfeOpen hdr (s.rd F.roleRole))) hdr (s.rd F.roleRole) data))) ∧
  (∀ (hdr : CtHdr) (data : List Byte) (s : State), Runs s .tsu →
      s.hasRole = true →
      (s.chanOf hdr.handle).isSome = true →
      s.attempt (hIndex hdr.handle) = hdr.attempt →
      s.t.closed.any (samePKey (rfeHdr hdr (s.rd F.roleRole))) = false →
      exec (.contributionWord hdr data false) s = .next ((s.modT fun t => { t with rfe := (t.rfe.filter fun x => !samePKey x.hdr (rfeHdr hdr (s.rd F.roleRole))) ++ [(rfeWord ((s.t.rfe.find? fun x => samePKey x.hdr (rfeHdr hdr (s.rd F.roleRole))).getD (rfeOpen hdr (s.rd F.roleRole))) hdr (s.rd F.roleRole) data)] }).showRfe)) ∧
  (∀ (hdr : CtHdr) (data : List Byte) (last : Bool) (s : State), Runs s .tsu →
      s.hasRole = false ∨ s.chanOf hdr.handle = none ∨ s.attempt (hIndex hdr.handle) ≠ hdr.attempt ∨ s.t.closed.any (samePKey (rfeHdr hdr (s.rd F.roleRole))) = true →
      exec (.contributionWord hdr data last) s = .next (s.bump F.rfeContribErrCount)) ∧
  (∀ (i : Nat) (port share nowSub : Nat) (hdr : PHdr) (body : List Byte) (s : State), Runs s .tsu →
      ((s.modNode .tsu fun n => { n with sub := max n.sub (nowSub % 8192) }).keepBcast port hdr body).2 = true →
      ((s.modNode .tsu fun n => { n with sub := max n.sub (nowSub % 8192) }).keepBcast port hdr body).1.freeSlot = some i →
      ((s.modNode .tsu fun n => { n with sub := max n.sub (nowSub % 8192) }).keepBcast port hdr body).1.t.slotWait = [] →
      exec (.resultBroadcast ⟨.tsu, port, share⟩ hdr body nowSub) s = .next (((s.modNode .tsu fun n => { n with sub := max n.sub (nowSub % 8192) }).keepBcast port hdr body).1.fillSlot i hdr body)) ∧
  (∀ (port share nowSub : Nat) (hdr : PHdr) (body : List Byte) (s : State), Runs s .tsu →
      ((s.modNode .tsu fun n => { n with sub := max n.sub (nowSub % 8192) }).keepBcast port hdr body).2 = true →
      ((s.modNode .tsu fun n => { n with sub := max n.sub (nowSub % 8192) }).keepBcast port hdr body).1.freeSlot = none ∨ ((s.modNode .tsu fun n => { n with sub := max n.sub (nowSub % 8192) }).keepBcast port hdr body).1.t.slotWait ≠ [] →
      exec (.resultBroadcast ⟨.tsu, port, share⟩ hdr body nowSub) s = .next ((((s.modNode .tsu fun n => { n with sub := max n.sub (nowSub % 8192) }).keepBcast port hdr body).1.bump F.busResultWaitCount).modT fun t => { t with slotWait := t.slotWait ++ [(hdr, body)] })) ∧
  (∀ (port share nowSub : Nat) (hdr : PHdr) (body : List Byte) (s : State), Runs s .tsu →
      ((s.modNode .tsu fun n => { n with sub := max n.sub (nowSub % 8192) }).keepBcast port hdr body).2 = false →
      exec (.resultBroadcast ⟨.tsu, port, share⟩ hdr body nowSub) s = .next (((s.modNode .tsu fun n => { n with sub := max n.sub (nowSub % 8192) }).keepBcast port hdr body).1)) ∧
  (∀ (i : Nat) (h : PHdr) (b : List Byte) (rest : List (PHdr × List Byte)) (s : State), Runs s .tsu →
      s.freeSlot = some i →
      s.t.slotWait = (h, b) :: rest →
      exec (.resultWait) s = .next ((s.modT fun t => { t with slotWait := rest }).fillSlot i h b)) ∧
  (∀ (s : State), Runs s .tsu →
      exec (.resultKeyExpiry) s = .next (s.modT fun t => { t with bcasts := t.bcasts.filter fun b => s.tsu.lfn < b.atLfn + 4096 })) ∧
  (∀ (port share nowSub : Nat) (hdr : PHdr) (body : List Byte) (s : State), Runs s .dbx →
      s.is F.shareValid share = false →
      exec (.resultBroadcast ⟨.dbx, port, share⟩ hdr body nowSub) s = .next (s)) ∧
  (∀ (port share nowSub : Nat) (hdr : PHdr) (body : List Byte) (s : State), Runs s .dbx →
      s.is F.shareValid share = true →
      (s.d.bcasts.filter fun b => s.dbx.lfn < b.atLfn + max 1 (s.rd F.czCfgWindow)).find? (fun b => b.partition == (s.rd F.sharePartition share) && samePKey b.hdr hdr) = none →
      exec (.resultBroadcast ⟨.dbx, port, share⟩ hdr body nowSub) s = .next ((s.modD fun d => { d with bcasts := (s.d.bcasts.filter fun b => s.dbx.lfn < b.atLfn + max 1 (s.rd F.czCfgWindow)) ++ [⟨hdr, body, s.dbx.lfn, port, (s.rd F.sharePartition share)⟩] }).sendDown (s.rd F.sharePartition share) 3 (s.scopeRoles (s.rd F.sharePartition share) hdr.scope hdr.domain hdr.blkA) (.result hdr body))) ∧
  (∀ (port share nowSub : Nat) (hdr : PHdr) (body : List Byte) (b : BcastKey) (s : State), Runs s .dbx →
      s.is F.shareValid share = true →
      (s.d.bcasts.filter fun b => s.dbx.lfn < b.atLfn + max 1 (s.rd F.czCfgWindow)).find? (fun b => b.partition == (s.rd F.sharePartition share) && samePKey b.hdr hdr) = some b →
      b.hdr = hdr ∧ b.body = body →
      exec (.resultBroadcast ⟨.dbx, port, share⟩ hdr body nowSub) s = .next (s)) ∧
  (∀ (port share nowSub : Nat) (hdr : PHdr) (body : List Byte) (b : BcastKey) (s : State), Runs s .dbx →
      s.is F.shareValid share = true →
      (s.d.bcasts.filter fun b => s.dbx.lfn < b.atLfn + max 1 (s.rd F.czCfgWindow)).find? (fun b => b.partition == (s.rd F.sharePartition share) && samePKey b.hdr hdr) = some b →
      (b.hdr = hdr ∧ b.body = body) = False →
      exec (.resultBroadcast ⟨.dbx, port, share⟩ hdr body nowSub) s = .next ((s.divLog hdr.handle hdr.stepLo b.port port (firstDiff (bcastBytes b.hdr b.body) (bcastBytes hdr (body)))).pairDiverges)) ∧
  (∀ (port share m w : Nat) (skip : Bool) (hdr : PHdr) (s : State), Runs s .tsu →
      (s.keepBcast port { hdr with op := opPass2 } [m, w, b2n skip]).2 = false →
      exec (.pass2Broadcast ⟨.tsu, port, share⟩ hdr m w skip) s = .next ((s.keepBcast port { hdr with op := opPass2 } [m, w, b2n skip]).1)) ∧
  (∀ (port share m w : Nat) (skip : Bool) (hdr : PHdr) (s : State), Runs s .tsu →
      (s.keepBcast port { hdr with op := opPass2 } [m, w, b2n skip]).2 = true →
      skip = true →
      exec (.pass2Broadcast ⟨.tsu, port, share⟩ hdr m w skip) s = .next ((((s.keepBcast port { hdr with op := opPass2 } [m, w, b2n skip]).1.modT fun t => { t with logits := t.logits.filter fun b => some b != logitsOf (s.keepBcast port { hdr with op := opPass2 } [m, w, b2n skip]).1.t.logits { hdr with op := opPass2 } }).showRfe))) ∧
  (∀ (port share m w : Nat) (skip : Bool) (hdr : PHdr) (b : LogitBuf) (s : State), Runs s .tsu →
      (s.keepBcast port { hdr with op := opPass2 } [m, w, b2n skip]).2 = true →
      skip = false →
      logitsOf (s.keepBcast port { hdr with op := opPass2 } [m, w, b2n skip]).1.t.logits { hdr with op := opPass2 } = some b →
      exec (.pass2Broadcast ⟨.tsu, port, share⟩ hdr m w skip) s = .next ((((s.keepBcast port { hdr with op := opPass2 } [m, w, b2n skip]).1.modT fun t => { t with logits := t.logits.filter fun b => some b != logitsOf (s.keepBcast port { hdr with op := opPass2 } [m, w, b2n skip]).1.t.logits { hdr with op := opPass2 } }).showRfe).sendPass2 { hdr with op := opPass2 } (sumNat (b.logits.map fun x => weightAcc (logitWeight hdr.format x m w)) : Nat) false)) ∧
  (∀ (port share m w : Nat) (skip : Bool) (hdr : PHdr) (s : State), Runs s .tsu →
      (s.keepBcast port { hdr with op := opPass2 } [m, w, b2n skip]).2 = true →
      skip = false →
      logitsOf (s.keepBcast port { hdr with op := opPass2 } [m, w, b2n skip]).1.t.logits { hdr with op := opPass2 } = none →
      (((s.keepBcast port { hdr with op := opPass2 } [m, w, b2n skip]).1.modT fun t => { t with logits := t.logits.filter fun b => some b != logitsOf (s.keepBcast port { hdr with op := opPass2 } [m, w, b2n skip]).1.t.logits { hdr with op := opPass2 } }).showRfe).dieInScope { hdr with op := opPass2 } = true →
      exec (.pass2Broadcast ⟨.tsu, port, share⟩ hdr m w skip) s = .next ((((s.keepBcast port { hdr with op := opPass2 } [m, w, b2n skip]).1.modT fun t => { t with logits := t.logits.filter fun b => some b != logitsOf (s.keepBcast port { hdr with op := opPass2 } [m, w, b2n skip]).1.t.logits { hdr with op := opPass2 } }).showRfe).sendPass2 { hdr with op := opPass2 } 0 true)) ∧
  (∀ (port share m w : Nat) (skip : Bool) (hdr : PHdr) (s : State), Runs s .dbx →
      s.is F.shareValid share = false →
      exec (.pass2Broadcast ⟨.dbx, port, share⟩ hdr m w skip) s = .next (s)) ∧
  (∀ (port share m w : Nat) (skip : Bool) (hdr : PHdr) (s : State), Runs s .dbx →
      s.is F.shareValid share = true →
      (s.d.bcasts.filter fun b => s.dbx.lfn < b.atLfn + max 1 (s.rd F.czCfgWindow)).find? (fun b => b.partition == (s.rd F.sharePartition share) && samePKey b.hdr { hdr with op := opPass2 }) = none →
      exec (.pass2Broadcast ⟨.dbx, port, share⟩ hdr m w skip) s = .next ((s.modD fun d => { d with bcasts := (s.d.bcasts.filter fun b => s.dbx.lfn < b.atLfn + max 1 (s.rd F.czCfgWindow)) ++ [⟨{ hdr with op := opPass2 }, [m, w, b2n skip], s.dbx.lfn, port, (s.rd F.sharePartition share)⟩] }).sendDown (s.rd F.sharePartition share) 3 (s.scopeRoles (s.rd F.sharePartition share) { hdr with op := opPass2 }.scope { hdr with op := opPass2 }.domain { hdr with op := opPass2 }.blkA) (.pass2 { hdr with op := opPass2 } m w skip))) ∧
  (∀ (port share m w : Nat) (skip : Bool) (hdr : PHdr) (b : BcastKey) (s : State), Runs s .dbx →
      s.is F.shareValid share = true →
      (s.d.bcasts.filter fun b => s.dbx.lfn < b.atLfn + max 1 (s.rd F.czCfgWindow)).find? (fun b => b.partition == (s.rd F.sharePartition share) && samePKey b.hdr { hdr with op := opPass2 }) = some b →
      b.hdr = { hdr with op := opPass2 } ∧ b.body = [m, w, b2n skip] →
      exec (.pass2Broadcast ⟨.dbx, port, share⟩ hdr m w skip) s = .next (s)) ∧
  (∀ (port share m w : Nat) (skip : Bool) (hdr : PHdr) (b : BcastKey) (s : State), Runs s .dbx →
      s.is F.shareValid share = true →
      (s.d.bcasts.filter fun b => s.dbx.lfn < b.atLfn + max 1 (s.rd F.czCfgWindow)).find? (fun b => b.partition == (s.rd F.sharePartition share) && samePKey b.hdr { hdr with op := opPass2 }) = some b →
      (b.hdr = { hdr with op := opPass2 } ∧ b.body = [m, w, b2n skip]) = False →
      exec (.pass2Broadcast ⟨.dbx, port, share⟩ hdr m w skip) s = .next ((s.divLog { hdr with op := opPass2 }.handle { hdr with op := opPass2 }.stepLo b.port port (firstDiff (bcastBytes b.hdr b.body) (bcastBytes { hdr with op := opPass2 } ([m, w, b2n skip])))).pairDiverges)) ∧
  (∀ (s : State), Runs s .tsu →
      (s.t.logits.filter fun b => b.atLfn + 4096 ≤ s.tsu.lfn) ≠ [] →
      exec (.logitRelease) s = .next (((s.modT fun t => { t with logits := t.logits.filter fun b => s.tsu.lfn < b.atLfn + 4096 }).showRfe).bump F.rfeReleasedCount 0
        (sumNat ((s.t.logits.filter fun b => b.atLfn + 4096 ≤ s.tsu.lfn).map fun b => b.logits.length))))

/-- A partial of a position without a role in its scope is counted late. The first partial of a key opens it where 1,024 keys and the space allow, and joins it; without room the key completes at once at the apex and is passed through elsewhere. A further first copy joins its open key, passes a node without space, or is late where the key is due; a second copy that equals the first is only noted, one that differs is pair divergence; one that finds no role left is late, as is one of a closed key. A soredium of no role is late; a first copy opens or enters its key; one without room passes through; second copies are compared. An open key past flush leaves its distributor, as does a wait reply; a poll closes at the apex. At its deadline a key of the apex is due and is settled. A write of the generator test with run shows the keyed generator's output for seed, step and draw. -/
def Obligations.TreeCombinesPartialsAndSoredia : Prop :=
  (∀ (port partition : Nat) (part : PPartial) (s : State), Runs s .dbx →
      (ivMeet ((s.bump F.tauInCount).rolesAt partition ((s.bump F.tauInCount).posOf port)) ((s.bump F.tauInCount).scopeRoles partition part.hdr.scope part.hdr.domain part.hdr.blkA)).isEmpty = true →
      exec (.partialReceived port partition part) s = .next ((s.bump F.tauInCount).bump F.tauLateDiscCount)) ∧
  (∀ (port partition : Nat) (part : PPartial) (k : TauKey) (s : State), Runs s .dbx →
      (ivMeet ((s.bump F.tauInCount).rolesAt partition ((s.bump F.tauInCount).posOf port)) ((s.bump F.tauInCount).scopeRoles partition part.hdr.scope part.hdr.domain part.hdr.blkA)).isEmpty = false →
      ((s.bump F.tauInCount).d.tau.find? fun k => k.partition == partition && samePKey k.first part.hdr) = none →
      ((s.bump F.tauInCount).d.tauShut.find? fun k => k.partition == partition && samePKey k.first part.hdr) = none →
      k = ({ partition := partition, first := part.hdr, atLfn := (s.bump F.tauInCount).dbx.lfn, parts := [(port, part)], deadline := if ((s.bump F.tauInCount).apexSlot partition).isSome then some (s.bump F.tauInCount).firstDeadline else none } : TauKey) →
      (s.bump F.tauInCount).tauRoom k = true →
      exec (.partialReceived port partition part) s = .next (((s.bump F.tauInCount).modD fun d => { d with tau := d.tau ++ [k] }).joined k ((s.bump F.tauInCount).apexSlot partition).isSome)) ∧
  (∀ (port partition : Nat) (part : PPartial) (k : TauKey) (s : State), Runs s .dbx →
      (ivMeet ((s.bump F.tauInCount).rolesAt partition ((s.bump F.tauInCount).posOf port)) ((s.bump F.tauInCount).scopeRoles partition part.hdr.scope part.hdr.domain part.hdr.blkA)).isEmpty = false →
      ((s.bump F.tauInCount).d.tau.find? fun k => k.partition == partition && samePKey k.first part.hdr) = none →
      ((s.bump F.tauInCount).d.tauShut.find? fun k => k.partition == partition && samePKey k.first part.hdr) = none →
      k = ({ partition := partition, first := part.hdr, atLfn := (s.bump F.tauInCount).dbx.lfn, parts := [(port, part)], deadline := if ((s.bump F.tauInCount).apexSlot partition).isSome then some (s.bump F.tauInCount).firstDeadline else none } : TauKey) →
      (s.bump F.tauInCount).tauRoom k = false →
      ((s.bump F.tauInCount).apexSlot partition).isSome = true →
      exec (.partialReceived port partition part) s = .next ((s.bump F.tauInCount).noTauSpace k)) ∧
  (∀ (port partition : Nat) (part : PPartial) (s : State), Runs s .dbx →
      (ivMeet ((s.bump F.tauInCount).rolesAt partition ((s.bump F.tauInCount).posOf port)) ((s.bump F.tauInCount).scopeRoles partition part.hdr.scope part.hdr.domain part.hdr.blkA)).isEmpty = false →
      ((s.bump F.tauInCount).d.tau.find? fun k => k.partition == partition && samePKey k.first part.hdr) = none →
      ((s.bump F.tauInCount).d.tauShut.find? fun k => k.partition == partition && samePKey k.first part.hdr) = none →
      ((s.bump F.tauInCount).apexSlot partition).isSome = false →
      (s.bump F.tauInCount).tauRoom (({ partition := partition, first := part.hdr, atLfn := (s.bump F.tauInCount).dbx.lfn, parts := [(port, part)], deadline := if ((s.bump F.tauInCount).apexSlot partition).isSome then some (s.bump F.tauInCount).firstDeadline else none } : TauKey)) = false →
      exec (.partialReceived port partition part) s = .next ((((s.bump F.tauInCount).modD fun d => { d with tau := d.tau ++ [({ partition := partition, first := part.hdr, atLfn := (s.bump F.tauInCount).dbx.lfn, parts := [], deadline := none, through := true } : TauKey)] }).bump F.tauPassthroughCount).passPartial ({ partition := partition, first := part.hdr, atLfn := (s.bump F.tauInCount).dbx.lfn, parts := [], deadline := none, through := true } : TauKey) port part)) ∧
  (∀ (port partition : Nat) (part : PPartial) (k : TauKey) (i : Nat) (s : State), Runs s .dbx →
      (ivMeet ((s.bump F.tauInCount).rolesAt partition ((s.bump F.tauInCount).posOf port)) ((s.bump F.tauInCount).scopeRoles partition part.hdr.scope part.hdr.domain part.hdr.blkA)).isEmpty = false →
      ((s.bump F.tauInCount).d.tau.find? fun k => k.partition == partition && samePKey k.first part.hdr) = some k →
      (s.bump F.tauInCount).partCopy k port part = .same i →
      exec (.partialReceived port partition part) s = .next ((s.bump F.tauInCount).seenCopy k i)) ∧
  (∀ (port partition : Nat) (part : PPartial) (k : TauKey) (i : Nat) (s : State), Runs s .dbx →
      (ivMeet ((s.bump F.tauInCount).rolesAt partition ((s.bump F.tauInCount).posOf port)) ((s.bump F.tauInCount).scopeRoles partition part.hdr.scope part.hdr.domain part.hdr.blkA)).isEmpty = false →
      ((s.bump F.tauInCount).d.tau.find? fun k => k.partition == partition && samePKey k.first part.hdr) = some k →
      (s.bump F.tauInCount).partCopy k port part = .differs i →
      exec (.partialReceived port partition part) s = .next ((s.bump F.tauInCount).partDiffers k i port part)) ∧
  (∀ (port partition : Nat) (part : PPartial) (k : TauKey) (s : State), Runs s .dbx →
      (ivMeet ((s.bump F.tauInCount).rolesAt partition ((s.bump F.tauInCount).posOf port)) ((s.bump F.tauInCount).scopeRoles partition part.hdr.scope part.hdr.domain part.hdr.blkA)).isEmpty = false →
      ((s.bump F.tauInCount).d.tau.find? fun k => k.partition == partition && samePKey k.first part.hdr) = some k →
      (s.bump F.tauInCount).partCopy k port part = .surplus →
      exec (.partialReceived port partition part) s = .next ((s.bump F.tauInCount).bump F.tauLateDiscCount)) ∧
  (∀ (port partition : Nat) (part : PPartial) (k : TauKey) (s : State), Runs s .dbx →
      (ivMeet ((s.bump F.tauInCount).rolesAt partition ((s.bump F.tauInCount).posOf port)) ((s.bump F.tauInCount).scopeRoles partition part.hdr.scope part.hdr.domain part.hdr.blkA)).isEmpty = false →
      ((s.bump F.tauInCount).d.tau.find? fun k => k.partition == partition && samePKey k.first part.hdr) = some k →
      (s.bump F.tauInCount).partCopy k port part = .first →
      k.due = true →
      exec (.partialReceived port partition part) s = .next ((s.bump F.tauInCount).bump F.tauLateDiscCount)) ∧
  (∀ (port partition : Nat) (part : PPartial) (k : TauKey) (s : State), Runs s .dbx →
      (ivMeet ((s.bump F.tauInCount).rolesAt partition ((s.bump F.tauInCount).posOf port)) ((s.bump F.tauInCount).scopeRoles partition part.hdr.scope part.hdr.domain part.hdr.blkA)).isEmpty = false →
      ((s.bump F.tauInCount).d.tau.find? fun k => k.partition == partition && samePKey k.first part.hdr) = some k →
      (s.bump F.tauInCount).partCopy k port part = .first →
      k.due = false →
      k.through = true →
      exec (.partialReceived port partition part) s = .next ((s.bump F.tauInCount).passPartial k port part)) ∧
  (∀ (port partition : Nat) (part : PPartial) (k : TauKey) (s : State), Runs s .dbx →
      (ivMeet ((s.bump F.tauInCount).rolesAt partition ((s.bump F.tauInCount).posOf port)) ((s.bump F.tauInCount).scopeRoles partition part.hdr.scope part.hdr.domain part.hdr.blkA)).isEmpty = false →
      ((s.bump F.tauInCount).d.tau.find? fun k => k.partition == partition && samePKey k.first part.hdr) = some k →
      (s.bump F.tauInCount).partCopy k port part = .first →
      k.due = false →
      k.through = false →
      k.parts ≠ [] ∨ (s.bump F.tauInCount).tauRoom { k with first := part.hdr } = true →
      exec (.partialReceived port partition part) s = .next ((s.bump F.tauInCount).joinPartial k port part ((s.bump F.tauInCount).apexSlot partition).isSome)) ∧
  (∀ (port partition : Nat) (part : PPartial) (k : TauKey) (s : State), Runs s .dbx →
      (ivMeet ((s.bump F.tauInCount).rolesAt partition ((s.bump F.tauInCount).posOf port)) ((s.bump F.tauInCount).scopeRoles partition part.hdr.scope part.hdr.domain part.hdr.blkA)).isEmpty = false →
      ((s.bump F.tauInCount).d.tau.find? fun k => k.partition == partition && samePKey k.first part.hdr) = some k →
      (s.bump F.tauInCount).partCopy k port part = .first →
      k.due = false →
      k.through = false →
      k.parts = [] →
      (s.bump F.tauInCount).tauRoom { k with first := part.hdr } = false →
      exec (.partialReceived port partition part) s = .next ((s.bump F.tauInCount).noTauSpace k)) ∧
  (∀ (port partition : Nat) (part : PPartial) (k : TauKey) (i : Nat) (s : State), Runs s .dbx →
      (ivMeet ((s.bump F.tauInCount).rolesAt partition ((s.bump F.tauInCount).posOf port)) ((s.bump F.tauInCount).scopeRoles partition part.hdr.scope part.hdr.domain part.hdr.blkA)).isEmpty = false →
      ((s.bump F.tauInCount).d.tau.find? fun k => k.partition == partition && samePKey k.first part.hdr) = none →
      ((s.bump F.tauInCount).d.tauShut.find? fun k => k.partition == partition && samePKey k.first part.hdr) = some k →
      (s.bump F.tauInCount).partCopy k port part = .same i →
      exec (.partialReceived port partition part) s = .next ((s.bump F.tauInCount).seenCopy k i)) ∧
  (∀ (port partition : Nat) (part : PPartial) (k : TauKey) (i : Nat) (s : State), Runs s .dbx →
      (ivMeet ((s.bump F.tauInCount).rolesAt partition ((s.bump F.tauInCount).posOf port)) ((s.bump F.tauInCount).scopeRoles partition part.hdr.scope part.hdr.domain part.hdr.blkA)).isEmpty = false →
      ((s.bump F.tauInCount).d.tau.find? fun k => k.partition == partition && samePKey k.first part.hdr) = none →
      ((s.bump F.tauInCount).d.tauShut.find? fun k => k.partition == partition && samePKey k.first part.hdr) = some k →
      (s.bump F.tauInCount).partCopy k port part = .differs i →
      exec (.partialReceived port partition part) s = .next ((s.bump F.tauInCount).partDiffers k i port part)) ∧
  (∀ (port partition : Nat) (part : PPartial) (k : TauKey) (s : State), Runs s .dbx →
      (ivMeet ((s.bump F.tauInCount).rolesAt partition ((s.bump F.tauInCount).posOf port)) ((s.bump F.tauInCount).scopeRoles partition part.hdr.scope part.hdr.domain part.hdr.blkA)).isEmpty = false →
      ((s.bump F.tauInCount).d.tau.find? fun k => k.partition == partition && samePKey k.first part.hdr) = none →
      ((s.bump F.tauInCount).d.tauShut.find? fun k => k.partition == partition && samePKey k.first part.hdr) = some k →
      ((s.bump F.tauInCount).partCopy k port part = .first) ∨ (s.bump F.tauInCount).partCopy k port part = .surplus →
      exec (.partialReceived port partition part) s = .next ((s.bump F.tauInCount).bump F.tauLateDiscCount)) ∧
  (∀ (port partition : Nat) (q : Soredium) (s : State), Runs s .dbx →
      ((s.bump F.sorInCount).rolesAt partition ((s.bump F.sorInCount).posOf port)).isEmpty = true →
      exec (.sorediumReceived port partition q) s = .next ((s.bump F.sorInCount).bump F.sorLateDiscCount)) ∧
  (∀ (port partition : Nat) (q : Soredium) (s : State), Runs s .dbx →
      ((s.bump F.sorInCount).rolesAt partition ((s.bump F.sorInCount).posOf port)).isEmpty = false →
      ((s.bump F.sorInCount).d.sors.find? fun k => k.partition == partition && sameSor k.acc q) = none →
      ((s.bump F.sorInCount).d.sorShut.find? fun k => k.partition == partition && sameSor k.acc q) = none →
      exec (.sorediumReceived port partition q) s = .next (((s.bump F.sorInCount).modD fun d => { d with sors := d.sors ++ [({ partition := partition, acc := q, atLfn := (s.bump F.sorInCount).dbx.lfn, parts := [], through := decide (4096 ≤ ((s.bump F.sorInCount).d.sors.filter fun k => !k.through).length) } : SorKey)] }).joinSorKey ({ partition := partition, acc := q, atLfn := (s.bump F.sorInCount).dbx.lfn, parts := [], through := decide (4096 ≤ ((s.bump F.sorInCount).d.sors.filter fun k => !k.through).length) } : SorKey) port q)) ∧
  (∀ (port partition : Nat) (q : Soredium) (k : SorKey) (i : Nat) (s : State), Runs s .dbx →
      ((s.bump F.sorInCount).rolesAt partition ((s.bump F.sorInCount).posOf port)).isEmpty = false →
      ((s.bump F.sorInCount).d.sors.find? fun k => k.partition == partition && sameSor k.acc q) = some k →
      (s.bump F.sorInCount).sorCopy k port q = .same i →
      exec (.sorediumReceived port partition q) s = .next ((s.bump F.sorInCount).seenSor k i)) ∧
  (∀ (port partition : Nat) (q : Soredium) (k : SorKey) (i : Nat) (s : State), Runs s .dbx →
      ((s.bump F.sorInCount).rolesAt partition ((s.bump F.sorInCount).posOf port)).isEmpty = false →
      ((s.bump F.sorInCount).d.sors.find? fun k => k.partition == partition && sameSor k.acc q) = some k →
      (s.bump F.sorInCount).sorCopy k port q = .differs i →
      exec (.sorediumReceived port partition q) s = .next ((s.bump F.sorInCount).sorDiffers k i port q)) ∧
  (∀ (port partition : Nat) (q : Soredium) (k : SorKey) (s : State), Runs s .dbx →
      ((s.bump F.sorInCount).rolesAt partition ((s.bump F.sorInCount).posOf port)).isEmpty = false →
      ((s.bump F.sorInCount).d.sors.find? fun k => k.partition == partition && sameSor k.acc q) = some k →
      (s.bump F.sorInCount).sorCopy k port q = .surplus →
      exec (.sorediumReceived port partition q) s = .next ((s.bump F.sorInCount).bump F.sorLateDiscCount)) ∧
  (∀ (port partition : Nat) (q : Soredium) (k : SorKey) (s : State), Runs s .dbx →
      ((s.bump F.sorInCount).rolesAt partition ((s.bump F.sorInCount).posOf port)).isEmpty = false →
      ((s.bump F.sorInCount).d.sors.find? fun k => k.partition == partition && sameSor k.acc q) = some k →
      (s.bump F.sorInCount).sorCopy k port q = .first →
      exec (.sorediumReceived port partition q) s = .next ((s.bump F.sorInCount).joinSorKey k port q)) ∧
  (∀ (port partition : Nat) (q : Soredium) (k : SorKey) (i : Nat) (s : State), Runs s .dbx →
      ((s.bump F.sorInCount).rolesAt partition ((s.bump F.sorInCount).posOf port)).isEmpty = false →
      ((s.bump F.sorInCount).d.sors.find? fun k => k.partition == partition && sameSor k.acc q) = none →
      ((s.bump F.sorInCount).d.sorShut.find? fun k => k.partition == partition && sameSor k.acc q) = some k →
      (s.bump F.sorInCount).sorCopy k port q = .same i →
      exec (.sorediumReceived port partition q) s = .next ((s.bump F.sorInCount).seenSor k i)) ∧
  (∀ (port partition : Nat) (q : Soredium) (k : SorKey) (i : Nat) (s : State), Runs s .dbx →
      ((s.bump F.sorInCount).rolesAt partition ((s.bump F.sorInCount).posOf port)).isEmpty = false →
      ((s.bump F.sorInCount).d.sors.find? fun k => k.partition == partition && sameSor k.acc q) = none →
      ((s.bump F.sorInCount).d.sorShut.find? fun k => k.partition == partition && sameSor k.acc q) = some k →
      (s.bump F.sorInCount).sorCopy k port q = .differs i →
      exec (.sorediumReceived port partition q) s = .next ((s.bump F.sorInCount).sorDiffers k i port q)) ∧
  (∀ (port partition : Nat) (q : Soredium) (k : SorKey) (s : State), Runs s .dbx →
      ((s.bump F.sorInCount).rolesAt partition ((s.bump F.sorInCount).posOf port)).isEmpty = false →
      ((s.bump F.sorInCount).d.sors.find? fun k => k.partition == partition && sameSor k.acc q) = none →
      ((s.bump F.sorInCount).d.sorShut.find? fun k => k.partition == partition && sameSor k.acc q) = some k →
      ((s.bump F.sorInCount).sorCopy k port q = .first) ∨ (s.bump F.sorInCount).sorCopy k port q = .surplus →
      exec (.sorediumReceived port partition q) s = .next ((s.bump F.sorInCount).bump F.sorLateDiscCount)) ∧
  (∀ (key : Nat) (k : TauKey) (s : State), Runs s .dbx →
      s.d.tau[key]? = some k →
      k.atLfn + s.flushLf ≤ s.dbx.lfn →
      s.apexSlot k.partition = none →
      exec (.flushExpiry key) s = .next (s.tauClose k)) ∧
  (∀ (key slot : Nat) (k : TauKey) (s : State), Runs s .dbx →
      s.d.tau[key]? = some k →
      k.atLfn + s.flushLf ≤ s.dbx.lfn →
      s.apexSlot k.partition = some slot →
      k.first.handle = 0 →
      exec (.flushExpiry key) s = .next (s.closePoll k)) ∧
  (∀ (key : Nat) (k : SorKey) (s : State), Runs s .dbx →
      s.d.tau = [] →
      s.d.sors[key]? = some k →
      k.atLfn + s.flushLf ≤ s.dbx.lfn →
      s.apexSlot k.partition = none →
      exec (.flushExpiry key) s = .next (s.closeSor k)) ∧
  (∀ (key : Nat) (q : HangQ) (s : State), Runs s .dbx →
      s.d.tau = [] →
      s.d.sors = [] →
      s.d.waitAcc[key]? = some q →
      q.atLfn + s.flushLf ≤ s.dbx.lfn →
      exec (.flushExpiry key) s = .next (s.sendWait q)) ∧
  (∀ (key t : Nat) (k : TauKey) (s : State), Runs s .dbx →
      s.d.tau[key]? = some k →
      k.deadline = some t →
      s.keyDeadline k ≤ s.dbx.lfn →
      k.due = false →
      exec (.keyDeadline key) s = .next ((s.modD fun d => { d with tau := putTau k { k with due := true } d.tau }).settleKey { k with due := true })) ∧
  (∀ (key : Nat) (k : SorKey) (s : State), Runs s .dbx →
      s.d.tau = [] →
      s.d.sors[key]? = some k →
      (s.apexSlot k.partition).isSome = true →
      s.bound k.acc.handle = none →
      k.atLfn + s.flushLf ≤ s.dbx.lfn →
      exec (.keyDeadline key) s = .next (s.closeSor k)) ∧
  (∀ (key : Nat) (k : SorKey) (c : CondChan) (s : State), Runs s .dbx →
      s.d.tau = [] →
      s.d.sors[key]? = some k →
      (s.apexSlot k.partition).isSome = true →
      s.bound k.acc.handle = some c →
      lastStep c.r = k.acc.step →
      c.deadline + s.flushLf ≤ s.dbx.lfn →
      exec (.keyDeadline key) s = .next (s.closeSor k)) ∧
  (∀ (v : Word) (s : State), Runs s .dbx →
      bit v.toNat 16 = true →
      exec (.kcgTest v) s = .next (((s.regWrite .dbx 0x60110 v.toNat false true).wr64 F.kcgOutLoOut F.kcgOutHiOut (kcg ((s.regWrite .dbx 0x60110 v.toNat false true).rd64 F.kcgSeedLoSeed F.kcgSeedHiSeed)
        ((s.regWrite .dbx 0x60110 v.toNat false true).rd F.kcgStepLoStep + 2 ^ 32 * ((s.regWrite .dbx 0x60110 v.toNat false true).rd F.kcgStepHiStep % 2 ^ 16)) ((s.regWrite .dbx 0x60110 v.toNat false true).rd F.kcgCtrlDraw))).wr F.kcgCtrlDone 1))

/-- Enabling a bound pair starts it with its counts at 0 and no error; an unbound one refuses; one enabled already changes nothing; disabling stops fetching. A tail doorbell within the ring's size moves the tail; one that moves back or passes the size stops the pair with error 1. A head doorbell within what is written moves the head; one past it stops the pair. A waiting completion is written once there is space; then the conductor's posts. Unsignalled completions past mod_time send their message. A descriptor that is fetched raises the consumed count and the sequence number; with all checks passed it is in flight, or, of the conductor, an input held for commit; with a failed check it completes with the status. A NOP completes OK. -/
def Obligations.RingsMoveTheirCounts : Prop :=
  (∀ (p : Part) (ring : Nat) (s : State), Runs s p →
      ring < ringCount p →
      s.is (F.ringCfgEnable p) ring = false →
      s.ringKind p ring ≠ 0 →
      exec (.ringEnable p ring) s = .next ((((((s.modRing p ring fun t => { t with sqTail := 0, cqHead := 0 }).wr (F.ringCfgEnable p) 1 ring).wr (F.ringSqHeadConsumed p) 0 ring).wr
        (F.ringCqTailWritten p) 0 ring).wr (F.ringStatusRunning p) 1 ring).wr (F.ringStatusErr p) 0 ring)) ∧
  (∀ (p : Part) (ring : Nat) (s : State), Runs s p →
      ring < ringCount p →
      s.is (F.ringCfgEnable p) ring = false →
      s.ringKind p ring = 0 →
      exec (.ringEnable p ring) s = .next (s.wr (F.ringStatusCfgRefused p) 1 ring)) ∧
  (∀ (p : Part) (ring : Nat) (s : State), Runs s p →
      s.is (F.ringCfgEnable p) ring = true →
      exec (.ringEnable p ring) s = .next (s)) ∧
  (∀ (p : Part) (ring : Nat) (s : State), Runs s p →
      s.is (F.ringCfgEnable p) ring = true →
      exec (.ringDisable p ring) s = .next ((s.wr (F.ringCfgEnable p) 0 ring).wr (F.ringStatusRunning p) 0 ring)) ∧
  (∀ (p : Part) (ring : Nat) (v : Word) (s : State), Runs s p →
      s.ringRuns p ring = true →
      ahead32 v.toNat (s.ring p ring).sqTail = 0 ∨ 2 ^ 31 ≤ ahead32 v.toNat (s.ring p ring).sqTail →
      ahead32 (s.rd (F.ringSqHeadConsumed p) ring) v.toNat ≤ 2 ^ s.rd (F.ringCfgSqLog2 p) ring →
      exec (.sqTailWrite p ring v) s = .next ((s.modRing p ring fun t => { t with sqTail := v.toNat }).fetchAhead p ring)) ∧
  (∀ (p : Part) (ring : Nat) (v : Word) (s : State), Runs s p →
      s.ringRuns p ring = true →
      (0 < ahead32 v.toNat (s.ring p ring).sqTail ∧ ahead32 v.toNat (s.ring p ring).sqTail < 2 ^ 31) ∨ 2 ^ s.rd (F.ringCfgSqLog2 p) ring < ahead32 (s.rd (F.ringSqHeadConsumed p) ring) v.toNat →
      exec (.sqTailWrite p ring v) s = .next (s.stopRing p ring 1)) ∧
  (∀ (p : Part) (ring : Nat) (v : Word) (s : State), Runs s p →
      s.ringRuns p ring = true →
      ahead32 v.toNat (s.rd (F.ringCqTailWritten p) ring) ≤ ahead32 (s.ring p ring).cqHead (s.rd (F.ringCqTailWritten p) ring) →
      exec (.cqHeadWrite p ring v) s = .next (s.modRing p ring fun t => { t with cqHead := v.toNat })) ∧
  (∀ (p : Part) (ring : Nat) (v : Word) (s : State), Runs s p →
      s.ringRuns p ring = true →
      ahead32 (s.ring p ring).cqHead (s.rd (F.ringCqTailWritten p) ring) < ahead32 v.toNat (s.rd (F.ringCqTailWritten p) ring) →
      exec (.cqHeadWrite p ring v) s = .next (s.stopRing p ring 1)) ∧
  (∀ (p : Part) (ring : Nat) (c : Completion) (rest : List Completion) (s : State), Runs s p →
      (s.ring p ring).waiting = c :: rest →
      s.cqFull p ring = false →
      exec (.completionWrite p ring) s = .next ((s.modRing p ring fun t => { t with waiting := rest }).writeCompletion p ring c)) ∧
  (∀ (ring : Nat) (s : State), Runs s .dbx →
      (s.ring .dbx ring).waiting = [] →
      exec (.completionWrite .dbx ring) s = .next (s.flushPosts ring)) ∧
  (∀ (p : Part) (ring t : Nat) (l : List Nat) (s : State), Runs s p →
      (s.ring p ring).unsig = t :: l →
      t + lfOfUs (s.rd (F.ringModModTime p) ring) ≤ s.lfn p →
      exec (.msixModeration p ring) s = .next (s.message p ring)) ∧
  (∀ (p : Part) (ring : Nat) (d : Desc) (s : State), Runs s p →
      s.ringRuns p ring = true →
      (s.ring p ring).waiting = [] →
      s.rd (F.ringSqHeadConsumed p) ring ≠ (s.ring p ring).sqTail →
      (bit d.flags 1 = true → (s.ring p ring).flight = []) →
      ((((s.wr (F.ringSqHeadConsumed p) (s.rd (F.ringSqHeadConsumed p) ring + 1) ring).wr64 (F.ringSeqLoSeq p) (F.ringSeqHiSeq p) (s.rd64 (F.ringSeqLoSeq p) (F.ringSeqHiSeq p) ring + 1) ring).fetchAhead p ring)).descStatus p ring (s.rd64 (F.ringSeqLoSeq p) (F.ringSeqHiSeq p) ring) d = 0 →
      (opConductor p d.opcode || policyInput p d) = false →
      exec (.descriptorFetch p ring d) s = .next (((((((s.wr (F.ringSqHeadConsumed p) (s.rd (F.ringSqHeadConsumed p) ring + 1) ring).wr64 (F.ringSeqLoSeq p) (F.ringSeqHiSeq p) (s.rd64 (F.ringSeqLoSeq p) (F.ringSeqHiSeq p) ring + 1) ring).fetchAhead p ring)).modRing p ring fun t => { t with flight := t.flight ++ [({ seq := ((s.rd64 (F.ringSeqLoSeq p) (F.ringSeqHiSeq p) ring) + 2 ^ 64 * (s.ring p ring).bind), desc := d, committed := !(opConductor p d.opcode || policyInput p d), tenant := (s.ring p ring).tenant, kind := ((((s.wr (F.ringSqHeadConsumed p) (s.rd (F.ringSqHeadConsumed p) ring + 1) ring).wr64 (F.ringSeqLoSeq p) (F.ringSeqHiSeq p) (s.rd64 (F.ringSeqLoSeq p) (F.ringSeqHiSeq p) ring + 1) ring).fetchAhead p ring)).ringKind p ring, key := (s.ring p ring).key, slots := (s.ring p ring).slots, order := (((((s.wr (F.ringSqHeadConsumed p) (s.rd (F.ringSqHeadConsumed p) ring + 1) ring).wr64 (F.ringSeqLoSeq p) (F.ringSeqHiSeq p) (s.rd64 (F.ringSeqLoSeq p) (F.ringSeqHiSeq p) ring + 1) ring).fetchAhead p ring)).node p).starts } : InFlight)] }).modNode p fun x => { x with starts := x.starts + 1 }))) ∧
  (∀ (p : Part) (ring : Nat) (d : Desc) (s : State), Runs s p →
      s.ringRuns p ring = true →
      (s.ring p ring).waiting = [] →
      s.rd (F.ringSqHeadConsumed p) ring ≠ (s.ring p ring).sqTail →
      (bit d.flags 1 = true → (s.ring p ring).flight = []) →
      ((((s.wr (F.ringSqHeadConsumed p) (s.rd (F.ringSqHeadConsumed p) ring + 1) ring).wr64 (F.ringSeqLoSeq p) (F.ringSeqHiSeq p) (s.rd64 (F.ringSeqLoSeq p) (F.ringSeqHiSeq p) ring + 1) ring).fetchAhead p ring)).descStatus p ring (s.rd64 (F.ringSeqLoSeq p) (F.ringSeqHiSeq p) ring) d = 0 →
      (opConductor p d.opcode || policyInput p d) = true →
      exec (.descriptorFetch p ring d) s = .next ((((((((s.wr (F.ringSqHeadConsumed p) (s.rd (F.ringSqHeadConsumed p) ring + 1) ring).wr64 (F.ringSeqLoSeq p) (F.ringSeqHiSeq p) (s.rd64 (F.ringSeqLoSeq p) (F.ringSeqHiSeq p) ring + 1) ring).fetchAhead p ring)).modRing p ring fun t => { t with flight := t.flight ++ [({ seq := ((s.rd64 (F.ringSeqLoSeq p) (F.ringSeqHiSeq p) ring) + 2 ^ 64 * (s.ring p ring).bind), desc := d, committed := !(opConductor p d.opcode || policyInput p d), tenant := (s.ring p ring).tenant, kind := ((((s.wr (F.ringSqHeadConsumed p) (s.rd (F.ringSqHeadConsumed p) ring + 1) ring).wr64 (F.ringSeqLoSeq p) (F.ringSeqHiSeq p) (s.rd64 (F.ringSeqLoSeq p) (F.ringSeqHiSeq p) ring + 1) ring).fetchAhead p ring)).ringKind p ring, key := (s.ring p ring).key, slots := (s.ring p ring).slots, order := (((((s.wr (F.ringSqHeadConsumed p) (s.rd (F.ringSqHeadConsumed p) ring + 1) ring).wr64 (F.ringSeqLoSeq p) (F.ringSeqHiSeq p) (s.rd64 (F.ringSeqLoSeq p) (F.ringSeqHiSeq p) ring + 1) ring).fetchAhead p ring)).node p).starts } : InFlight)] }).modNode p fun x => { x with starts := x.starts + 1 })).holdInput ((((((((s.wr (F.ringSqHeadConsumed p) (s.rd (F.ringSqHeadConsumed p) ring + 1) ring).wr64 (F.ringSeqLoSeq p) (F.ringSeqHiSeq p) (s.rd64 (F.ringSeqLoSeq p) (F.ringSeqHiSeq p) ring + 1) ring).fetchAhead p ring)).modRing p ring fun t => { t with flight := t.flight ++ [({ seq := ((s.rd64 (F.ringSeqLoSeq p) (F.ringSeqHiSeq p) ring) + 2 ^ 64 * (s.ring p ring).bind), desc := d, committed := !(opConductor p d.opcode || policyInput p d), tenant := (s.ring p ring).tenant, kind := ((((s.wr (F.ringSqHeadConsumed p) (s.rd (F.ringSqHeadConsumed p) ring + 1) ring).wr64 (F.ringSeqLoSeq p) (F.ringSeqHiSeq p) (s.rd64 (F.ringSeqLoSeq p) (F.ringSeqHiSeq p) ring + 1) ring).fetchAhead p ring)).ringKind p ring, key := (s.ring p ring).key, slots := (s.ring p ring).slots, order := (((((s.wr (F.ringSqHeadConsumed p) (s.rd (F.ringSqHeadConsumed p) ring + 1) ring).wr64 (F.ringSeqLoSeq p) (F.ringSeqHiSeq p) (s.rd64 (F.ringSeqLoSeq p) (F.ringSeqHiSeq p) ring + 1) ring).fetchAhead p ring)).node p).starts } : InFlight)] }).modNode p fun x => { x with starts := x.starts + 1 })).descSlot d) (.descriptor ring ((s.rd64 (F.ringSeqLoSeq p) (F.ringSeqHiSeq p) ring) + 2 ^ 64 * (s.ring p ring).bind) d ({ seq := ((s.rd64 (F.ringSeqLoSeq p) (F.ringSeqHiSeq p) ring) + 2 ^ 64 * (s.ring p ring).bind), desc := d, committed := !(opConductor p d.opcode || policyInput p d), tenant := (s.ring p ring).tenant, kind := ((((s.wr (F.ringSqHeadConsumed p) (s.rd (F.ringSqHeadConsumed p) ring + 1) ring).wr64 (F.ringSeqLoSeq p) (F.ringSeqHiSeq p) (s.rd64 (F.ringSeqLoSeq p) (F.ringSeqHiSeq p) ring + 1) ring).fetchAhead p ring)).ringKind p ring, key := (s.ring p ring).key, slots := (s.ring p ring).slots, order := (((((s.wr (F.ringSqHeadConsumed p) (s.rd (F.ringSqHeadConsumed p) ring + 1) ring).wr64 (F.ringSeqLoSeq p) (F.ringSeqHiSeq p) (s.rd64 (F.ringSeqLoSeq p) (F.ringSeqHiSeq p) ring + 1) ring).fetchAhead p ring)).node p).starts } : InFlight).tenant ({ seq := ((s.rd64 (F.ringSeqLoSeq p) (F.ringSeqHiSeq p) ring) + 2 ^ 64 * (s.ring p ring).bind), desc := d, committed := !(opConductor p d.opcode || policyInput p d), tenant := (s.ring p ring).tenant, kind := ((((s.wr (F.ringSqHeadConsumed p) (s.rd (F.ringSqHeadConsumed p) ring + 1) ring).wr64 (F.ringSeqLoSeq p) (F.ringSeqHiSeq p) (s.rd64 (F.ringSeqLoSeq p) (F.ringSeqHiSeq p) ring + 1) ring).fetchAhead p ring)).ringKind p ring, key := (s.ring p ring).key, slots := (s.ring p ring).slots, order := (((((s.wr (F.ringSqHeadConsumed p) (s.rd (F.ringSqHeadConsumed p) ring + 1) ring).wr64 (F.ringSeqLoSeq p) (F.ringSeqHiSeq p) (s.rd64 (F.ringSeqLoSeq p) (F.ringSeqHiSeq p) ring + 1) ring).fetchAhead p ring)).node p).starts } : InFlight).kind))) ∧
  (∀ (p : Part) (ring : Nat) (d : Desc) (s : State), Runs s p →
      s.ringRuns p ring = true →
      (s.ring p ring).waiting = [] →
      s.rd (F.ringSqHeadConsumed p) ring ≠ (s.ring p ring).sqTail →
      (bit d.flags 1 = true → (s.ring p ring).flight = []) →
      ((((s.wr (F.ringSqHeadConsumed p) (s.rd (F.ringSqHeadConsumed p) ring + 1) ring).wr64 (F.ringSeqLoSeq p) (F.ringSeqHiSeq p) (s.rd64 (F.ringSeqLoSeq p) (F.ringSeqHiSeq p) ring + 1) ring).fetchAhead p ring)).descStatus p ring (s.rd64 (F.ringSeqLoSeq p) (F.ringSeqHiSeq p) ring) d = 1 →
      exec (.descriptorFetch p ring d) s = .next (((((((((s.wr (F.ringSqHeadConsumed p) (s.rd (F.ringSqHeadConsumed p) ring + 1) ring).wr64 (F.ringSeqLoSeq p) (F.ringSeqHiSeq p) (s.rd64 (F.ringSeqLoSeq p) (F.ringSeqHiSeq p) ring + 1) ring).fetchAhead p ring)).modRing p ring fun t => { t with flight := t.flight ++ [({ seq := ((s.rd64 (F.ringSeqLoSeq p) (F.ringSeqHiSeq p) ring) + 2 ^ 64 * (s.ring p ring).bind), desc := { d with cookie := 0 }, committed := !(opConductor p d.opcode || policyInput p d), tenant := (s.ring p ring).tenant, kind := ((((s.wr (F.ringSqHeadConsumed p) (s.rd (F.ringSqHeadConsumed p) ring + 1) ring).wr64 (F.ringSeqLoSeq p) (F.ringSeqHiSeq p) (s.rd64 (F.ringSeqLoSeq p) (F.ringSeqHiSeq p) ring + 1) ring).fetchAhead p ring)).ringKind p ring, key := (s.ring p ring).key, slots := (s.ring p ring).slots, order := (((((s.wr (F.ringSqHeadConsumed p) (s.rd (F.ringSqHeadConsumed p) ring + 1) ring).wr64 (F.ringSeqLoSeq p) (F.ringSeqHiSeq p) (s.rd64 (F.ringSeqLoSeq p) (F.ringSeqHiSeq p) ring + 1) ring).fetchAhead p ring)).node p).starts } : InFlight)] }).modNode p fun x => { x with starts := x.starts + 1 })).bump (F.ringBadTagCount p) ring).finish p ring ((s.rd64 (F.ringSeqLoSeq p) (F.ringSeqHiSeq p) ring) + 2 ^ 64 * (s.ring p ring).bind) 1 0 0)) ∧
  (∀ (p : Part) (ring : Nat) (d : Desc) (st : Nat) (s : State), Runs s p →
      s.ringRuns p ring = true →
      (s.ring p ring).waiting = [] →
      s.rd (F.ringSqHeadConsumed p) ring ≠ (s.ring p ring).sqTail →
      (bit d.flags 1 = true → (s.ring p ring).flight = []) →
      ((((s.wr (F.ringSqHeadConsumed p) (s.rd (F.ringSqHeadConsumed p) ring + 1) ring).wr64 (F.ringSeqLoSeq p) (F.ringSeqHiSeq p) (s.rd64 (F.ringSeqLoSeq p) (F.ringSeqHiSeq p) ring + 1) ring).fetchAhead p ring)).descStatus p ring (s.rd64 (F.ringSeqLoSeq p) (F.ringSeqHiSeq p) ring) d = st →
      1 < st →
      exec (.descriptorFetch p ring d) s = .next ((((((((s.wr (F.ringSqHeadConsumed p) (s.rd (F.ringSqHeadConsumed p) ring + 1) ring).wr64 (F.ringSeqLoSeq p) (F.ringSeqHiSeq p) (s.rd64 (F.ringSeqLoSeq p) (F.ringSeqHiSeq p) ring + 1) ring).fetchAhead p ring)).modRing p ring fun t => { t with flight := t.flight ++ [({ seq := ((s.rd64 (F.ringSeqLoSeq p) (F.ringSeqHiSeq p) ring) + 2 ^ 64 * (s.ring p ring).bind), desc := d, committed := !(opConductor p d.opcode || policyInput p d), tenant := (s.ring p ring).tenant, kind := ((((s.wr (F.ringSqHeadConsumed p) (s.rd (F.ringSqHeadConsumed p) ring + 1) ring).wr64 (F.ringSeqLoSeq p) (F.ringSeqHiSeq p) (s.rd64 (F.ringSeqLoSeq p) (F.ringSeqHiSeq p) ring + 1) ring).fetchAhead p ring)).ringKind p ring, key := (s.ring p ring).key, slots := (s.ring p ring).slots, order := (((((s.wr (F.ringSqHeadConsumed p) (s.rd (F.ringSqHeadConsumed p) ring + 1) ring).wr64 (F.ringSeqLoSeq p) (F.ringSeqHiSeq p) (s.rd64 (F.ringSeqLoSeq p) (F.ringSeqHiSeq p) ring + 1) ring).fetchAhead p ring)).node p).starts } : InFlight)] }).modNode p fun x => { x with starts := x.starts + 1 })).finish p ring ((s.rd64 (F.ringSeqLoSeq p) (F.ringSeqHiSeq p) ring) + 2 ^ 64 * (s.ring p ring).bind) st 0 0)) ∧
  (∀ (p : Part) (ring seq : Nat) (f : InFlight) (s : State), Runs s p →
      Asked s p ring seq 0 f →
      exec (.nop p ring seq) s = .next ((s.begin_ p ring seq).finish p ring seq 0 0 0))

/-- At the conductor CH_CREATE takes the lowest free index with its generation, CREATED, and completes with the handle, or with NO_SPACE where none is free or the slot's share is spent; at a TSU a free index out of quarantine takes the handle's generation, told to the package where it is new. CH_BIND at a TSU stores targets and context of a current channel of the tenant without armed entries; at the conductor it binds a created or resting channel to a plan, variant, ring and grid of its slot. CH_ARM runs an idle or halted bound channel from a word of its plan, CH_PAUSE records the pause of a running one, CH_RESUME returns a paused one to where it was, or replays it, each for a channel of the descriptor's tenant; CH_DESTROY ends the channel and its DESTROYED event and completion come at T_d. Where a check fails each completes with its status. The quarantine of an index ends at its count. EPOCH_SWAP makes an epoch pending for every bound channel of its slot and completes with their number. -/
def Obligations.ChannelsLiveAndEnd : Prop :=
  (∀ (ring seq : Nat) (f : InFlight) (s : State), Runs s .dbx →
      Asked s .dbx ring seq 1 f →
      (s.begin_ .dbx ring seq).freeIndex < 2 ^ 18 →
      ((s.begin_ .dbx ring seq).d.chans.filter fun x => x.2.r.slot == opnd f.desc 40 1).length < (s.begin_ .dbx ring seq).rd F.condShareChChannels (opnd f.desc 40 1) →
      exec (.chCreate .dbx ring seq) s = .next ((((s.begin_ .dbx ring seq).modD fun x => { x with chans := fset x.chans (s.begin_ .dbx ring seq).freeIndex { state := 1, tenant := f.tenant, r := { handle := mkHandle ((s.begin_ .dbx ring seq).gen .dbx (s.begin_ .dbx ring seq).freeIndex) (s.begin_ .dbx ring seq).freeIndex, slot := opnd f.desc 40 1, attempt := fgetD (s.begin_ .dbx ring seq).d.attempts (s.begin_ .dbx ring seq).freeIndex 0 } } }).countCreate
        .dbx).finish .dbx ring seq 0 (mkHandle ((s.begin_ .dbx ring seq).gen .dbx (s.begin_ .dbx ring seq).freeIndex) (s.begin_ .dbx ring seq).freeIndex) 0)) ∧
  (∀ (ring seq : Nat) (f : InFlight) (s : State), Runs s .dbx →
      Asked s .dbx ring seq 1 f →
      2 ^ 18 ≤ (s.begin_ .dbx ring seq).freeIndex ∨ (s.begin_ .dbx ring seq).rd F.condShareChChannels (opnd f.desc 40 1) ≤ ((s.begin_ .dbx ring seq).d.chans.filter fun x => x.2.r.slot == opnd f.desc 40 1).length →
      exec (.chCreate .dbx ring seq) s = .next ((s.begin_ .dbx ring seq).finish .dbx ring seq 0xA 0 0)) ∧
  (∀ (ring seq : Nat) (f : InFlight) (s : State), Runs s .tsu →
      Asked s .tsu ring seq 1 f →
      fget? (s.begin_ .tsu ring seq).t.chans (hIndex f.desc.handle) = none →
      (s.begin_ .tsu ring seq).inQuarantine .tsu (hIndex f.desc.handle) = false →
      (s.begin_ .tsu ring seq).gen .tsu (hIndex f.desc.handle) = hGen f.desc.handle →
      exec (.chCreate .tsu ring seq) s = .next (((((s.begin_ .tsu ring seq).modT fun t => { t with chans := fset t.chans (hIndex f.desc.handle) { state := 1, gen := hGen f.desc.handle, tenant := f.tenant, ctx := f.desc.ext.take 64 } }).modNode .tsu fun n => { n with gens := fset n.gens (hIndex f.desc.handle) (hGen f.desc.handle) }).countCreate .tsu).finish .tsu ring seq 0 0 0)) ∧
  (∀ (ring seq : Nat) (f : InFlight) (s : State), Runs s .tsu →
      Asked s .tsu ring seq 1 f →
      fget? (s.begin_ .tsu ring seq).t.chans (hIndex f.desc.handle) = none →
      (s.begin_ .tsu ring seq).inQuarantine .tsu (hIndex f.desc.handle) = false →
      (s.begin_ .tsu ring seq).gen .tsu (hIndex f.desc.handle) ≠ hGen f.desc.handle →
      exec (.chCreate .tsu ring seq) s = .next ((((((s.begin_ .tsu ring seq).modT fun t => { t with chans := fset t.chans (hIndex f.desc.handle) { state := 1, gen := hGen f.desc.handle, tenant := f.tenant, ctx := f.desc.ext.take 64 } }).modNode .tsu fun n => { n with gens := fset n.gens (hIndex f.desc.handle) (hGen f.desc.handle) }).genUpdate (hIndex f.desc.handle)).countCreate .tsu).finish .tsu ring seq 0 0 0)) ∧
  (∀ (ring seq : Nat) (f : InFlight) (s : State), Runs s .tsu →
      Asked s .tsu ring seq 1 f →
      (fget? (s.begin_ .tsu ring seq).t.chans (hIndex f.desc.handle)).isSome = true →
      exec (.chCreate .tsu ring seq) s = .next ((s.begin_ .tsu ring seq).finish .tsu ring seq 9 0 0)) ∧
  (∀ (ring seq : Nat) (f : InFlight) (s : State), Runs s .tsu →
      Asked s .tsu ring seq 1 f →
      fget? (s.begin_ .tsu ring seq).t.chans (hIndex f.desc.handle) = none →
      (s.begin_ .tsu ring seq).inQuarantine .tsu (hIndex f.desc.handle) = true →
      exec (.chCreate .tsu ring seq) s = .next ((s.begin_ .tsu ring seq).finish .tsu ring seq 0xA 0 0)) ∧
  (∀ (ring seq : Nat) (f : InFlight) (s : State), Runs s .tsu →
      Asked s .tsu ring seq 2 f →
      gateStatus ((s.begin_ .tsu ring seq).tsuTenant f.desc.handle false) f.tenant f.kind = 0 →
      ((s.begin_ .tsu ring seq).t.arm.any fun x => x.2.cz.handle == f.desc.handle) = false →
      exec (.chBind .tsu ring seq) s = .next (((s.begin_ .tsu ring seq).modT fun t => { t with chans := fmod t.chans (hIndex f.desc.handle) { state := 1, gen := hGen f.desc.handle, tenant := 0 } fun c => { c with state := 2, targets := bitsOfWords (f.desc.ext.take 32) 8, ctx := if f.desc.extLen = 96 then f.desc.ext.drop 32 else c.ctx } }).finish .tsu ring seq 0 0 0)) ∧
  (∀ (ring seq : Nat) (f : InFlight) (g : Nat) (s : State), Runs s .tsu →
      Asked s .tsu ring seq 2 f →
      gateStatus ((s.begin_ .tsu ring seq).tsuTenant f.desc.handle false) f.tenant f.kind = g →
      g ≠ 0 →
      exec (.chBind .tsu ring seq) s = .next ((s.begin_ .tsu ring seq).finish .tsu ring seq g 0 0)) ∧
  (∀ (ring seq : Nat) (f : InFlight) (s : State), Runs s .tsu →
      Asked s .tsu ring seq 2 f →
      gateStatus ((s.begin_ .tsu ring seq).tsuTenant f.desc.handle false) f.tenant f.kind = 0 →
      ((s.begin_ .tsu ring seq).t.arm.any fun x => x.2.cz.handle == f.desc.handle) = true →
      exec (.chBind .tsu ring seq) s = .next ((s.begin_ .tsu ring seq).finish .tsu ring seq 9 0 0)) ∧
  (∀ (ring seq : Nat) (f : InFlight) (c : CondChan) (q : Plan) (s : State), Runs s .dbx →
      Asked s .dbx ring seq 2 f →
      gateStatus ((s.begin_ .dbx ring seq).condTenant f.desc.handle) f.tenant f.kind = 0 →
      (s.begin_ .dbx ring seq).chan (hIndex f.desc.handle) = some c →
      (c.state == 1 || restful c) = true →
      (s.begin_ .dbx ring seq).rd F.condGridSlot (opnd f.desc 44 2) = c.r.slot →
      ((fget? (s.begin_ .dbx ring seq).d.plans (bits (opnd f.desc 40 2) 0 12)).filter fun q => q.slot == c.r.slot && !q.retiring) = some q →
      opnd f.desc 42 1 < q.variants.length →
      256 ≤ ring ∨ ((s.begin_ .dbx ring seq).ringKind .dbx (opnd f.desc 43 1) = 2 ∧ ((s.begin_ .dbx ring seq).ring .dbx (opnd f.desc 43 1)).tenant = c.tenant) →
      (((s.begin_ .dbx ring seq).d.chans.filter fun x => x.2.state == 2 && x.1 != (hIndex f.desc.handle)).filter fun x => x.2.r.slot == c.r.slot).length < (s.begin_ .dbx ring seq).rd F.condShareChChannels c.r.slot →
      (((s.begin_ .dbx ring seq).d.chans.filter fun x => x.2.state == 2 && x.1 != (hIndex f.desc.handle)).filter fun x => x.2.r.plan == (bits (opnd f.desc 40 2) 0 12)).length < q.maxChannels →
      q.reaches ((s.begin_ .dbx ring seq).condFrame (opnd f.desc 44 2)) = false →
      c.state ≠ 2 →
      exec (.chBind .dbx ring seq) s = .next ((((s.begin_ .dbx ring seq).modD fun x => { x with chans := fset x.chans (hIndex f.desc.handle) { state := 2, tenant := c.tenant, r := (bindRecord c.r (bits (opnd f.desc 40 2) 0 12) f.desc), chosen := opnd f.desc 42 1, aborts := c.aborts } }).showBound c.r.slot).finish .dbx ring seq 0 0 0)) ∧
  (∀ (ring seq : Nat) (f : InFlight) (c : CondChan) (q : Plan) (s : State), Runs s .dbx →
      Asked s .dbx ring seq 2 f →
      gateStatus ((s.begin_ .dbx ring seq).condTenant f.desc.handle) f.tenant f.kind = 0 →
      (s.begin_ .dbx ring seq).chan (hIndex f.desc.handle) = some c →
      (c.state == 1 || restful c) = true →
      (s.begin_ .dbx ring seq).rd F.condGridSlot (opnd f.desc 44 2) = c.r.slot →
      ((fget? (s.begin_ .dbx ring seq).d.plans (bits (opnd f.desc 40 2) 0 12)).filter fun q => q.slot == c.r.slot && !q.retiring) = some q →
      opnd f.desc 42 1 < q.variants.length →
      256 ≤ ring ∨ ((s.begin_ .dbx ring seq).ringKind .dbx (opnd f.desc 43 1) = 2 ∧ ((s.begin_ .dbx ring seq).ring .dbx (opnd f.desc 43 1)).tenant = c.tenant) →
      (((s.begin_ .dbx ring seq).d.chans.filter fun x => x.2.state == 2 && x.1 != (hIndex f.desc.handle)).filter fun x => x.2.r.slot == c.r.slot).length < (s.begin_ .dbx ring seq).rd F.condShareChChannels c.r.slot →
      (((s.begin_ .dbx ring seq).d.chans.filter fun x => x.2.state == 2 && x.1 != (hIndex f.desc.handle)).filter fun x => x.2.r.plan == (bits (opnd f.desc 40 2) 0 12)).length < q.maxChannels →
      q.reaches ((s.begin_ .dbx ring seq).condFrame (opnd f.desc 44 2)) = false →
      c.state = 2 →
      exec (.chBind .dbx ring seq) s = .next (((((s.begin_ .dbx ring seq).modD fun x => { x with chans := fset x.chans (hIndex f.desc.handle) { state := 2, tenant := c.tenant, r := (bindRecord c.r (bits (opnd f.desc 40 2) 0 12) f.desc), chosen := opnd f.desc 42 1, aborts := c.aborts } }).showBound c.r.slot).dropPlan c.r.plan).finish .dbx ring seq 0 0 0)) ∧
  (∀ (ring seq : Nat) (f : InFlight) (g : Nat) (s : State), Runs s .dbx →
      Asked s .dbx ring seq 2 f →
      gateStatus ((s.begin_ .dbx ring seq).condTenant f.desc.handle) f.tenant f.kind = g →
      g ≠ 0 →
      exec (.chBind .dbx ring seq) s = .next ((s.begin_ .dbx ring seq).finish .dbx ring seq g 0 0)) ∧
  (∀ (ring seq : Nat) (f : InFlight) (c : CondChan) (s : State), Runs s .dbx →
      Asked s .dbx ring seq 2 f →
      gateStatus ((s.begin_ .dbx ring seq).condTenant f.desc.handle) f.tenant f.kind = 0 →
      (s.begin_ .dbx ring seq).chan (hIndex f.desc.handle) = some c →
      (c.state == 1 || restful c) = false →
      exec (.chBind .dbx ring seq) s = .next ((s.begin_ .dbx ring seq).finish .dbx ring seq 9 0 0)) ∧
  (∀ (ring seq : Nat) (f : InFlight) (c : CondChan) (s : State), Runs s .dbx →
      Asked s .dbx ring seq 2 f →
      gateStatus ((s.begin_ .dbx ring seq).condTenant f.desc.handle) f.tenant f.kind = 0 →
      (s.begin_ .dbx ring seq).chan (hIndex f.desc.handle) = some c →
      (c.state == 1 || restful c) = true →
      (s.begin_ .dbx ring seq).rd F.condGridSlot (opnd f.desc 44 2) = c.r.slot →
      ((fget? (s.begin_ .dbx ring seq).d.plans (bits (opnd f.desc 40 2) 0 12)).filter fun q => q.slot == c.r.slot && !q.retiring) = none →
      exec (.chBind .dbx ring seq) s = .next ((s.begin_ .dbx ring seq).finish .dbx ring seq 0x13 0 0)) ∧
  (∀ (ring seq : Nat) (f : InFlight) (c : CondChan) (s : State), Runs s .dbx →
      Asked s .dbx ring seq 3 f →
      gateStatus ((s.begin_ .dbx ring seq).condTenant f.desc.handle) f.tenant f.kind = 0 →
      (s.begin_ .dbx ring seq).chan (hIndex f.desc.handle) = some c →
      c.state = 2 →
      restful c = true →
      (((s.begin_ .dbx ring seq).planOf c).any fun q => decide (bits (opnd f.desc 40 4) 0 20 < (q.variants.getD 0 []).length)) = true →
      exec (.chArm ring seq) s = .next (((((s.begin_ .dbx ring seq).modCh (hIndex f.desc.handle) fun c => { c with r := { c.r with exec := 1, pc := bits (opnd f.desc 40 4) 0 20, stepOpen := false }, readyAt := (s.begin_ .dbx ring seq).dbx.lfn, wait := .none, inRun := false, run := keptRun c.run, resume := 0 }))).finish .dbx ring seq 0 c.r.step 0)) ∧
  (∀ (ring seq : Nat) (f : InFlight) (c : CondChan) (s : State), Runs s .dbx →
      Asked s .dbx ring seq 3 f →
      gateStatus ((s.begin_ .dbx ring seq).condTenant f.desc.handle) f.tenant f.kind = 0 →
      (s.begin_ .dbx ring seq).chan (hIndex f.desc.handle) = some c →
      c.state ≠ 2 ∨ restful c = false →
      exec (.chArm ring seq) s = .next ((s.begin_ .dbx ring seq).finish .dbx ring seq 9 0 0)) ∧
  (∀ (ring seq : Nat) (f : InFlight) (c : CondChan) (s : State), Runs s .dbx →
      Asked s .dbx ring seq 3 f →
      gateStatus ((s.begin_ .dbx ring seq).condTenant f.desc.handle) f.tenant f.kind = 0 →
      (s.begin_ .dbx ring seq).chan (hIndex f.desc.handle) = some c →
      c.state = 2 →
      restful c = true →
      (((s.begin_ .dbx ring seq).planOf c).any fun q => decide (bits (opnd f.desc 40 4) 0 20 < (q.variants.getD 0 []).length)) = false →
      exec (.chArm ring seq) s = .next ((s.begin_ .dbx ring seq).finish .dbx ring seq 5 0 0)) ∧
  (∀ (ring seq : Nat) (f : InFlight) (g : Nat) (s : State), Runs s .dbx →
      Asked s .dbx ring seq 3 f →
      gateStatus ((s.begin_ .dbx ring seq).condTenant f.desc.handle) f.tenant f.kind = g →
      g ≠ 0 →
      exec (.chArm ring seq) s = .next ((s.begin_ .dbx ring seq).finish .dbx ring seq g 0 0)) ∧
  (∀ (ring seq : Nat) (f : InFlight) (c : CondChan) (s : State), Runs s .dbx →
      Asked s .dbx ring seq 4 f →
      gateStatus ((s.begin_ .dbx ring seq).condTenant f.desc.handle) f.tenant f.kind = 0 →
      (s.begin_ .dbx ring seq).chan (hIndex f.desc.handle) = some c →
      c.state = 2 →
      restful c = false →
      c.r.exec ≠ 4 →
      c.r.exec ≠ 6 →
      c.pauseBy.contains (ring, seq) = false →
      exec (.chPause ring seq) s = .next (((s.begin_ .dbx ring seq).modCh (hIndex f.desc.handle) fun c => { c with pauseBy := c.pauseBy ++ [(ring, seq)] }))) ∧
  (∀ (ring seq : Nat) (f : InFlight) (c : CondChan) (s : State), Runs s .dbx →
      Asked s .dbx ring seq 4 f →
      gateStatus ((s.begin_ .dbx ring seq).condTenant f.desc.handle) f.tenant f.kind = 0 →
      (s.begin_ .dbx ring seq).chan (hIndex f.desc.handle) = some c →
      c.state = 2 →
      c.r.exec = 6 →
      c.pauseBy.contains (ring, seq) = false →
      exec (.chPause ring seq) s = .next (((s.begin_ .dbx ring seq).modCh (hIndex f.desc.handle) fun c => { c with pauseBy := c.pauseBy ++ [(ring, seq)] }).pauseNow (hIndex f.desc.handle) 6)) ∧
  (∀ (ring seq : Nat) (f : InFlight) (c : CondChan) (s : State), Runs s .dbx →
      Asked s .dbx ring seq 4 f →
      gateStatus ((s.begin_ .dbx ring seq).condTenant f.desc.handle) f.tenant f.kind = 0 →
      (s.begin_ .dbx ring seq).chan (hIndex f.desc.handle) = some c →
      c.state = 2 →
      c.r.exec = 4 →
      exec (.chPause ring seq) s = .next ((s.begin_ .dbx ring seq).finish .dbx ring seq 0 c.r.step 0)) ∧
  (∀ (ring seq : Nat) (f : InFlight) (c : CondChan) (s : State), Runs s .dbx →
      Asked s .dbx ring seq 4 f →
      gateStatus ((s.begin_ .dbx ring seq).condTenant f.desc.handle) f.tenant f.kind = 0 →
      (s.begin_ .dbx ring seq).chan (hIndex f.desc.handle) = some c →
      c.state ≠ 2 ∨ restful c = true →
      exec (.chPause ring seq) s = .next ((s.begin_ .dbx ring seq).finish .dbx ring seq 9 0 0)) ∧
  (∀ (ring seq : Nat) (f : InFlight) (g : Nat) (s : State), Runs s .dbx →
      Asked s .dbx ring seq 4 f →
      gateStatus ((s.begin_ .dbx ring seq).condTenant f.desc.handle) f.tenant f.kind = g →
      g ≠ 0 →
      exec (.chPause ring seq) s = .next ((s.begin_ .dbx ring seq).finish .dbx ring seq g 0 0)) ∧
  (∀ (ring seq : Nat) (f : InFlight) (c : CondChan) (s : State), Runs s .dbx →
      Asked s .dbx ring seq 5 f →
      gateStatus ((s.begin_ .dbx ring seq).condTenant f.desc.handle) f.tenant f.kind = 0 →
      (s.begin_ .dbx ring seq).chan (hIndex f.desc.handle) = some c →
      c.state = 2 →
      c.r.exec = 4 →
      c.stLost = false →
      c.resume ≠ 6 →
      exec (.chResume ring seq) s = .next (((s.begin_ .dbx ring seq).modCh (hIndex f.desc.handle) fun c => { c with r := { c.r with exec := c.resume }, resume := 0, readyAt := (s.begin_ .dbx ring seq).dbx.lfn }).finish .dbx ring seq 0 0 0)) ∧
  (∀ (ring seq : Nat) (f : InFlight) (c : CondChan) (s : State), Runs s .dbx →
      Asked s .dbx ring seq 5 f →
      gateStatus ((s.begin_ .dbx ring seq).condTenant f.desc.handle) f.tenant f.kind = 0 →
      (s.begin_ .dbx ring seq).chan (hIndex f.desc.handle) = some c →
      c.state = 2 →
      c.r.exec = 4 →
      c.stLost = false →
      c.resume = 6 →
      c.faulted = true →
      exec (.chResume ring seq) s = .next ((((s.begin_ .dbx ring seq).modCh (hIndex f.desc.handle) fun c => { c with r := { c.r with exec := 6, replays := 0 }, resume := 0, faulted := false }).doReplay (hIndex f.desc.handle)).finish .dbx ring seq 0 0 0)) ∧
  (∀ (ring seq : Nat) (f : InFlight) (c : CondChan) (s : State), Runs s .dbx →
      Asked s .dbx ring seq 5 f →
      gateStatus ((s.begin_ .dbx ring seq).condTenant f.desc.handle) f.tenant f.kind = 0 →
      (s.begin_ .dbx ring seq).chan (hIndex f.desc.handle) = some c →
      c.state = 2 →
      c.r.exec = 4 →
      c.stLost = false →
      c.resume = 6 →
      c.faulted = false →
      exec (.chResume ring seq) s = .next ((((s.begin_ .dbx ring seq).modCh (hIndex f.desc.handle) fun c => { c with r := { c.r with exec := 6, replays := 0 }, resume := 0, faulted := false }).tryRestore (hIndex f.desc.handle)).finish .dbx ring seq 0 0 0)) ∧
  (∀ (ring seq : Nat) (f : InFlight) (c : CondChan) (s : State), Runs s .dbx →
      Asked s .dbx ring seq 5 f →
      gateStatus ((s.begin_ .dbx ring seq).condTenant f.desc.handle) f.tenant f.kind = 0 →
      (s.begin_ .dbx ring seq).chan (hIndex f.desc.handle) = some c →
      c.state ≠ 2 ∨ c.r.exec ≠ 4 ∨ c.stLost = true →
      exec (.chResume ring seq) s = .next ((s.begin_ .dbx ring seq).finish .dbx ring seq 9 0 0)) ∧
  (∀ (ring seq : Nat) (f : InFlight) (g : Nat) (s : State), Runs s .dbx →
      Asked s .dbx ring seq 5 f →
      gateStatus ((s.begin_ .dbx ring seq).condTenant f.desc.handle) f.tenant f.kind = g →
      g ≠ 0 →
      exec (.chResume ring seq) s = .next ((s.begin_ .dbx ring seq).finish .dbx ring seq g 0 0)) ∧
  (∀ (ring seq : Nat) (f : InFlight) (c : CondChan) (s : State), Runs s .dbx →
      Asked s .dbx ring seq 6 f →
      gateStatus ((s.begin_ .dbx ring seq).condTenant f.desc.handle) f.tenant f.kind = 0 →
      (s.begin_ .dbx ring seq).chan (hIndex f.desc.handle) = some c →
      ((s.begin_ .dbx ring seq).d.destroyed.any fun x => x.2.ring == ring && x.2.seq == seq) = false →
      exec (.chDestroy .dbx ring seq) s = .next ((s.begin_ .dbx ring seq).condDestroy ring seq (hIndex f.desc.handle) c)) ∧
  (∀ (ring seq : Nat) (f : InFlight) (g : Nat) (s : State), Runs s .dbx →
      Asked s .dbx ring seq 6 f →
      gateStatus ((s.begin_ .dbx ring seq).condTenant f.desc.handle) f.tenant f.kind = g →
      g ≠ 0 →
      ((s.begin_ .dbx ring seq).d.destroyed.any fun x => x.2.ring == ring && x.2.seq == seq) = false →
      exec (.chDestroy .dbx ring seq) s = .next ((s.begin_ .dbx ring seq).finish .dbx ring seq g 0 0)) ∧
  (∀ (ring seq : Nat) (f : InFlight) (c : TsuChan) (s : State), Runs s .tsu →
      Asked s .tsu ring seq 6 f →
      gateStatus ((s.begin_ .tsu ring seq).tsuTenant f.desc.handle (bit (opnd f.desc 40 1) 0)) f.tenant f.kind = 0 →
      fget? (s.begin_ .tsu ring seq).t.chans (hIndex f.desc.handle) = some c →
      exec (.chDestroy .tsu ring seq) s = .next (((s.begin_ .tsu ring seq).tearDown (hIndex f.desc.handle) c).finish .tsu ring seq 0 (s.begin_ .tsu ring seq).tsu.lfn 0)) ∧
  (∀ (ring seq : Nat) (f : InFlight) (g : Nat) (s : State), Runs s .tsu →
      Asked s .tsu ring seq 6 f →
      gateStatus ((s.begin_ .tsu ring seq).tsuTenant f.desc.handle (bit (opnd f.desc 40 1) 0)) f.tenant f.kind = g →
      g ≠ 0 →
      exec (.chDestroy .tsu ring seq) s = .next ((s.begin_ .tsu ring seq).finish .tsu ring seq g 0 0)) ∧
  (∀ (index : Nat) (x : Destroyed) (s : State), Runs s .dbx →
      fget? s.d.destroyed index = some x →
      x.td ≤ s.dbx.lfn →
      x.bound = false →
      exec (.destroyedEvent index) s = .next ((s.modD fun d => { d with destroyed := fdel d.destroyed index }).finish .dbx x.ring x.seq 0 x.td ((s.modD fun d => { d with destroyed := fdel d.destroyed index }).quarantineLf .dbx))) ∧
  (∀ (index : Nat) (x : Destroyed) (s : State), Runs s .dbx →
      fget? s.d.destroyed index = some x →
      x.td ≤ s.dbx.lfn →
      x.bound = true →
      s.ringFree x.r.ring = true →
      s.isActive = true →
      exec (.destroyedEvent index) s = .next (((s.modD fun d => { d with destroyed := fdel d.destroyed index }).writeCompletion .dbx x.r.ring (chanPost x.r 2 0x84 0 0 true)).finish .dbx x.ring x.seq 0 x.td (((s.modD fun d => { d with destroyed := fdel d.destroyed index }).writeCompletion .dbx x.r.ring (chanPost x.r 2 0x84 0 0 true)).quarantineLf .dbx))) ∧
  (∀ (p : Part) (index t : Nat) (s : State), Runs s p →
      fget? (s.node p).quar index = some t →
      t ≤ s.lfn p →
      exec (.quarantineEnd p index) s = .next ((s.modNode p fun n => { n with quar := fdel n.quar index }).showQuar p)) ∧
  (∀ (p : Part) (index t : Nat) (s : State), Runs s p →
      fget? (s.node p).quar index = none →
      (s.node p).quarAll = some t →
      t ≤ s.lfn p →
      exec (.quarantineEnd p index) s = .next ((s.modNode p fun n => { n with quarAll := none }).showQuar p)) ∧
  (∀ (ring seq : Nat) (f : InFlight) (s : State), Runs s .dbx →
      Asked s .dbx ring seq 0x21 f →
      exec (.epochSwap ring seq) s = .next (((((s.begin_ .dbx ring seq).slotChans (opnd f.desc 45 1)).foldl (fun t i => t.modCh i fun c =>
          { c with r := { c.r with pending := opnd f.desc 40 4, pendingOk := true }, run := c.run.filter (fun x => x.addr != outsideWord) ++ [⟨outsideWord, true, bit (opnd f.desc 44 1) 0, 4096, 4, 0, 0, 0, .none⟩] }) (s.begin_ .dbx ring seq))).finish
        .dbx ring seq 0 0 ((s.begin_ .dbx ring seq).slotChans (opnd f.desc 45 1)).length))

/-- An output block of the open step of its channel, enters its layer's digest, with the layer's epoch at its first; one without an open step counts as late. A load block of a listed shard is taken when the shard is open and its block is new; a block that comes twice or after verification fails the shard with cause 3, one at or beyond the length with cause 4, one that finds no room for an open shard with cause 5; one of a missing shard changes nothing. A load block of no open layer or no listed shard is unlisted. With the tap off or in a compute-domain reset no output block enters. A shard that is pending or loading at its deadline fails with cause 6. A layer opens at the newer incoming epoch; without one it is left not ready and a fault record is made. MANIFEST of the ring's tenant asks the root of trust to verify it; another tenant's completes with status 7. DIGEST_READ answers the records with their number. -/
def Obligations.WeightGateJudgesWrites : Prop :=
  (∀ (tag addr : Nat) (words : List Nat) (o : OpenStep) (s : State), Runs s .tsu →
      bits tag 0 2 = 1 →
      s.t.cmpAck = false →
      s.is F.digCfgEnable = true →
      (s.t.steps.find? fun o => hIndex o.handle == bits tag 2 18 && o.step % 256 == bits tag 20 8 && !o.sent) = some o →
      o.layers.any (fun x => x.layer == bits tag 28 10) = true →
      exec (.tapWrite tag addr words) s = .next (s.setStep { o with layers := tapLayer o.layers (bits tag 28 10) (digestBlock (s.rd F.roleRole) (bits tag 28 10) addr words) 0 })) ∧
  (∀ (tag addr : Nat) (words : List Nat) (o : OpenStep) (s : State), Runs s .tsu →
      bits tag 0 2 = 1 →
      s.t.cmpAck = false →
      s.is F.digCfgEnable = true →
      (s.t.steps.find? fun o => hIndex o.handle == bits tag 2 18 && o.step % 256 == bits tag 20 8 && !o.sent) = some o →
      o.layers.any (fun x => x.layer == bits tag 28 10) = false →
      exec (.tapWrite tag addr words) s = .next ((s.layerEpoch (bits tag 28 10)).2.setStep { o with layers := tapLayer o.layers (bits tag 28 10) (digestBlock (s.rd F.roleRole) (bits tag 28 10) addr words) (s.layerEpoch (bits tag 28 10)).1 })) ∧
  (∀ (tag addr : Nat) (words : List Nat) (s : State), Runs s .tsu →
      bits tag 0 2 = 1 →
      s.t.cmpAck = true ∨ s.is F.digCfgEnable = false →
      exec (.tapWrite tag addr words) s = .next (s)) ∧
  (∀ (tag addr : Nat) (words : List Nat) (s : State), Runs s .tsu →
      bits tag 0 2 = 1 →
      s.t.cmpAck = false →
      s.is F.digCfgEnable = true →
      (s.t.steps.find? fun o => hIndex o.handle == bits tag 2 18 && o.step % 256 == bits tag 20 8 && !o.sent) = none →
      exec (.tapWrite tag addr words) s = .next (s.bump F.digLateWriteCount)) ∧
  (∀ (tag addr : Nat) (words : List Nat) (m : Manifest) (x : Shard) (s : State), Runs s .tsu →
      bits tag 0 2 = 2 →
      ((fget? s.t.layers (bits tag 2 10)).bind fun l => s.manifestOf l.epoch) = some m →
      (m.shardsOf (bits tag 2 10)).find? (fun x => x.id == bits tag 12 16) = some x →
      x.state = 1 →
      x.blocks.contains (bits tag 28 20) = false →
      64 * bits tag 28 20 < x.len →
      exec (.tapWrite tag addr words) s = .next (s.takeBlock m x (bits tag 28 20) words)) ∧
  (∀ (tag addr : Nat) (words : List Nat) (m : Manifest) (x : Shard) (s : State), Runs s .tsu →
      bits tag 0 2 = 2 →
      ((fget? s.t.layers (bits tag 2 10)).bind fun l => s.manifestOf l.epoch) = some m →
      (m.shardsOf (bits tag 2 10)).find? (fun x => x.id == bits tag 12 16) = some x →
      x.state = 0 →
      x.blocks.contains (bits tag 28 20) = false →
      64 * bits tag 28 20 < x.len →
      s.openShards.length < 256 →
      s.bitmapUsed + x.len / 64 ≤ 2097152 →
      exec (.tapWrite tag addr words) s = .next (s.takeBlock m x (bits tag 28 20) words)) ∧
  (∀ (tag addr : Nat) (words : List Nat) (m : Manifest) (x : Shard) (s : State), Runs s .tsu →
      bits tag 0 2 = 2 →
      ((fget? s.t.layers (bits tag 2 10)).bind fun l => s.manifestOf l.epoch) = some m →
      (m.shardsOf (bits tag 2 10)).find? (fun x => x.id == bits tag 12 16) = some x →
      x.state ≠ 4 →
      x.state = 2 ∨ x.blocks.contains (bits tag 28 20) = true →
      exec (.tapWrite tag addr words) s = .next (s.failShard m x 3)) ∧
  (∀ (tag addr : Nat) (words : List Nat) (m : Manifest) (x : Shard) (s : State), Runs s .tsu →
      bits tag 0 2 = 2 →
      ((fget? s.t.layers (bits tag 2 10)).bind fun l => s.manifestOf l.epoch) = some m →
      (m.shardsOf (bits tag 2 10)).find? (fun x => x.id == bits tag 12 16) = some x →
      x.state ≠ 4 →
      x.state ≠ 2 →
      x.blocks.contains (bits tag 28 20) = false →
      x.len ≤ 64 * bits tag 28 20 →
      exec (.tapWrite tag addr words) s = .next (s.failShard m x 4)) ∧
  (∀ (tag addr : Nat) (words : List Nat) (m : Manifest) (x : Shard) (s : State), Runs s .tsu →
      bits tag 0 2 = 2 →
      ((fget? s.t.layers (bits tag 2 10)).bind fun l => s.manifestOf l.epoch) = some m →
      (m.shardsOf (bits tag 2 10)).find? (fun x => x.id == bits tag 12 16) = some x →
      x.state = 0 →
      x.blocks.contains (bits tag 28 20) = false →
      64 * bits tag 28 20 < x.len →
      256 ≤ s.openShards.length ∨ 2097152 < s.bitmapUsed + x.len / 64 →
      exec (.tapWrite tag addr words) s = .next (s.failShard m x 5)) ∧
  (∀ (tag addr : Nat) (words : List Nat) (m : Manifest) (x : Shard) (s : State), Runs s .tsu →
      bits tag 0 2 = 2 →
      ((fget? s.t.layers (bits tag 2 10)).bind fun l => s.manifestOf l.epoch) = some m →
      (m.shardsOf (bits tag 2 10)).find? (fun x => x.id == bits tag 12 16) = some x →
      x.state = 4 →
      exec (.tapWrite tag addr words) s = .next (s)) ∧
  (∀ (tag addr : Nat) (words : List Nat) (m : Manifest) (s : State), Runs s .tsu →
      bits tag 0 2 = 2 →
      ((fget? s.t.layers (bits tag 2 10)).bind fun l => s.manifestOf l.epoch) = some m →
      (m.shardsOf (bits tag 2 10)).find? (fun x => x.id == bits tag 12 16) = none →
      exec (.tapWrite tag addr words) s = .next (s.unlisted (bits tag 2 10))) ∧
  (∀ (tag addr : Nat) (words : List Nat) (s : State), Runs s .tsu →
      bits tag 0 2 = 2 →
      ((fget? s.t.layers (bits tag 2 10)).bind fun l => s.manifestOf l.epoch) = none →
      exec (.tapWrite tag addr words) s = .next (s.unlisted (bits tag 2 10))) ∧
  (∀ (layer shard : Nat) (m : Manifest) (x : Shard) (s : State), Runs s .tsu →
      ((fget? s.t.layers layer).bind fun l => s.manifestOf l.epoch) = some m →
      (m.shardsOf layer).find? (fun x => x.id == shard) = some x →
      x.state < 2 →
      x.deadline ≤ s.tsu.lfn →
      exec (.shardDeadline layer shard) s = .next (s.failShard m x 6)) ∧
  (∀ (layer : Nat) (m : Manifest) (s : State), Runs s .tsu →
      s.t.mfIn = some m →
      (fget? s.t.layers layer).all (fun l => decide (l.epoch < m.epoch)) = true →
      exec (.layerOpen layer) s = .next ((s.openLayer m.epoch layer).promote)) ∧
  (∀ (layer : Nat) (s : State), Runs s .tsu →
      s.t.mfIn = none →
      exec (.layerOpen layer) s = .next ((s.setReady layer false).record .tsu 3 (Config.recordCode 3 234))) ∧
  (∀ (layer : Nat) (m : Manifest) (s : State), Runs s .tsu →
      s.t.mfIn = some m →
      (fget? s.t.layers layer).all (fun l => decide (l.epoch < m.epoch)) = false →
      exec (.layerOpen layer) s = .next ((s.setReady layer false).record .tsu 3 (Config.recordCode 3 234))) ∧
  (∀ (ring seq : Nat) (f : InFlight) (s : State), Runs s .tsu →
      Asked s .tsu ring seq 0x20 f →
      (s.begin_ .tsu ring seq).t.mbWait.any (fun x => x.kind == 5 && x.ring == ring && x.seq == seq) = false →
      leNat f.desc.ext 96 16 = f.tenant →
      exec (.manifest ring seq) s = .next ((s.begin_ .tsu ring seq).mbRequest 5 ring seq (toLe 48 (mfDigest f.desc.ext) ++ (f.desc.ext.drop 416).take 96 ++ toLe 16 (leNat f.desc.ext 96 16)))) ∧
  (∀ (ring seq : Nat) (f : InFlight) (s : State), Runs s .tsu →
      Asked s .tsu ring seq 0x20 f →
      (s.begin_ .tsu ring seq).t.mbWait.any (fun x => x.kind == 5 && x.ring == ring && x.seq == seq) = false →
      leNat f.desc.ext 96 16 ≠ f.tenant →
      exec (.manifest ring seq) s = .next ((s.begin_ .tsu ring seq).finish .tsu ring seq 7 0 0)) ∧
  (∀ (ring seq : Nat) (f : InFlight) (s : State), Runs s .dbx →
      Asked s .dbx ring seq 0x30 f →
      exec (.digestRead .dbx ring seq) s = .next ((((s.begin_ .dbx ring seq).dbxRecords f).2.result .dbx ring seq f.desc ((s.begin_ .dbx ring seq).dbxRecords f).1.1).finish .dbx ring seq 0 0 ((s.begin_ .dbx ring seq).dbxRecords f).1.2)) ∧
  (∀ (ring seq : Nat) (f : InFlight) (s : State), Runs s .tsu →
      Asked s .tsu ring seq 0x30 f →
      gateStatus ((s.begin_ .tsu ring seq).tsuTenant f.desc.handle false) f.tenant f.kind = 0 →
      exec (.digestRead .tsu ring seq) s = .next ((((s.begin_ .tsu ring seq).tsuRecords f.desc).2.result .tsu ring seq f.desc ((s.begin_ .tsu ring seq).tsuRecords f.desc).1.1).finish .tsu ring seq 0 0 ((s.begin_ .tsu ring seq).tsuRecords f.desc).1.2)) ∧
  (∀ (ring seq : Nat) (f : InFlight) (g : Nat) (s : State), Runs s .tsu →
      Asked s .tsu ring seq 0x30 f →
      gateStatus ((s.begin_ .tsu ring seq).tsuTenant f.desc.handle false) f.tenant f.kind = g →
      g ≠ 0 →
      exec (.digestRead .tsu ring seq) s = .next ((s.begin_ .tsu ring seq).finish .tsu ring seq g 0 0))

/-- HEALTH_READ with selector 0 writes the health block, with selector 1 at a distributor the port entries, with selector 2 the oldest records, res_len div 16 of them, which leave the log; a descriptor of another selector is no row of this one. SPARE_POLICY SET writes the policy fields of its part; INSERT_BEGIN takes the lowest record that is not open with role, slot, partner, UIDs and deadline, or is refused with status 5 when 64 are open; LOST loses the state of an open record and is refused without one; RELEASE takes a role from the retained list; ROLE_LOADED clears pending and sets role_valid. A record past its deadline loses its state. -/
def Obligations.HealthIsReadAndPolicySet : Prop :=
  (∀ (p : Part) (ring seq : Nat) (f : InFlight) (s : State), Runs s p →
      Asked s p ring seq 0x50 f →
      opnd f.desc 40 1 = 0 →
      exec (.healthBlockRead p ring seq) s = .next (((s.begin_ p ring seq).result p ring seq f.desc ((s.begin_ p ring seq).healthBlock p)).finish p ring seq 0 0 0)) ∧
  (∀ (ring seq : Nat) (f : InFlight) (s : State), Runs s .dbx →
      Asked s .dbx ring seq 0x50 f →
      opnd f.desc 40 1 = 1 →
      exec (.portHealthRead ring seq) s = .next (((s.begin_ .dbx ring seq).result .dbx ring seq f.desc (s.begin_ .dbx ring seq).portEntries).finish .dbx ring seq 0 0 0)) ∧
  (∀ (ring seq : Nat) (f : InFlight) (s : State), Runs s .dbx →
      Asked s .dbx ring seq 0x50 f →
      opnd f.desc 40 1 = 2 →
      exec (.recordLogRead ring seq) s = .next (((((s.begin_ .dbx ring seq).modD fun x => { x with recLog := x.recLog.drop (f.desc.resLen / 16) }).wr F.dhealthLogHalf (b2n (decide (2048 < ((s.begin_ .dbx ring seq).modD fun x => { x with recLog := x.recLog.drop (f.desc.resLen / 16) }).d.recLog.length) && ((s.begin_ .dbx ring seq).modD fun x => { x with recLog := x.recLog.drop (f.desc.resLen / 16) }).is F.dhealthLogHalf))).result
        .dbx ring seq f.desc (((s.begin_ .dbx ring seq).d.recLog.take (f.desc.resLen / 16)).flatMap recBytes)).finish .dbx ring seq 0 0 0)) ∧
  (∀ (ring seq : Nat) (f : InFlight) (s : State), Runs s .tsu →
      Asked s .tsu ring seq 0x51 f →
      policyOp f.desc = 0 →
      exec (.set .tsu ring seq) s = .next (((s.begin_ .tsu ring seq).wr F.thealthCfgExpelScore (leNat f.desc.ext 4 2)).finish .tsu ring seq 0 0 0)) ∧
  (∀ (ring seq : Nat) (f : InFlight) (s : State), Runs s .dbx →
      Asked s .dbx ring seq 0x51 f →
      policyOp f.desc = 0 →
      exec (.set .dbx ring seq) s = .next (((((s.begin_ .dbx ring seq).wr F.expelCfgPodLimit (f.desc.ext.getD 4 0)).wr F.expelCfgPartLimit (f.desc.ext.getD 5 0)).wr F.expelCfgWindowS (leNat f.desc.ext 6 2)).finish .dbx ring seq 0 0 0)) ∧
  (∀ (ring seq i : Nat) (f : InFlight) (s : State), Runs s .dbx →
      Asked s .dbx ring seq 0x51 f →
      policyOp f.desc = 1 →
      (List.range 64).find? (fun i => (s.begin_ .dbx ring seq).rd F.insertState i != 1) = some i →
      exec (.insertBegin ring seq) s = .next ((((((List.range 4).foldl (fun t w => t.wr F.insertUidUid (leNat f.desc.ext (16 + 4 * w) 4) i w) (((((s.begin_ .dbx ring seq).wr F.insertRole (leNat f.desc.ext 8 4) i).wr F.insertState 1 i).wr F.insertSlot (f.desc.ext.getD 4 0) i).wr
        F.insertPartnerPartner (leNat f.desc.ext 12 4) i)).wr F.insertDeadlineLfn ((s.dbx.lfn + lfOfMs (leNat f.desc.ext 32 4)) % 2 ^ 32) i).modD fun d => { d with insertBy := fset d.insertBy i (s.dbx.lfn + lfOfMs (leNat f.desc.ext 32 4)) }).showSec).finish .dbx ring seq 0 0 0)) ∧
  (∀ (ring seq : Nat) (f : InFlight) (s : State), Runs s .dbx →
      Asked s .dbx ring seq 0x51 f →
      policyOp f.desc = 1 →
      (List.range 64).find? (fun i => (s.begin_ .dbx ring seq).rd F.insertState i != 1) = none →
      exec (.insertBegin ring seq) s = .next ((s.begin_ .dbx ring seq).finish .dbx ring seq 5 0 0)) ∧
  (∀ (ring seq i : Nat) (f : InFlight) (s : State), Runs s .dbx →
      Asked s .dbx ring seq 0x51 f →
      policyOp f.desc = 2 →
      (s.begin_ .dbx ring seq).openRecord (f.desc.ext.getD 4 0) (leNat f.desc.ext 8 4) = some i →
      exec (.lost ring seq) s = .next (((s.begin_ .dbx ring seq).loseRole i).finish .dbx ring seq 0 0 0)) ∧
  (∀ (ring seq : Nat) (f : InFlight) (s : State), Runs s .dbx →
      Asked s .dbx ring seq 0x51 f →
      policyOp f.desc = 2 →
      (s.begin_ .dbx ring seq).openRecord (f.desc.ext.getD 4 0) (leNat f.desc.ext 8 4) = none →
      exec (.lost ring seq) s = .next ((s.begin_ .dbx ring seq).finish .dbx ring seq 5 0 0)) ∧
  (∀ (i t : Nat) (s : State), Runs s .dbx →
      fget? s.d.insertBy i = some t →
      s.rd F.insertState i = 1 →
      t ≤ s.dbx.lfn →
      exec (.insertionDeadline i) s = .next (s.loseRole i)) ∧
  (∀ (ring seq : Nat) (f : InFlight) (s : State), Runs s .dbx →
      Asked s .dbx ring seq 0x51 f →
      policyOp f.desc = 3 →
      exec (.release ring seq) s = .next (((s.begin_ .dbx ring seq).unlist ((s.begin_ .dbx ring seq).slotPart (f.desc.ext.getD 4 0)) (leNat f.desc.ext 8 4)).finish .dbx ring seq 0 0 0)) ∧
  (∀ (ring seq : Nat) (f : InFlight) (s : State), Runs s .tsu →
      Asked s .tsu ring seq 0x51 f →
      policyOp f.desc = 4 →
      s.is F.thealthRolePending = true →
      exec (.roleLoaded ring seq) s = .next (((((s.begin_ .tsu ring seq).wr F.thealthRolePending 0).wr F.roleRoleValid 1).oweReady).finish .tsu ring seq 0 0 0)) ∧
  (∀ (ring seq : Nat) (f : InFlight) (s : State), Runs s .tsu →
      Asked s .tsu ring seq 0x51 f →
      policyOp f.desc = 4 →
      s.is F.thealthRolePending = false →
      exec (.roleLoaded ring seq) s = .next ((s.begin_ .tsu ring seq).finish .tsu ring seq 0 0 0))

/-- At a multiple of 2^32 link frames every event penalty loses an eighth, rounded up. An expulsion request climbs, or at the apex is granted within the limits and otherwise retains the role. A request without a verdict is repeated after 2^30 link frames while its cause stands and ends with it. A verdict sets granted or retained and clears the request. When the oldest grant leaves the window, the oldest listed role that the limits allow is granted. At the switch LFN the pair traffic moves to X1 when X1 is UP with the same peer, else x1_refused is set. The bank under test passes, or takes a spare, or with no spare left fails the part; every 2^20 link frames the next bank of 640 follows. -/
def Obligations.ScoresExpulsionAndService : Prop :=
  (∀ (s : State), Runs s .tsu →
      s.lfn .tsu % 2 ^ 32 = 0 →
      exec (.penaltyDecay .tsu) s = .next ((s.modNode .tsu fun n => { n with pen := n.pen.map fun x => (x.1, x.2 - ceilDiv x.2 8) }).score .tsu)) ∧
  (∀ (s : State), Runs s .dbx →
      s.lfn .dbx % 2 ^ 32 = 0 →
      exec (.penaltyDecay .dbx) s = .next ((s.modNode .dbx fun n => { n with pen := n.pen.map fun x => (x.1, x.2 - ceilDiv x.2 8) }).scorePorts)) ∧
  (∀ (p : Part) (s : State), Runs s p →
      s.lfn p % 2 ^ 32 ≠ 0 →
      exec (.penaltyDecay p) s = .next (s)) ∧
  (∀ (partition role pod score : Nat) (s : State), Runs s .dbx →
      s.apexSlot partition = none →
      exec (.expulsionRequest partition role pod score) s = .next (s.mgmtUp .dbx 5 partition [role, score])) ∧
  (∀ (partition role pod score : Nat) (k : Nat) (s : State), Runs s .dbx →
      s.apexSlot partition = some k →
      s.mayExpel partition pod = true →
      exec (.expulsionRequest partition role pod score) s = .next (s.grantExpel partition role pod)) ∧
  (∀ (partition role pod score : Nat) (k : Nat) (s : State), Runs s .dbx →
      s.apexSlot partition = some k →
      s.mayExpel partition pod = false →
      exec (.expulsionRequest partition role pod score) s = .next (s.retainRole k partition role pod)) ∧
  (∀ (t : Nat) (s : State), Runs s .tsu →
      s.t.expelAt = some t →
      s.expelCause = true →
      t + 2 ^ 30 ≤ s.tsu.lfn →
      exec (.expulsionRepeat) s = .next (s.expelRequest)) ∧
  (∀ (t : Nat) (s : State), Runs s .tsu →
      s.t.expelAt = some t →
      s.expelCause = false →
      exec (.expulsionRepeat) s = .next ((s.wr F.thealthExpelReq 0).modT fun x => { x with expelAt := none })) ∧
  (∀ (v : Nat) (s : State), Runs s .tsu →
      v = 1 ∨ v = 2 →
      exec (.expulsionVerdict v) s = .next ((((s.wr F.thealthExpelGranted (b2n (v == 1))).wr F.thealthRetained (b2n (v == 2))).wr F.thealthExpelReq 0).modT fun t => { t with expelAt := none })) ∧
  (∀ (g : Nat × Nat × Nat) (rest : List (Nat × Nat × Nat)) (x : Nat × Nat × Nat) (s : State), Runs s .dbx →
      s.d.grants = g :: rest →
      g.1 + s.expelWindow ≤ s.dbx.lfn →
      (s.modD fun d => { d with grants := rest }).d.retPods.find? (fun x => (s.modD fun d => { d with grants := rest }).mayExpel x.2.2 x.2.1) = some x →
      exec (.grantWindowExpiry) s = .next (((s.modD fun d => { d with grants := rest }).unlist x.2.2 x.1).grantExpel x.2.2 x.1 x.2.1)) ∧
  (∀ (g : Nat × Nat × Nat) (rest : List (Nat × Nat × Nat)) (s : State), Runs s .dbx →
      s.d.grants = g :: rest →
      g.1 + s.expelWindow ≤ s.dbx.lfn →
      (s.modD fun d => { d with grants := rest }).d.retPods.find? (fun x => (s.modD fun d => { d with grants := rest }).mayExpel x.2.2 x.2.1) = none →
      exec (.grantWindowExpiry) s = .next ((s.modD fun d => { d with grants := rest }))) ∧
  (∀ (s : State), Runs s .dbx →
      s.d.x1Done = false →
      s.rd64 F.x1SwitchLoLfn F.x1SwitchHiLfn ≤ s.dbx.lfn →
      s.is F.x1CfgAsX0 = false →
      exec (.x1Switch) s = .next ((s.modD fun d => { d with x1Done := true }).wr F.x1CfgActive 0)) ∧
  (∀ (s : State), Runs s .dbx →
      s.d.x1Done = false →
      s.rd64 F.x1SwitchLoLfn F.x1SwitchHiLfn ≤ s.dbx.lfn →
      s.is F.x1CfgAsX0 = true →
      (s.modD fun d => { d with x1Done := true }).x1Ready = true →
      exec (.x1Switch) s = .next ((s.modD fun d => { d with x1Done := true }).wr F.x1CfgActive 1)) ∧
  (∀ (s : State), Runs s .dbx →
      s.d.x1Done = false →
      s.rd64 F.x1SwitchLoLfn F.x1SwitchHiLfn ≤ s.dbx.lfn →
      s.is F.x1CfgAsX0 = true →
      (s.modD fun d => { d with x1Done := true }).x1Ready = false →
      exec (.x1Switch) s = .next ((s.modD fun d => { d with x1Done := true }).wr F.x1CfgX1Refused 1)) ∧
  (∀ (s : State), Runs s .dbx →
      s.dbx.lfn % 2 ^ 20 = 0 →
      exec (.sramBankTest true) s = .next (s.wr F.sramTestBank ((s.rd F.sramTestBank + 1) % 640))) ∧
  (∀ (s : State), Runs s .dbx →
      s.dbx.lfn % 2 ^ 20 = 0 →
      (s.wr F.sramTestEvt 1).rd F.sramTestSparesUsed < 8 →
      exec (.sramBankTest false) s = .next (((s.wr F.sramTestEvt 1).wr F.sramTestSparesUsed ((s.wr F.sramTestEvt 1).rd F.sramTestSparesUsed + 1)).wr F.sramTestBank ((((s.wr F.sramTestEvt 1).wr F.sramTestSparesUsed ((s.wr F.sramTestEvt 1).rd F.sramTestSparesUsed + 1)).rd F.sramTestBank + 1) % 640))) ∧
  (∀ (s : State), Runs s .dbx →
      s.dbx.lfn % 2 ^ 20 = 0 →
      8 ≤ (s.wr F.sramTestEvt 1).rd F.sramTestSparesUsed →
      exec (.sramBankTest false) s = .next (((((((s.wr F.sramTestEvt 1).wr F.sramTestFail 1).wr F.dhealthSramFail 1).raiseAlert .dbx 0x281).interrupt .dbx 7).score .dbx).wr F.sramTestBank ((((((((s.wr F.sramTestEvt 1).wr F.sramTestFail 1).wr F.dhealthSramFail 1).raiseAlert .dbx 0x281).interrupt .dbx 7).score .dbx).rd F.sramTestBank + 1) % 640)))

/-- While the compute domain is acknowledged to be in reset a word is discarded. A wait-begin of a queue without a node holds a node while fewer than 4,096 are held; the 4,097th is counted and marks its target overflowed. A wait-end ends the queue's node. An acknowledgement removes the kill that waits for it. A result read takes its reader from the slot. A second wait-begin of a queue ends its node for another. A done word of an open step with that launch missing completes the launch, a fault word that names a handle faults that step, one that names none makes suspects, a layer-not-ready word sets WEIGHT while the contribution has not left; a word of no such step is stale; a word of no kind of the table changes nothing. -/
def Obligations.CompletionWordsFollowTheirKinds : Prop :=
  (∀ (region : Nat) (stamp now : MTime) (w : CbWord) (s : State), Runs s .tsu →
      s.t.cmpAck = true →
      exec (.completionWord region stamp w now) s = .next (s)) ∧
  (∀ (region : Nat) (stamp now : MTime) (w : CbWord) (s : State), Runs s .tsu →
      s.t.cmpAck = false →
      w.kind = 3 →
      (s.noteLate stamp now).liveNodes.find? (fun x => x.target == w.target && x.queue == w.queue) = none →
      (s.noteLate stamp now).liveNodes.length < 4096 →
      exec (.completionWord region stamp w now) s = .next (((s.noteLate stamp now).modT fun t => { t with waits := t.waits ++ [(⟨w.target, w.queue, w.handle, w.wRole, w.wTarget, w.wQueue, stamp, none⟩ : WaitNode)] }).showNodes)) ∧
  (∀ (region : Nat) (stamp now : MTime) (w : CbWord) (s : State), Runs s .tsu →
      s.t.cmpAck = false →
      w.kind = 3 →
      (s.noteLate stamp now).liveNodes.find? (fun x => x.target == w.target && x.queue == w.queue) = none →
      4096 ≤ (s.noteLate stamp now).liveNodes.length →
      exec (.completionWord region stamp w now) s = .next (((s.noteLate stamp now).bump F.fltWaitFullCount).modT fun t => { t with overflow := if t.overflow.contains w.target = true then t.overflow else t.overflow ++ [w.target] })) ∧
  (∀ (region : Nat) (stamp now : MTime) (w : CbWord) (x : WaitNode) (s : State), Runs s .tsu →
      s.t.cmpAck = false →
      w.kind = 3 →
      (s.noteLate stamp now).liveNodes.find? (fun x => x.target == w.target && x.queue == w.queue) = some x →
      { x with since := stamp } = (⟨w.target, w.queue, w.handle, w.wRole, w.wTarget, w.wQueue, stamp, none⟩ : WaitNode) →
      exec (.completionWord region stamp w now) s = .next ((s.noteLate stamp now))) ∧
  (∀ (region : Nat) (stamp now : MTime) (w : CbWord) (x : WaitNode) (s : State), Runs s .tsu →
      s.t.cmpAck = false →
      w.kind = 3 →
      (s.noteLate stamp now).liveNodes.find? (fun x => x.target == w.target && x.queue == w.queue) = some x →
      { x with since := stamp } ≠ (⟨w.target, w.queue, w.handle, w.wRole, w.wTarget, w.wQueue, stamp, none⟩ : WaitNode) →
      exec (.completionWord region stamp w now) s = .next ((s.noteLate stamp now).modT fun t => { t with waits := t.waits.map (fun y => if y = x then { x with ended := some stamp } else y) ++ [(⟨w.target, w.queue, w.handle, w.wRole, w.wTarget, w.wQueue, stamp, none⟩ : WaitNode)] })) ∧
  (∀ (region : Nat) (stamp now : MTime) (w : CbWord) (s : State), Runs s .tsu →
      s.t.cmpAck = false →
      w.kind = 4 →
      exec (.completionWord region stamp w now) s = .next ((s.noteLate stamp now).waitEnd w stamp)) ∧
  (∀ (region : Nat) (stamp now : MTime) (w : CbWord) (s : State), Runs s .tsu →
      s.t.cmpAck = false →
      w.kind = 5 →
      exec (.completionWord region stamp w now) s = .next (s.modT fun t => { t with kills := t.kills.filter fun k => !(k.1 == w.target && k.2.1 == w.handle) })) ∧
  (∀ (region : Nat) (stamp now : MTime) (w : CbWord) (s : State), Runs s .tsu →
      s.t.cmpAck = false →
      w.kind = 7 →
      exec (.completionWord region stamp w now) s = .next (s.resultRead w.entry w.target)) ∧
  (∀ (region : Nat) (stamp now : MTime) (w : CbWord) (s : State), Runs s .tsu →
      s.t.cmpAck = false →
      w.kind = 2 →
      w.handle = 0 →
      exec (.completionWord region stamp w now) s = .next (s.suspectFault w.target stamp)) ∧
  (∀ (region : Nat) (stamp now : MTime) (w : CbWord) (o : OpenStep) (s : State), Runs s .tsu →
      s.t.cmpAck = false →
      ((s.wordStep w).filter fun o => o.missing.contains (256 * w.entry + w.target)) = some o →
      w.kind = 1 →
      exec (.completionWord region stamp w now) s = .next (s.launchDone o (256 * w.entry + w.target) stamp)) ∧
  (∀ (region : Nat) (stamp now : MTime) (w : CbWord) (o : OpenStep) (s : State), Runs s .tsu →
      s.t.cmpAck = false →
      ((s.wordStep w).filter fun o => o.missing.contains (256 * w.entry + w.target)) = some o →
      w.kind = 2 →
      w.handle ≠ 0 →
      exec (.completionWord region stamp w now) s = .next (s.namedFault o)) ∧
  (∀ (region : Nat) (stamp now : MTime) (w : CbWord) (o : OpenStep) (s : State), Runs s .tsu →
      s.t.cmpAck = false →
      ((s.wordStep w).filter fun o => o.missing.contains (256 * w.entry + w.target)) = some o →
      w.kind = 6 →
      o.sent = false →
      exec (.completionWord region stamp w now) s = .next (s.setStep { o with status := orSt o.status stWeight })) ∧
  (∀ (region : Nat) (stamp now : MTime) (w : CbWord) (o : OpenStep) (s : State), Runs s .tsu →
      s.t.cmpAck = false →
      ((s.wordStep w).filter fun o => o.missing.contains (256 * w.entry + w.target)) = some o →
      w.kind = 6 →
      o.sent = true →
      exec (.completionWord region stamp w now) s = .next (s)) ∧
  (∀ (region : Nat) (stamp now : MTime) (w : CbWord) (s : State), Runs s .tsu →
      s.t.cmpAck = false →
      w.kind = 0 ∨ 7 < w.kind →
      exec (.completionWord region stamp w now) s = .next (s)) ∧
  (∀ (region : Nat) (stamp now : MTime) (w : CbWord) (s : State), Runs s .tsu →
      s.t.cmpAck = false →
      ((s.wordStep w).filter fun o => o.missing.contains (256 * w.entry + w.target)) = none →
      w.kind = 1 ∨ w.kind = 6 ∨ (w.kind = 2 ∧ w.handle ≠ 0) →
      exec (.completionWord region stamp w now) s = .next (s.bump F.busCbStaleCount))

/-- One microsecond after a tick, once, each step that overran there takes its class in turn and nodes that had ended leave. A member TSU answers a query with the class of its step and, when blocked, its role. A reply from a position of no role is dropped; at the apex it joins the query once per position, and with the last role the verdict is taken; below it joins its step's reply, which leaves with the last role. Two flush times after the query the verdict is taken. -/
def Obligations.WaitsTakeTheirVerdicts : Prop :=
  (∀ (s : State), Runs s .tsu →
      s.isTick s.evalTick = true →
      s.evalTick * 8192 + 100000 ≤ s.tsu.lfn * 8192 + s.tsu.sub →
      s.t.evalAt ≠ some s.evalTick →
      exec (.waitGraphEvaluation) s = .next (((s.t.steps.filter fun o => o.tick + s.frameLen == s.evalTick && o.overran).foldl (fun u o => u.recordClass s.evalTick o) (s.modT fun x => { x with evalAt := some s.evalTick })).modT fun x => { x with waits := x.waits.filter fun n => (n.ended.map fun e => mtBefore ⟨s.evalTick, 0⟩ e).getD true })) ∧
  (∀ (partition handle step : Nat) (s : State), Runs s .tsu →
      s.hasRole = true →
      s.diePartition = partition →
      (s.answerClass handle step).1 = 1 →
      exec (.waitQuery partition handle step) s = .next (s.mgmtUp .tsu 4 partition [handle, step % 65536, 0, 1, b2n (s.answerClass handle step).2, 0, s.rd F.roleRole, s.rd F.roleRole])) ∧
  (∀ (partition handle step : Nat) (s : State), Runs s .tsu →
      s.hasRole = true →
      s.diePartition = partition →
      (s.answerClass handle step).1 ≠ 1 →
      ∃ r, exec (.waitQuery partition handle step) s = .next (s.draw.2.mgmtUp .tsu 4 partition [handle, step % 65536, b2n ((s.answerClass handle step).1 == 0), 0, b2n (s.answerClass handle step).2, b2n ((s.answerClass handle step).1 == 2), r, r])) ∧
  (∀ (pos partition : Nat) (r : WaitReply) (s : State), Runs s .dbx →
      (s.rolesAt partition pos).isEmpty = true →
      exec (.waitReply pos partition r) s = .next (s)) ∧
  (∀ (pos partition : Nat) (r : WaitReply) (q : HangQ) (s : State), Runs s .dbx →
      (s.rolesAt partition pos).isEmpty = false →
      (s.apexSlot partition).isSome = true →
      s.d.hangs.find? (fun q => q.partition == partition && q.handle == r.handle && q.step % 65536 == r.stepLo) = some q →
      q.seen.contains pos = false →
      (joinWait q pos r).expected ≤ (joinWait q pos r).count →
      exec (.waitReply pos partition r) s = .next ((s.modD fun d => { d with hangs := d.hangs.map fun x => if x = q then joinWait q pos r else x }).takeVerdict (joinWait q pos r))) ∧
  (∀ (pos partition : Nat) (r : WaitReply) (q : HangQ) (s : State), Runs s .dbx →
      (s.rolesAt partition pos).isEmpty = false →
      (s.apexSlot partition).isSome = true →
      s.d.hangs.find? (fun q => q.partition == partition && q.handle == r.handle && q.step % 65536 == r.stepLo) = some q →
      q.seen.contains pos = false →
      (joinWait q pos r).count < (joinWait q pos r).expected →
      exec (.waitReply pos partition r) s = .next ((s.modD fun d => { d with hangs := d.hangs.map fun x => if x = q then joinWait q pos r else x }))) ∧
  (∀ (pos partition : Nat) (r : WaitReply) (q : HangQ) (s : State), Runs s .dbx →
      (s.rolesAt partition pos).isEmpty = false →
      (s.apexSlot partition).isSome = true →
      s.d.hangs.find? (fun q => q.partition == partition && q.handle == r.handle && q.step % 65536 == r.stepLo) = some q →
      q.seen.contains pos = true →
      exec (.waitReply pos partition r) s = .next (s)) ∧
  (∀ (pos partition : Nat) (r : WaitReply) (s : State), Runs s .dbx →
      (s.rolesAt partition pos).isEmpty = false →
      (s.apexSlot partition).isSome = true →
      s.d.hangs.find? (fun q => q.partition == partition && q.handle == r.handle && q.step % 65536 == r.stepLo) = none →
      exec (.waitReply pos partition r) s = .next (s)) ∧
  (∀ (pos partition : Nat) (r : WaitReply) (s : State), Runs s .dbx →
      (s.rolesAt partition pos).isEmpty = false →
      s.apexSlot partition = none →
      exec (.waitReply pos partition r) s = .next (s.nodeWait pos partition r)) ∧
  (∀ (ch : Nat) (q : HangQ) (s : State), Runs s .dbx →
      s.d.hangs.find? (fun q => hIndex q.handle == ch && decide (q.atLfn + 2 * s.flushLf ≤ s.dbx.lfn)) = some q →
      exec (.hangVerdictTimeout ch) s = .next ((s.modD fun d => { d with hangs := d.hangs.filter (· != q) }).holdInput (s.apexSlot q.partition) (.verdict q.handle q.hang)))

/-- A ready report is an input at the apex of its partition and climbs elsewhere, as a suspect report does. At the apex in mode 1 with isolation enabled and no overflow the bound suspects are held for replay; otherwise the event is unresolved. A restore past its limit counts and pauses the channel at its limit. A write of cmp_reset, or a kill that is not acknowledged within kill_tmo, asks for the compute reset when none is under way. Its acknowledgement drops the launches, sends with RESET the contribution of each step whose tick has come, discards the digests, reports not ready, counts and logs it and checks escalation; its end reports ready when the die has a role. -/
def Obligations.ReportsSuspectsAndComputeResets : Prop :=
  (∀ (partition role lfn k : Nat) (ready : Bool) (s : State), Runs s .dbx →
      s.apexSlot partition = some k →
      exec (.readyReport partition role ready lfn) s = .next (s.holdInput (some k) (.ready partition role ready))) ∧
  (∀ (partition role lfn : Nat) (ready : Bool) (s : State), Runs s .dbx →
      s.apexSlot partition = none →
      exec (.readyReport partition role ready lfn) s = .next (s.mgmtUp .dbx 1 partition [role, b2n ready, lfn])) ∧
  (∀ (partition role target faultLfn : Nat) (handles : List Nat) (overflow : Bool) (s : State), Runs s .dbx →
      s.apexSlot partition = none →
      exec (.suspectReport partition role target handles overflow faultLfn) s = .next (s.mgmtUp .dbx 2 partition ([role, target, handles.length, b2n overflow, faultLfn] ++ handles))) ∧
  (∀ (partition role target faultLfn : Nat) (handles : List Nat) (overflow : Bool) (k : Nat) (s : State), Runs s .dbx →
      s.apexSlot partition = some k →
      s.fltMode k = 1 →
      s.is F.dfltCfgSuspectEn = true →
      overflow = false →
      (sortNat ((handles.filter fun h => (s.bound h).isSome).map hIndex)).isEmpty = false →
      exec (.suspectReport partition role target handles overflow faultLfn) s = .next (s.modD fun d => { d with suspects := d.suspects ++ [sortNat ((handles.filter fun h => (s.bound h).isSome).map hIndex)] })) ∧
  (∀ (partition role target faultLfn : Nat) (handles : List Nat) (overflow : Bool) (k : Nat) (s : State), Runs s .dbx →
      s.apexSlot partition = some k →
      s.fltMode k = 1 →
      s.is F.dfltCfgSuspectEn = true →
      overflow = false →
      (sortNat ((handles.filter fun h => (s.bound h).isSome).map hIndex)).isEmpty = true →
      exec (.suspectReport partition role target handles overflow faultLfn) s = .next (s)) ∧
  (∀ (partition role target faultLfn : Nat) (handles : List Nat) (overflow : Bool) (k : Nat) (s : State), Runs s .dbx →
      s.apexSlot partition = some k →
      s.fltMode k ≠ 1 ∨ s.is F.dfltCfgSuspectEn = false ∨ overflow = true →
      exec (.suspectReport partition role target handles overflow faultLfn) s = .next (s.bump F.dfltUnresolvedCount)) ∧
  (∀ (ch : Nat) (c : CondChan) (s : State), Runs s .dbx →
      s.chan ch = some c →
      c.r.exec = 6 →
      c.wait = .restore →
      c.restoreBy ≤ s.dbx.lfn →
      exec (.restoreTimeout ch) s = .next ((s.bump F.dfltRestoreTmoCount).limitPause ch 3)) ∧
  (∀ (v : Word) (s : State), Runs s .tsu →
      bit v.toNat 0 = true →
      s.t.cmpAck = false →
      s.rd F.fltStatusCmpState ≠ 1 →
      exec (.cmpReset v) s = .next ((s.wr F.fltStatusCmpState 1).emit .tsu (.pin .cmpRstReq 1))) ∧
  (∀ (v : Word) (s : State), Runs s .tsu →
      bit v.toNat 0 = false ∨ s.t.cmpAck = true ∨ s.rd F.fltStatusCmpState = 1 →
      exec (.cmpReset v) s = .next (s)) ∧
  (∀ (target handle : Nat) (k : Nat × Nat × Nat) (s : State), Runs s .tsu →
      s.t.kills.find? (fun k => k.1 == target && k.2.1 == handle && decide (k.2.2 + s.killLf ≤ s.tsu.lfn)) = some k →
      exec (.killTimeout target handle) s = .next (((((s.modT fun t => { t with kills := t.kills.filter (· != k) }).bump F.fltKillTmoCount).penalise .tsu 1).faultRecord 7 handle 0).requestReset)) ∧
  (∀ (s : State), Runs s .tsu →
      s.t.cmpAck = false →
      exec (.cmpRstAckRise) s = .next ((((((((((((s.modT fun t => { t with cmpAck := true }).wr F.fltStatusCmpState 2).emit .tsu (.pin .cmpRstReq 0)).dropLaunches.showNodes.t.steps.filter fun o => !o.sent && decide (o.tick ≤ (((s.modT fun t => { t with cmpAck := true }).wr F.fltStatusCmpState 2).emit .tsu (.pin .cmpRstReq 0)).dropLaunches.showNodes.tsu.lfn)).foldl (fun u o => u.sendContribution o stReset) (((s.modT fun t => { t with cmpAck := true }).wr F.fltStatusCmpState 2).emit .tsu (.pin .cmpRstReq 0)).dropLaunches.showNodes).t.steps.filter fun o => !o.layers.isEmpty).foldl (fun u o => u.discardDigest o) (((((s.modT fun t => { t with cmpAck := true }).wr F.fltStatusCmpState 2).emit .tsu (.pin .cmpRstReq 0)).dropLaunches.showNodes.t.steps.filter fun o => !o.sent && decide (o.tick ≤ (((s.modT fun t => { t with cmpAck := true }).wr F.fltStatusCmpState 2).emit .tsu (.pin .cmpRstReq 0)).dropLaunches.showNodes.tsu.lfn)).foldl (fun u o => u.sendContribution o stReset) (((s.modT fun t => { t with cmpAck := true }).wr F.fltStatusCmpState 2).emit .tsu (.pin .cmpRstReq 0)).dropLaunches.showNodes)).reportReady false).bump F.fltCmpResetCount).penalise .tsu 0).faultRecord 8 0 0).escalate)) ∧
  (∀ (s : State), Runs s .tsu →
      s.t.cmpAck = true →
      ((s.modT fun t => { t with cmpAck := false }).wr F.fltStatusCmpState 0).is F.roleRoleValid = true →
      exec (.cmpRstAckFall) s = .next (((s.modT fun t => { t with cmpAck := false }).wr F.fltStatusCmpState 0).reportReady true)) ∧
  (∀ (s : State), Runs s .tsu →
      s.t.cmpAck = true →
      ((s.modT fun t => { t with cmpAck := false }).wr F.fltStatusCmpState 0).is F.roleRoleValid = false →
      exec (.cmpRstAckFall) s = .next (((s.modT fun t => { t with cmpAck := false }).wr F.fltStatusCmpState 0)))

/-- A distributor answers ATTEST at once, with the measurement records where measurements are asked for, status 0 or 0x30 and the length in aux; a TSU hands the request with its role and state records to the root of trust. After 45 ms without an answer it completes with 0x30. BIND_TENANT, BIND_MANAGER and LOAD_KEY at a distributor bind when no cause of refusal holds and complete with the install response; at a TSU they go to the root of trust, once. A write of the mailbox response or of the key select by other than the root of trust is an error; with go or install it hands over a segment, the last one completing the response, or installs the selected key; without it only the register takes its value. -/
def Obligations.SessionsAnswerAndBind : Prop :=
  (∀ (sess : Option Nat) (x : Nat) (ring seq : Nat) (f : InFlight) (s : State), Runs s .dbx →
      Asked s .dbx ring seq 0x40 f →
      exec (.attest .dbx ring seq (.getMeasurements sess x)) s = .next (((s.begin_ .dbx ring seq).spdmEffect .dbx (.getMeasurements sess x)).2.draw.2.answer .dbx ring seq (if ((s.begin_ .dbx ring seq).spdmEffect .dbx (.getMeasurements sess x)).1 = 0 then 0 else 0x30) f.desc (Config.spdmResponse ((s.begin_ .dbx ring seq).spdmEffect .dbx (.getMeasurements sess x)).2.draw.1 ((s.begin_ .dbx ring seq).spdmEffect .dbx (.getMeasurements sess x)).1 (if ((s.begin_ .dbx ring seq).spdmEffect .dbx (.getMeasurements sess x)).1 = 0 then (s.begin_ .dbx ring seq).report .dbx sess else [])))) ∧
  (∀ (req : Spdm) (ring seq : Nat) (f : InFlight) (s : State), Runs s .dbx →
      Asked s .dbx ring seq 0x40 f →
      (∀ a b, req ≠ .getMeasurements a b) →
      exec (.attest .dbx ring seq req) s = .next (((s.begin_ .dbx ring seq).spdmEffect .dbx req).2.draw.2.answer .dbx ring seq (if ((s.begin_ .dbx ring seq).spdmEffect .dbx req).1 = 0 then 0 else 0x30) f.desc (Config.spdmResponse ((s.begin_ .dbx ring seq).spdmEffect .dbx req).2.draw.1 ((s.begin_ .dbx ring seq).spdmEffect .dbx req).1 []))) ∧
  (∀ (req : Spdm) (ring seq : Nat) (f : InFlight) (s : State), Runs s .tsu →
      Asked s .tsu ring seq 0x40 f →
      (s.t.mbWait.any fun x => x.kind == 1 && x.ring == ring && x.seq == seq) = false →
      exec (.attest .tsu ring seq req) s = .next ((s.begin_ .tsu ring seq).roleBytes.2.mbRequest 1 ring seq (f.desc.ext ++ (s.begin_ .tsu ring seq).roleBytes.1 ++ (s.begin_ .tsu ring seq).stateRecord .tsu) (some req))) ∧
  (∀ (ring seq : Nat) (x : MbWait) (f : InFlight) (s : State), Runs s .tsu →
      s.t.mbWait.find? (fun x => x.kind == 1 && x.ring == ring && x.seq == seq) = some x →
      x.at_ + lfOfMs 45 ≤ s.tsu.lfn →
      (s.modT fun t => { t with mbWait := t.mbWait.filter (· != x) }).inFlight .tsu ring seq = some f →
      exec (.attestTimeout ring seq) s = .next ((s.modT fun t => { t with mbWait := t.mbWait.filter (· != x) }).draw.2.answer .tsu ring seq 0x30 f.desc (Config.spdmResponse (s.modT fun t => { t with mbWait := t.mbWait.filter (· != x) }).draw.1 2 []))) ∧
  (∀ (req : InstallReq) (ring seq : Nat) (f : InFlight) (s : State), Runs s .dbx →
      Asked s .dbx ring seq 0x41 f →
      req.op ≠ 2 →
      req.op ≠ 3 →
      ((s.begin_ .dbx ring seq).installCause .dbx (opnd f.desc 40 1) req).1 = 0 →
      exec (.bindTenant .dbx ring seq req) s = .next (((s.begin_ .dbx ring seq).grantBind .dbx (opnd f.desc 40 1) ((s.begin_ .dbx ring seq).installCause .dbx (opnd f.desc 40 1) req).2 req (ringKey req.session (opnd f.desc 40 1) ((s.begin_ .dbx ring seq).dbx.bindings + 1))).answerInstall .dbx ring seq f.desc 0 ((s.begin_ .dbx ring seq).installCause .dbx (opnd f.desc 40 1) req).2)) ∧
  (∀ (req : InstallReq) (ring seq : Nat) (f : InFlight) (cause : Nat) (s : State), Runs s .dbx →
      Asked s .dbx ring seq 0x41 f →
      req.op ≠ 2 →
      req.op ≠ 3 →
      ((s.begin_ .dbx ring seq).installCause .dbx (opnd f.desc 40 1) req).1 = cause →
      cause ≠ 0 →
      exec (.bindTenant .dbx ring seq req) s = .next ((s.begin_ .dbx ring seq).answerInstall .dbx ring seq f.desc cause ((s.begin_ .dbx ring seq).installCause .dbx (opnd f.desc 40 1) req).2)) ∧
  (∀ (req : InstallReq) (ring seq : Nat) (f : InFlight) (s : State), Runs s .tsu →
      Asked s .tsu ring seq 0x41 f →
      req.op ≠ 2 →
      req.op ≠ 3 →
      (s.t.mbWait.any fun x => x.kind == 2 && x.ring == ring && x.seq == seq) = false →
      exec (.bindTenant .tsu ring seq req) s = .next ((s.begin_ .tsu ring seq).mbRequest 2 ring seq f.desc.ext none (some req))) ∧
  (∀ (req : InstallReq) (ring seq : Nat) (f : InFlight) (s : State), Runs s .dbx →
      Asked s .dbx ring seq 0x41 f →
      req.op = 2 →
      exec (.bindManager .dbx ring seq req) s = .next ((if ((s.begin_ .dbx ring seq).installCause .dbx (opnd f.desc 40 1) req).1 = 0 then ((s.begin_ .dbx ring seq).grantBind .dbx (opnd f.desc 40 1) ((s.begin_ .dbx ring seq).installCause .dbx (opnd f.desc 40 1) req).2 req (ringKey req.session (opnd f.desc 40 1) ((s.begin_ .dbx ring seq).dbx.bindings + 1))) else (s.begin_ .dbx ring seq)).answerInstall .dbx ring seq f.desc ((s.begin_ .dbx ring seq).installCause .dbx (opnd f.desc 40 1) req).1 ((s.begin_ .dbx ring seq).installCause .dbx (opnd f.desc 40 1) req).2)) ∧
  (∀ (req : InstallReq) (ring seq : Nat) (f : InFlight) (s : State), Runs s .tsu →
      Asked s .tsu ring seq 0x41 f →
      req.op = 2 →
      (s.t.mbWait.any fun x => x.kind == 2 && x.ring == ring && x.seq == seq) = false →
      exec (.bindManager .tsu ring seq req) s = .next ((s.begin_ .tsu ring seq).mbRequest 2 ring seq f.desc.ext none (some req))) ∧
  (∀ (req : InstallReq) (ring seq : Nat) (f : InFlight) (cause : Nat) (s : State), Runs s .dbx →
      Asked s .dbx ring seq 0x41 f →
      req.op = 3 →
      ((s.begin_ .dbx ring seq).installCause .dbx (opnd f.desc 40 1) req).1 = cause →
      cause ≠ 0 →
      exec (.loadKey .dbx ring seq req) s = .next ((s.begin_ .dbx ring seq).answerInstall .dbx ring seq f.desc cause ((s.begin_ .dbx ring seq).installCause .dbx (opnd f.desc 40 1) req).2)) ∧
  (∀ (req : InstallReq) (ring seq : Nat) (f : InFlight) (s : State), Runs s .tsu →
      Asked s .tsu ring seq 0x41 f →
      req.op = 3 →
      (s.t.mbWait.any fun x => x.kind == 2 && x.ring == ring && x.seq == seq) = false →
      exec (.loadKey .tsu ring seq req) s = .next ((s.begin_ .tsu ring seq).mbRequest 2 ring seq f.desc.ext none (some req))) ∧
  (∀ (v : Word) (bytes : List Byte) (s : State), Runs s .tsu →
      exec (.mailboxResponse v false bytes) s = .next (s.emit .tsu (.cfgErr 0x9004))) ∧
  (∀ (v : Word) (bytes : List Byte) (s : State), Runs s .tsu →
      bit v.toNat 31 = true →
      (s.regWrite .tsu 0x9004 v.toNat true false).is F.mbRspLast = false →
      exec (.mailboxResponse v true bytes) s = .next ((s.regWrite .tsu 0x9004 v.toNat true false).modT fun t => { t with mbRsp := (if (s.regWrite .tsu 0x9004 v.toNat true false).is F.mbRspFirst = true then bytes.take ((s.regWrite .tsu 0x9004 v.toNat true false).rd F.mbRspLen) else (s.regWrite .tsu 0x9004 v.toNat true false).t.mbRsp ++ bytes.take ((s.regWrite .tsu 0x9004 v.toNat true false).rd F.mbRspLen)) })) ∧
  (∀ (v : Word) (bytes : List Byte) (s : State), Runs s .tsu →
      bit v.toNat 31 = true →
      (s.regWrite .tsu 0x9004 v.toNat true false).is F.mbRspLast = true →
      exec (.mailboxResponse v true bytes) s = .next (((s.regWrite .tsu 0x9004 v.toNat true false).modT fun t => { t with mbRsp := [] }).mbAnswer ((s.regWrite .tsu 0x9004 v.toNat true false).rd F.mbRspKind) ((s.regWrite .tsu 0x9004 v.toNat true false).rd F.mbRspTagTag) ((s.regWrite .tsu 0x9004 v.toNat true false).is F.mbRspVerdict) (if (s.regWrite .tsu 0x9004 v.toNat true false).is F.mbRspFirst = true then bytes.take ((s.regWrite .tsu 0x9004 v.toNat true false).rd F.mbRspLen) else (s.regWrite .tsu 0x9004 v.toNat true false).t.mbRsp ++ bytes.take ((s.regWrite .tsu 0x9004 v.toNat true false).rd F.mbRspLen)))) ∧
  (∀ (v : Word) (bytes : List Byte) (s : State), Runs s .tsu →
      bit v.toNat 31 = false →
      exec (.mailboxResponse v true bytes) s = .next ((s.regWrite .tsu 0x9004 v.toNat true false))) ∧
  (∀ (v : Word) (s : State), Runs s .tsu →
      exec (.keyInstallWrite v false) s = .next (s.emit .tsu (.cfgErr 0x9010))) ∧
  (∀ (v : Word) (s : State), Runs s .tsu →
      bit v.toNat 31 = false →
      exec (.keyInstallWrite v true) s = .next ((s.regWrite .tsu 0x9010 v.toNat true false))) ∧
  (∀ (v : Word) (s : State), Runs s .tsu →
      bit v.toNat 31 = true →
      6 ≤ (s.regWrite .tsu 0x9010 v.toNat true false).rd F.keySelTarget →
      exec (.keyInstallWrite v true) s = .next ((s.regWrite .tsu 0x9010 v.toNat true false))) ∧
  (∀ (v : Word) (s : State), Runs s .tsu →
      bit v.toNat 31 = true →
      (s.regWrite .tsu 0x9010 v.toNat true false).rd F.keySelTarget < 4 →
      exec (.keyInstallWrite v true) s = .next ((s.regWrite .tsu 0x9010 v.toNat true false).installLinkKey ((s.regWrite .tsu 0x9010 v.toNat true false).rd F.keySelTarget / 2) ((s.regWrite .tsu 0x9010 v.toNat true false).rd F.keySelTarget % 2 == 1) ((s.regWrite .tsu 0x9010 v.toNat true false).is F.keySelNext) (s.regWrite .tsu 0x9010 v.toNat true false).keyData)) ∧
  (∀ (v : Word) (s : State), Runs s .tsu →
      bit v.toNat 31 = true →
      (s.regWrite .tsu 0x9010 v.toNat true false).rd F.keySelTarget = 4 ∨ (s.regWrite .tsu 0x9010 v.toNat true false).rd F.keySelTarget = 5 →
      exec (.keyInstallWrite v true) s = .next ((s.regWrite .tsu 0x9010 v.toNat true false).installRingKey ((s.regWrite .tsu 0x9010 v.toNat true false).rd F.keySelRing) ((s.regWrite .tsu 0x9010 v.toNat true false).rd F.keySelTarget - 2) (s.regWrite .tsu 0x9010 v.toNat true false).keyData))

/-- A write of the stage control with commit stages a verified image of index 2 to 5 whose security version the fuses allow, in place of one of the same index, and refuses any other with an interrupt; with clear every staged image is discarded. SCRUB begins where none runs, at a distributor also at the twin, and completes with status 0x0C during another; the twin's begins on receipt for a valid slot. At its fixed length a scrub ends, its ports return to UP and the descriptor completes with the count. -/
def Obligations.ImagesStageAndScrubsRun : Prop :=
  (∀ (v : Word) (sigOk : Bool) (svn digest : Nat) (s : State), Runs s .dbx →
      bit v.toNat 18 = true →
      exec (.stageCommit v sigOk svn digest) s = .next (if sigOk = true ∧ ((if bit v.toNat 19 = true then (s.regWrite .dbx 0x90004 v.toNat false false).clearStaged else (s.regWrite .dbx 0x90004 v.toNat false false)).wr F.stageCtrlDone 1).rd F.secSvnFusedMin ≤ svn ∧ 2 ≤ (if bit v.toNat 19 = true then (s.regWrite .dbx 0x90004 v.toNat false false).clearStaged else (s.regWrite .dbx 0x90004 v.toNat false false)).rd F.stageCtrlImage ∧ (if bit v.toNat 19 = true then (s.regWrite .dbx 0x90004 v.toNat false false).clearStaged else (s.regWrite .dbx 0x90004 v.toNat false false)).rd F.stageCtrlImage ≤ 5 then
        ((((if bit v.toNat 19 = true then (s.regWrite .dbx 0x90004 v.toNat false false).clearStaged else (s.regWrite .dbx 0x90004 v.toNat false false)).wr F.stageCtrlDone 1).wr F.stageCtrlRejected 0).modNode .dbx fun n => { n with staged := n.staged.filter (fun x => x.1 != (if bit v.toNat 19 = true then (s.regWrite .dbx 0x90004 v.toNat false false).clearStaged else (s.regWrite .dbx 0x90004 v.toNat false false)).rd F.stageCtrlImage) ++ [((if bit v.toNat 19 = true then (s.regWrite .dbx 0x90004 v.toNat false false).clearStaged else (s.regWrite .dbx 0x90004 v.toNat false false)).rd F.stageCtrlImage, digest, svn)] }).showSec
      else ((((if bit v.toNat 19 = true then (s.regWrite .dbx 0x90004 v.toNat false false).clearStaged else (s.regWrite .dbx 0x90004 v.toNat false false)).wr F.stageCtrlDone 1).wr F.stageCtrlRejected 1).bump F.fwRejectCount).interrupt .dbx 6)) ∧
  (∀ (v : Word) (s : State), Runs s .dbx →
      exec (.stageClear v) s = .next (if bit v.toNat 19 = true then (s.regWrite .dbx 0x90004 v.toNat false false).clearStaged else (s.regWrite .dbx 0x90004 v.toNat false false))) ∧
  (∀ (ring seq : Nat) (f : InFlight) (s : State), Runs s .tsu →
      Asked s .tsu ring seq 0x42 f →
      (s.node .tsu).scrub = none →
      exec (.scrub .tsu ring seq) s = .next ((s.begin_ .tsu ring seq).scrubTsu ring seq)) ∧
  (∀ (ring seq : Nat) (f : InFlight) (s : State), Runs s .dbx →
      Asked s .dbx ring seq 0x42 f →
      (s.node .dbx).scrub = none →
      exec (.scrub .dbx ring seq) s = .next (((s.begin_ .dbx ring seq).emit .dbx (.peerMsg 4 [opnd f.desc 40 1])).scrubDbx (opnd f.desc 40 1) (some (ring, seq)))) ∧
  (∀ (p : Part) (ring seq : Nat) (f : InFlight) (x : ScrubRt) (s : State), Runs s p →
      Asked s p ring seq 0x42 f →
      (s.node p).scrub = some x →
      x.reply ≠ some (ring, seq) →
      exec (.scrub p ring seq) s = .next ((s.begin_ p ring seq).finish p ring seq 0xC 0 0)) ∧
  (∀ (p : Part) (ring seq : Nat) (f : InFlight) (x : ScrubRt) (s : State), Runs s p →
      Asked s p ring seq 0x42 f →
      (s.node p).scrub = some x →
      x.reply = some (ring, seq) →
      exec (.scrub p ring seq) s = .next (s.begin_ p ring seq)) ∧
  (∀ (slot : Nat) (s : State), Runs s .dbx →
      s.scrubbing .dbx = false →
      s.is F.condPartValid slot = true →
      exec (.scrubRelay slot) s = .next (s.scrubDbx slot none)) ∧
  (∀ (x : ScrubRt) (r : Nat × Nat) (s : State), Runs s .tsu →
      (s.node .tsu).scrub = some x →
      x.began + scrubLf .tsu ≤ s.lfn .tsu →
      x.reply = some r →
      exec (.scrubEnd .tsu) s = .next ((((s.modNode .tsu fun n => { n with scrub := none }).portsTo .tsu 6 4 x.ports).wr F.tsecStatusScrub 0).finish .tsu r.1 r.2 0 (x.began + scrubLf .tsu) 0)) ∧
  (∀ (x : ScrubRt) (r : Nat × Nat) (s : State), Runs s .dbx →
      (s.node .dbx).scrub = some x →
      x.began + scrubLf .dbx ≤ s.lfn .dbx →
      x.reply = some r →
      exec (.scrubEnd .dbx) s = .next ((((s.modNode .dbx fun n => { n with scrub := none }).portsTo .dbx 6 4 x.ports).wr F.dsecStatusScrubSlotValid 0 |>.wr F.dsecStatusScrubSlot 0).showSec.finish .dbx r.1 r.2 0 (x.began + scrubLf .dbx) 0)) ∧
  (∀ (x : ScrubRt) (s : State), Runs s .dbx →
      (s.node .dbx).scrub = some x →
      x.began + scrubLf .dbx ≤ s.lfn .dbx →
      x.reply = none →
      exec (.scrubEnd .dbx) s = .next ((((s.modNode .dbx fun n => { n with scrub := none }).portsTo .dbx 6 4 x.ports).wr F.dsecStatusScrubSlotValid 0 |>.wr F.dsecStatusScrubSlot 0).showSec))
end

