-- ==== Sys2Proof/Laws/Map.lean ====
section
/-! SUPPORT. Laws of the finite tables: reading after a change, and the rising order that every change keeps. -/

namespace Sys2Proof.Machine

variable {α : Type}

@[simp] theorem fget?_nil (k : Nat) : fget? ([] : FMap α) k = none := rfl

@[simp] theorem fget?_fset_self (m : FMap α) (k : Nat) (v : α) : fget? (fset m k v) k = some v := by
  induction m with
  | nil => simp [fset, fget?]
  | cons x m ih =>
    obtain ⟨j, u⟩ := x
    unfold fset
    split
    · simp [fget?]
    · split
      · simp [fget?]
      · simp [fget?, *]

theorem fget?_fset_ne (m : FMap α) {k l : Nat} (h : l ≠ k) (v : α) : fget? (fset m k v) l = fget? m l := by
  induction m with
  | nil => simp [fset, fget?, h.symm]
  | cons x m ih =>
    obtain ⟨j, u⟩ := x
    unfold fset
    split
    · simp [fget?, h.symm]
    · split
      · subst_vars; simp [fget?, h.symm]
      · simp [fget?, ih]

theorem fget?_fdel_self (m : FMap α) (k : Nat) : fget? (fdel m k) k = none := by
  induction m with
  | nil => rfl
  | cons x m ih =>
    obtain ⟨j, u⟩ := x
    unfold fdel
    split
    · exact ih
    · simp [fget?, *]

theorem fget?_fdel_ne (m : FMap α) {k l : Nat} (h : l ≠ k) : fget? (fdel m k) l = fget? m l := by
  induction m with
  | nil => rfl
  | cons x m ih =>
    obtain ⟨j, u⟩ := x
    unfold fdel
    split
    · subst_vars; simp [fget?, h.symm, ih]
    · simp [fget?, ih]

@[simp] theorem fgetD_fset_self (m : FMap α) (k : Nat) (v d : α) : fgetD (fset m k v) k d = v := by simp [fgetD]

theorem fgetD_fset_ne (m : FMap α) {k l : Nat} (h : l ≠ k) (v d : α) : fgetD (fset m k v) l d = fgetD m l d := by
  simp [fgetD, fget?_fset_ne m h]

@[simp] theorem fgetD_fmod_self (m : FMap α) (k : Nat) (d : α) (f : α → α) : fgetD (fmod m k d f) k d = f (fgetD m k d) := by
  simp [fmod]

theorem fgetD_fmod_ne (m : FMap α) {k l : Nat} (h : l ≠ k) (d : α) (f : α → α) :
    fgetD (fmod m k d f) l d = fgetD m l d := by simp [fmod, fgetD_fset_ne m h]

/-- A table read after a canonical write of its default or of another value gives the value written. -/
theorem fgetD_fput_self (m : FMap Nat) (k d v : Nat) : fgetD (fput m k d v) k d = v := by
  unfold fput
  split
  · simp [fgetD, fget?_fdel_self, *]
  · simp

theorem fgetD_fput_ne (m : FMap Nat) {k l : Nat} (h : l ≠ k) (d v e : Nat) : fgetD (fput m k d v) l e = fgetD m l e := by
  unfold fput
  split
  · simp [fgetD, fget?_fdel_ne m h]
  · exact fgetD_fset_ne m h v e

/-! ### The rising order of the keys -/

theorem fsorted_cons_iff (j : Nat) (u : α) (m : FMap α) :
    fsorted ((j, u) :: m) = true ↔ (∀ x ∈ m, j < x.1) ∧ fsorted m = true := by
  induction m generalizing j u with
  | nil => simp [fsorted]
  | cons x m ih =>
    obtain ⟨k, w⟩ := x
    constructor
    · intro h
      simp only [fsorted, Bool.and_eq_true, decide_eq_true_eq] at h
      refine ⟨?_, h.2⟩
      intro y hy
      rcases List.mem_cons.1 hy with rfl | hy
      · exact h.1
      · exact lt_trans h.1 (((ih k w).1 h.2).1 y hy)
    · rintro ⟨h, hs⟩
      simp only [fsorted, Bool.and_eq_true, decide_eq_true_eq]
      exact ⟨h (k, w) (by simp), hs⟩

theorem mem_fset {m : FMap α} {k : Nat} {v : α} {x : Nat × α} (h : x ∈ fset m k v) : x = (k, v) ∨ x ∈ m := by
  induction m with
  | nil => simp_all [fset]
  | cons y m ih =>
    obtain ⟨j, u⟩ := y
    unfold fset at h
    split at h
    · simpa using h
    · split at h
      · rcases List.mem_cons.1 h with h | h <;> simp [h]
      · rcases List.mem_cons.1 h with h | h
        · simp [h]
        · rcases ih h with h | h <;> simp [h]

theorem mem_fdel {m : FMap α} {k : Nat} {x : Nat × α} (h : x ∈ fdel m k) : x ∈ m := by
  induction m with
  | nil => simp [fdel] at h
  | cons y m ih =>
    obtain ⟨j, u⟩ := y
    unfold fdel at h
    split at h
    · exact List.mem_cons_of_mem _ (ih h)
    · rcases List.mem_cons.1 h with h | h
      · simp [h]
      · exact List.mem_cons_of_mem _ (ih h)

/-- Setting an entry keeps the order. -/
theorem fsorted_fset {m : FMap α} (h : fsorted m = true) (k : Nat) (v : α) : fsorted (fset m k v) = true := by
  induction m with
  | nil => rfl
  | cons x m ih =>
    obtain ⟨j, u⟩ := x
    have hm := (fsorted_cons_iff j u m).1 h
    unfold fset
    split
    · rename_i hk
      rw [fsorted_cons_iff]
      refine ⟨?_, h⟩
      intro y hy
      rcases List.mem_cons.1 hy with rfl | hy
      · exact hk
      · exact lt_trans hk (hm.1 y hy)
    · split
      · subst_vars
        exact (fsorted_cons_iff j v m).2 hm
      · rename_i h1 h2
        rw [fsorted_cons_iff]
        refine ⟨?_, ih hm.2⟩
        intro y hy
        rcases mem_fset hy with rfl | hy
        · exact lt_of_le_of_ne (not_lt.1 h1) h2
        · exact hm.1 y hy

/-- Removing an entry keeps the order. -/
theorem fsorted_fdel {m : FMap α} (h : fsorted m = true) (k : Nat) : fsorted (fdel m k) = true := by
  induction m with
  | nil => rfl
  | cons x m ih =>
    obtain ⟨j, u⟩ := x
    have hm := (fsorted_cons_iff j u m).1 h
    unfold fdel
    split
    · exact ih hm.2
    · rw [fsorted_cons_iff]
      exact ⟨fun y hy => hm.1 y (mem_fdel hy), ih hm.2⟩

/-- A canonical write keeps the order. -/
theorem fsorted_fput {m : FMap Nat} (h : fsorted m = true) (k d v : Nat) : fsorted (fput m k d v) = true := by
  unfold fput
  split
  · exact fsorted_fdel h k
  · exact fsorted_fset h k v

end Sys2Proof.Machine
end

