-- ==== Sys2Proof/Laws/State.lean ====
section
/-! SUPPORT. One law for each field and each update of the state, and the laws of register reads after writes. -/

namespace Sys2Proof.Machine

/-! ### A node's register write changes its registers alone -/

@[simp] theorem Node.wr_live (n : Node) (f : Fld) (v i w : Nat) : (n.wr f v i w).live = n.live := rfl
@[simp] theorem Node.wr_lfn (n : Node) (f : Fld) (v i w : Nat) : (n.wr f v i w).lfn = n.lfn := rfl
@[simp] theorem Node.wr_sub (n : Node) (f : Fld) (v i w : Nat) : (n.wr f v i w).sub = n.sub := rfl
@[simp] theorem Node.wr_frac (n : Node) (f : Fld) (v i w : Nat) : (n.wr f v i w).frac = n.frac := rfl
@[simp] theorem Node.wr_labelled (n : Node) (f : Fld) (v i w : Nat) : (n.wr f v i w).labelled = n.labelled := rfl
@[simp] theorem Node.wr_origin (n : Node) (f : Fld) (v i w : Nat) : (n.wr f v i w).origin = n.origin := rfl
@[simp] theorem Node.wr_jumpTo (n : Node) (f : Fld) (v i w : Nat) : (n.wr f v i w).jumpTo = n.jumpTo := rfl
@[simp] theorem Node.wr_frozen (n : Node) (f : Fld) (v i w : Nat) : (n.wr f v i w).frozen = n.frozen := rfl
@[simp] theorem Node.wr_fromHold (n : Node) (f : Fld) (v i w : Nat) : (n.wr f v i w).fromHold = n.fromHold := rfl
@[simp] theorem Node.wr_acqPort (n : Node) (f : Fld) (v i w : Nat) : (n.wr f v i w).acqPort = n.acqPort := rfl
@[simp] theorem Node.wr_acqSet (n : Node) (f : Fld) (v i w : Nat) : (n.wr f v i w).acqSet = n.acqSet := rfl
@[simp] theorem Node.wr_acqFails (n : Node) (f : Fld) (v i w : Nat) : (n.wr f v i w).acqFails = n.acqFails := rfl
@[simp] theorem Node.wr_slew (n : Node) (f : Fld) (v i w : Nat) : (n.wr f v i w).slew = n.slew := rfl
@[simp] theorem Node.wr_ramp (n : Node) (f : Fld) (v i w : Nat) : (n.wr f v i w).ramp = n.ramp := rfl
@[simp] theorem Node.wr_moveTo (n : Node) (f : Fld) (v i w : Nat) : (n.wr f v i w).moveTo = n.moveTo := rfl
@[simp] theorem Node.wr_psi (n : Node) (f : Fld) (v i w : Nat) : (n.wr f v i w).psi = n.psi := rfl
@[simp] theorem Node.wr_civSec (n : Node) (f : Fld) (v i w : Nat) : (n.wr f v i w).civSec = n.civSec := rfl
@[simp] theorem Node.wr_civFrac (n : Node) (f : Fld) (v i w : Nat) : (n.wr f v i w).civFrac = n.civFrac := rfl
@[simp] theorem Node.wr_civInc (n : Node) (f : Fld) (v i w : Nat) : (n.wr f v i w).civInc = n.civInc := rfl
@[simp] theorem Node.wr_civHold (n : Node) (f : Fld) (v i w : Nat) : (n.wr f v i w).civHold = n.civHold := rfl
@[simp] theorem Node.wr_civLast (n : Node) (f : Fld) (v i w : Nat) : (n.wr f v i w).civLast = n.civLast := rfl
@[simp] theorem Node.wr_errlog (n : Node) (f : Fld) (v i w : Nat) : (n.wr f v i w).errlog = n.errlog := rfl
@[simp] theorem Node.wr_ports (n : Node) (f : Fld) (v i w : Nat) : (n.wr f v i w).ports = n.ports := rfl
@[simp] theorem Node.wr_rings (n : Node) (f : Fld) (v i w : Nat) : (n.wr f v i w).rings = n.rings := rfl
@[simp] theorem Node.wr_starts (n : Node) (f : Fld) (v i w : Nat) : (n.wr f v i w).starts = n.starts := rfl
@[simp] theorem Node.wr_tdc (n : Node) (f : Fld) (v i w : Nat) : (n.wr f v i w).tdc = n.tdc := rfl
@[simp] theorem Node.wr_dyn (n : Node) (f : Fld) (v i w : Nat) : (n.wr f v i w).dyn = n.dyn := rfl
@[simp] theorem Node.wr_dynSent (n : Node) (f : Fld) (v i w : Nat) : (n.wr f v i w).dynSent = n.dynSent := rfl
@[simp] theorem Node.wr_pen (n : Node) (f : Fld) (v i w : Nat) : (n.wr f v i w).pen = n.pen := rfl
@[simp] theorem Node.wr_gens (n : Node) (f : Fld) (v i w : Nat) : (n.wr f v i w).gens = n.gens := rfl
@[simp] theorem Node.wr_quar (n : Node) (f : Fld) (v i w : Nat) : (n.wr f v i w).quar = n.quar := rfl
@[simp] theorem Node.wr_genDef (n : Node) (f : Fld) (v i w : Nat) : (n.wr f v i w).genDef = n.genDef := rfl
@[simp] theorem Node.wr_quarAll (n : Node) (f : Fld) (v i w : Nat) : (n.wr f v i w).quarAll = n.quarAll := rfl
@[simp] theorem Node.wr_msix (n : Node) (f : Fld) (v i w : Nat) : (n.wr f v i w).msix = n.msix := rfl
@[simp] theorem Node.wr_bootBegun (n : Node) (f : Fld) (v i w : Nat) : (n.wr f v i w).bootBegun = n.bootBegun := rfl
@[simp] theorem Node.wr_bootDone (n : Node) (f : Fld) (v i w : Nat) : (n.wr f v i w).bootDone = n.bootDone := rfl
@[simp] theorem Node.wr_bootTrain (n : Node) (f : Fld) (v i w : Nat) : (n.wr f v i w).bootTrain = n.bootTrain := rfl
@[simp] theorem Node.wr_altPort (n : Node) (f : Fld) (v i w : Nat) : (n.wr f v i w).altPort = n.altPort := rfl
@[simp] theorem Node.wr_bootAt (n : Node) (f : Fld) (v i w : Nat) : (n.wr f v i w).bootAt = n.bootAt := rfl
@[simp] theorem Node.wr_age (n : Node) (f : Fld) (v i w : Nat) : (n.wr f v i w).age = n.age := rfl
@[simp] theorem Node.wr_lockLane (n : Node) (f : Fld) (v i w : Nat) : (n.wr f v i w).lockLane = n.lockLane := rfl
@[simp] theorem Node.wr_bindings (n : Node) (f : Fld) (v i w : Nat) : (n.wr f v i w).bindings = n.bindings := rfl
@[simp] theorem Node.wr_claimed (n : Node) (f : Fld) (v i w : Nat) : (n.wr f v i w).claimed = n.claimed := rfl
@[simp] theorem Node.wr_sessions (n : Node) (f : Fld) (v i w : Nat) : (n.wr f v i w).sessions = n.sessions := rfl
@[simp] theorem Node.wr_scrub (n : Node) (f : Fld) (v i w : Nat) : (n.wr f v i w).scrub = n.scrub := rfl
@[simp] theorem Node.wr_staged (n : Node) (f : Fld) (v i w : Nat) : (n.wr f v i w).staged = n.staged := rfl
@[simp] theorem Node.wr_images (n : Node) (f : Fld) (v i w : Nat) : (n.wr f v i w).images = n.images := rfl
@[simp] theorem Node.wr_out (n : Node) (f : Fld) (v i w : Nat) : (n.wr f v i w).out = n.out := rfl

/-! ### The two nodes -/

@[simp] theorem State.node_tsu (s : State) : s.node .tsu = s.tsu := rfl
@[simp] theorem State.node_dbx (s : State) : s.node .dbx = s.dbx := rfl
@[simp] theorem State.modNode_tsu (s : State) (f : Node → Node) : s.modNode .tsu f = { s with tsu := f s.tsu } := rfl
@[simp] theorem State.modNode_dbx (s : State) (f : Node → Node) : s.modNode .dbx f = { s with dbx := f s.dbx } := rfl

@[simp] theorem State.node_modNode_self (s : State) (p : Part) (f : Node → Node) : (s.modNode p f).node p = f (s.node p) := by
  cases p <;> rfl

theorem State.node_modNode_ne (s : State) {p q : Part} (h : q ≠ p) (f : Node → Node) : (s.modNode p f).node q = s.node q := by
  cases p <;> cases q <;> first | rfl | exact absurd rfl h

/-- A node after a change that keeps what `g` reads of it. -/
theorem State.node_modNode_proj {β : Type} (s : State) (p q : Part) (f : Node → Node) (g : Node → β)
    (h : ∀ n, g (f n) = g n) : g ((s.modNode p f).node q) = g (s.node q) := by
  cases p <;> cases q <;> first | rfl | exact h _

@[simp] theorem State.modNode_t (s : State) (p : Part) (f : Node → Node) : (s.modNode p f).t = s.t := by cases p <;> rfl
@[simp] theorem State.modNode_d (s : State) (p : Part) (f : Node → Node) : (s.modNode p f).d = s.d := by cases p <;> rfl
@[simp] theorem State.modNode_fresh (s : State) (p : Part) (f : Node → Node) : (s.modNode p f).fresh = s.fresh := by cases p <;> rfl
@[simp] theorem State.modNode_pending (s : State) (p : Part) (f : Node → Node) : (s.modNode p f).pending = s.pending := by cases p <;> rfl
@[simp] theorem State.modT_tsu (s : State) (f : TsuState → TsuState) : (s.modT f).tsu = s.tsu := rfl
@[simp] theorem State.modT_dbx (s : State) (f : TsuState → TsuState) : (s.modT f).dbx = s.dbx := rfl
@[simp] theorem State.modT_d (s : State) (f : TsuState → TsuState) : (s.modT f).d = s.d := rfl
@[simp] theorem State.modT_fresh (s : State) (f : TsuState → TsuState) : (s.modT f).fresh = s.fresh := rfl
@[simp] theorem State.modT_pending (s : State) (f : TsuState → TsuState) : (s.modT f).pending = s.pending := rfl
@[simp] theorem State.modT_t (s : State) (f : TsuState → TsuState) : (s.modT f).t = f s.t := rfl
@[simp] theorem State.modT_node (s : State) (f : TsuState → TsuState) (p : Part) : (s.modT f).node p = s.node p := by cases p <;> rfl
@[simp] theorem State.modD_tsu (s : State) (f : DbxState → DbxState) : (s.modD f).tsu = s.tsu := rfl
@[simp] theorem State.modD_dbx (s : State) (f : DbxState → DbxState) : (s.modD f).dbx = s.dbx := rfl
@[simp] theorem State.modD_t (s : State) (f : DbxState → DbxState) : (s.modD f).t = s.t := rfl
@[simp] theorem State.modD_fresh (s : State) (f : DbxState → DbxState) : (s.modD f).fresh = s.fresh := rfl
@[simp] theorem State.modD_pending (s : State) (f : DbxState → DbxState) : (s.modD f).pending = s.pending := rfl
@[simp] theorem State.modD_d (s : State) (f : DbxState → DbxState) : (s.modD f).d = f s.d := rfl
@[simp] theorem State.modD_node (s : State) (f : DbxState → DbxState) (p : Part) : (s.modD f).node p = s.node p := by cases p <;> rfl

/-! ### Registers -/

@[simp] theorem State.wr_t (s : State) (f : Fld) (v i w : Nat) : (s.wr f v i w).t = s.t := by simp [State.wr]
@[simp] theorem State.wr_d (s : State) (f : Fld) (v i w : Nat) : (s.wr f v i w).d = s.d := by simp [State.wr]
@[simp] theorem State.wr_fresh (s : State) (f : Fld) (v i w : Nat) : (s.wr f v i w).fresh = s.fresh := by simp [State.wr]
@[simp] theorem State.wr_pending (s : State) (f : Fld) (v i w : Nat) : (s.wr f v i w).pending = s.pending := by simp [State.wr]
@[simp] theorem State.wr_node_live (s : State) (f : Fld) (v i w : Nat) (p : Part) : ((s.wr f v i w).node p).live = (s.node p).live :=
  s.node_modNode_proj _ _ _ (·.live) fun _ => rfl
@[simp] theorem State.wr_node_lfn (s : State) (f : Fld) (v i w : Nat) (p : Part) : ((s.wr f v i w).node p).lfn = (s.node p).lfn :=
  s.node_modNode_proj _ _ _ (·.lfn) fun _ => rfl
@[simp] theorem State.wr_node_sub (s : State) (f : Fld) (v i w : Nat) (p : Part) : ((s.wr f v i w).node p).sub = (s.node p).sub :=
  s.node_modNode_proj _ _ _ (·.sub) fun _ => rfl
@[simp] theorem State.wr_node_frac (s : State) (f : Fld) (v i w : Nat) (p : Part) : ((s.wr f v i w).node p).frac = (s.node p).frac :=
  s.node_modNode_proj _ _ _ (·.frac) fun _ => rfl
@[simp] theorem State.wr_node_labelled (s : State) (f : Fld) (v i w : Nat) (p : Part) : ((s.wr f v i w).node p).labelled = (s.node p).labelled :=
  s.node_modNode_proj _ _ _ (·.labelled) fun _ => rfl
@[simp] theorem State.wr_node_origin (s : State) (f : Fld) (v i w : Nat) (p : Part) : ((s.wr f v i w).node p).origin = (s.node p).origin :=
  s.node_modNode_proj _ _ _ (·.origin) fun _ => rfl
@[simp] theorem State.wr_node_jumpTo (s : State) (f : Fld) (v i w : Nat) (p : Part) : ((s.wr f v i w).node p).jumpTo = (s.node p).jumpTo :=
  s.node_modNode_proj _ _ _ (·.jumpTo) fun _ => rfl
@[simp] theorem State.wr_node_frozen (s : State) (f : Fld) (v i w : Nat) (p : Part) : ((s.wr f v i w).node p).frozen = (s.node p).frozen :=
  s.node_modNode_proj _ _ _ (·.frozen) fun _ => rfl
@[simp] theorem State.wr_node_fromHold (s : State) (f : Fld) (v i w : Nat) (p : Part) : ((s.wr f v i w).node p).fromHold = (s.node p).fromHold :=
  s.node_modNode_proj _ _ _ (·.fromHold) fun _ => rfl
@[simp] theorem State.wr_node_acqPort (s : State) (f : Fld) (v i w : Nat) (p : Part) : ((s.wr f v i w).node p).acqPort = (s.node p).acqPort :=
  s.node_modNode_proj _ _ _ (·.acqPort) fun _ => rfl
@[simp] theorem State.wr_node_acqSet (s : State) (f : Fld) (v i w : Nat) (p : Part) : ((s.wr f v i w).node p).acqSet = (s.node p).acqSet :=
  s.node_modNode_proj _ _ _ (·.acqSet) fun _ => rfl
@[simp] theorem State.wr_node_acqFails (s : State) (f : Fld) (v i w : Nat) (p : Part) : ((s.wr f v i w).node p).acqFails = (s.node p).acqFails :=
  s.node_modNode_proj _ _ _ (·.acqFails) fun _ => rfl
@[simp] theorem State.wr_node_slew (s : State) (f : Fld) (v i w : Nat) (p : Part) : ((s.wr f v i w).node p).slew = (s.node p).slew :=
  s.node_modNode_proj _ _ _ (·.slew) fun _ => rfl
@[simp] theorem State.wr_node_ramp (s : State) (f : Fld) (v i w : Nat) (p : Part) : ((s.wr f v i w).node p).ramp = (s.node p).ramp :=
  s.node_modNode_proj _ _ _ (·.ramp) fun _ => rfl
@[simp] theorem State.wr_node_moveTo (s : State) (f : Fld) (v i w : Nat) (p : Part) : ((s.wr f v i w).node p).moveTo = (s.node p).moveTo :=
  s.node_modNode_proj _ _ _ (·.moveTo) fun _ => rfl
@[simp] theorem State.wr_node_psi (s : State) (f : Fld) (v i w : Nat) (p : Part) : ((s.wr f v i w).node p).psi = (s.node p).psi :=
  s.node_modNode_proj _ _ _ (·.psi) fun _ => rfl
@[simp] theorem State.wr_node_civSec (s : State) (f : Fld) (v i w : Nat) (p : Part) : ((s.wr f v i w).node p).civSec = (s.node p).civSec :=
  s.node_modNode_proj _ _ _ (·.civSec) fun _ => rfl
@[simp] theorem State.wr_node_civFrac (s : State) (f : Fld) (v i w : Nat) (p : Part) : ((s.wr f v i w).node p).civFrac = (s.node p).civFrac :=
  s.node_modNode_proj _ _ _ (·.civFrac) fun _ => rfl
@[simp] theorem State.wr_node_civInc (s : State) (f : Fld) (v i w : Nat) (p : Part) : ((s.wr f v i w).node p).civInc = (s.node p).civInc :=
  s.node_modNode_proj _ _ _ (·.civInc) fun _ => rfl
@[simp] theorem State.wr_node_civHold (s : State) (f : Fld) (v i w : Nat) (p : Part) : ((s.wr f v i w).node p).civHold = (s.node p).civHold :=
  s.node_modNode_proj _ _ _ (·.civHold) fun _ => rfl
@[simp] theorem State.wr_node_civLast (s : State) (f : Fld) (v i w : Nat) (p : Part) : ((s.wr f v i w).node p).civLast = (s.node p).civLast :=
  s.node_modNode_proj _ _ _ (·.civLast) fun _ => rfl
@[simp] theorem State.wr_node_errlog (s : State) (f : Fld) (v i w : Nat) (p : Part) : ((s.wr f v i w).node p).errlog = (s.node p).errlog :=
  s.node_modNode_proj _ _ _ (·.errlog) fun _ => rfl
@[simp] theorem State.wr_node_ports (s : State) (f : Fld) (v i w : Nat) (p : Part) : ((s.wr f v i w).node p).ports = (s.node p).ports :=
  s.node_modNode_proj _ _ _ (·.ports) fun _ => rfl
@[simp] theorem State.wr_node_rings (s : State) (f : Fld) (v i w : Nat) (p : Part) : ((s.wr f v i w).node p).rings = (s.node p).rings :=
  s.node_modNode_proj _ _ _ (·.rings) fun _ => rfl
@[simp] theorem State.wr_node_starts (s : State) (f : Fld) (v i w : Nat) (p : Part) : ((s.wr f v i w).node p).starts = (s.node p).starts :=
  s.node_modNode_proj _ _ _ (·.starts) fun _ => rfl
@[simp] theorem State.wr_node_tdc (s : State) (f : Fld) (v i w : Nat) (p : Part) : ((s.wr f v i w).node p).tdc = (s.node p).tdc :=
  s.node_modNode_proj _ _ _ (·.tdc) fun _ => rfl
@[simp] theorem State.wr_node_dyn (s : State) (f : Fld) (v i w : Nat) (p : Part) : ((s.wr f v i w).node p).dyn = (s.node p).dyn :=
  s.node_modNode_proj _ _ _ (·.dyn) fun _ => rfl
@[simp] theorem State.wr_node_dynSent (s : State) (f : Fld) (v i w : Nat) (p : Part) : ((s.wr f v i w).node p).dynSent = (s.node p).dynSent :=
  s.node_modNode_proj _ _ _ (·.dynSent) fun _ => rfl
@[simp] theorem State.wr_node_pen (s : State) (f : Fld) (v i w : Nat) (p : Part) : ((s.wr f v i w).node p).pen = (s.node p).pen :=
  s.node_modNode_proj _ _ _ (·.pen) fun _ => rfl
@[simp] theorem State.wr_node_gens (s : State) (f : Fld) (v i w : Nat) (p : Part) : ((s.wr f v i w).node p).gens = (s.node p).gens :=
  s.node_modNode_proj _ _ _ (·.gens) fun _ => rfl
@[simp] theorem State.wr_node_quar (s : State) (f : Fld) (v i w : Nat) (p : Part) : ((s.wr f v i w).node p).quar = (s.node p).quar :=
  s.node_modNode_proj _ _ _ (·.quar) fun _ => rfl
@[simp] theorem State.wr_node_genDef (s : State) (f : Fld) (v i w : Nat) (p : Part) : ((s.wr f v i w).node p).genDef = (s.node p).genDef :=
  s.node_modNode_proj _ _ _ (·.genDef) fun _ => rfl
@[simp] theorem State.wr_node_quarAll (s : State) (f : Fld) (v i w : Nat) (p : Part) : ((s.wr f v i w).node p).quarAll = (s.node p).quarAll :=
  s.node_modNode_proj _ _ _ (·.quarAll) fun _ => rfl
@[simp] theorem State.wr_node_msix (s : State) (f : Fld) (v i w : Nat) (p : Part) : ((s.wr f v i w).node p).msix = (s.node p).msix :=
  s.node_modNode_proj _ _ _ (·.msix) fun _ => rfl
@[simp] theorem State.wr_node_bootBegun (s : State) (f : Fld) (v i w : Nat) (p : Part) : ((s.wr f v i w).node p).bootBegun = (s.node p).bootBegun :=
  s.node_modNode_proj _ _ _ (·.bootBegun) fun _ => rfl
@[simp] theorem State.wr_node_bootDone (s : State) (f : Fld) (v i w : Nat) (p : Part) : ((s.wr f v i w).node p).bootDone = (s.node p).bootDone :=
  s.node_modNode_proj _ _ _ (·.bootDone) fun _ => rfl
@[simp] theorem State.wr_node_bootTrain (s : State) (f : Fld) (v i w : Nat) (p : Part) : ((s.wr f v i w).node p).bootTrain = (s.node p).bootTrain :=
  s.node_modNode_proj _ _ _ (·.bootTrain) fun _ => rfl
@[simp] theorem State.wr_node_altPort (s : State) (f : Fld) (v i w : Nat) (p : Part) : ((s.wr f v i w).node p).altPort = (s.node p).altPort :=
  s.node_modNode_proj _ _ _ (·.altPort) fun _ => rfl
@[simp] theorem State.wr_node_bootAt (s : State) (f : Fld) (v i w : Nat) (p : Part) : ((s.wr f v i w).node p).bootAt = (s.node p).bootAt :=
  s.node_modNode_proj _ _ _ (·.bootAt) fun _ => rfl
@[simp] theorem State.wr_node_age (s : State) (f : Fld) (v i w : Nat) (p : Part) : ((s.wr f v i w).node p).age = (s.node p).age :=
  s.node_modNode_proj _ _ _ (·.age) fun _ => rfl
@[simp] theorem State.wr_node_lockLane (s : State) (f : Fld) (v i w : Nat) (p : Part) : ((s.wr f v i w).node p).lockLane = (s.node p).lockLane :=
  s.node_modNode_proj _ _ _ (·.lockLane) fun _ => rfl
@[simp] theorem State.wr_node_bindings (s : State) (f : Fld) (v i w : Nat) (p : Part) : ((s.wr f v i w).node p).bindings = (s.node p).bindings :=
  s.node_modNode_proj _ _ _ (·.bindings) fun _ => rfl
@[simp] theorem State.wr_node_claimed (s : State) (f : Fld) (v i w : Nat) (p : Part) : ((s.wr f v i w).node p).claimed = (s.node p).claimed :=
  s.node_modNode_proj _ _ _ (·.claimed) fun _ => rfl
@[simp] theorem State.wr_node_sessions (s : State) (f : Fld) (v i w : Nat) (p : Part) : ((s.wr f v i w).node p).sessions = (s.node p).sessions :=
  s.node_modNode_proj _ _ _ (·.sessions) fun _ => rfl
@[simp] theorem State.wr_node_scrub (s : State) (f : Fld) (v i w : Nat) (p : Part) : ((s.wr f v i w).node p).scrub = (s.node p).scrub :=
  s.node_modNode_proj _ _ _ (·.scrub) fun _ => rfl
@[simp] theorem State.wr_node_staged (s : State) (f : Fld) (v i w : Nat) (p : Part) : ((s.wr f v i w).node p).staged = (s.node p).staged :=
  s.node_modNode_proj _ _ _ (·.staged) fun _ => rfl
@[simp] theorem State.wr_node_images (s : State) (f : Fld) (v i w : Nat) (p : Part) : ((s.wr f v i w).node p).images = (s.node p).images :=
  s.node_modNode_proj _ _ _ (·.images) fun _ => rfl
@[simp] theorem State.wr_node_out (s : State) (f : Fld) (v i w : Nat) (p : Part) : ((s.wr f v i w).node p).out = (s.node p).out :=
  s.node_modNode_proj _ _ _ (·.out) fun _ => rfl
@[simp] theorem State.wr_tsu_live (s : State) (f : Fld) (v i w : Nat) : (s.wr f v i w).tsu.live = s.tsu.live := s.wr_node_live f v i w .tsu
@[simp] theorem State.wr_dbx_live (s : State) (f : Fld) (v i w : Nat) : (s.wr f v i w).dbx.live = s.dbx.live := s.wr_node_live f v i w .dbx
@[simp] theorem State.wr_tsu_lfn (s : State) (f : Fld) (v i w : Nat) : (s.wr f v i w).tsu.lfn = s.tsu.lfn := s.wr_node_lfn f v i w .tsu
@[simp] theorem State.wr_dbx_lfn (s : State) (f : Fld) (v i w : Nat) : (s.wr f v i w).dbx.lfn = s.dbx.lfn := s.wr_node_lfn f v i w .dbx
@[simp] theorem State.wr_tsu_sub (s : State) (f : Fld) (v i w : Nat) : (s.wr f v i w).tsu.sub = s.tsu.sub := s.wr_node_sub f v i w .tsu
@[simp] theorem State.wr_dbx_sub (s : State) (f : Fld) (v i w : Nat) : (s.wr f v i w).dbx.sub = s.dbx.sub := s.wr_node_sub f v i w .dbx
@[simp] theorem State.wr_tsu_frac (s : State) (f : Fld) (v i w : Nat) : (s.wr f v i w).tsu.frac = s.tsu.frac := s.wr_node_frac f v i w .tsu
@[simp] theorem State.wr_dbx_frac (s : State) (f : Fld) (v i w : Nat) : (s.wr f v i w).dbx.frac = s.dbx.frac := s.wr_node_frac f v i w .dbx
@[simp] theorem State.wr_tsu_labelled (s : State) (f : Fld) (v i w : Nat) : (s.wr f v i w).tsu.labelled = s.tsu.labelled := s.wr_node_labelled f v i w .tsu
@[simp] theorem State.wr_dbx_labelled (s : State) (f : Fld) (v i w : Nat) : (s.wr f v i w).dbx.labelled = s.dbx.labelled := s.wr_node_labelled f v i w .dbx
@[simp] theorem State.wr_tsu_origin (s : State) (f : Fld) (v i w : Nat) : (s.wr f v i w).tsu.origin = s.tsu.origin := s.wr_node_origin f v i w .tsu
@[simp] theorem State.wr_dbx_origin (s : State) (f : Fld) (v i w : Nat) : (s.wr f v i w).dbx.origin = s.dbx.origin := s.wr_node_origin f v i w .dbx
@[simp] theorem State.wr_tsu_jumpTo (s : State) (f : Fld) (v i w : Nat) : (s.wr f v i w).tsu.jumpTo = s.tsu.jumpTo := s.wr_node_jumpTo f v i w .tsu
@[simp] theorem State.wr_dbx_jumpTo (s : State) (f : Fld) (v i w : Nat) : (s.wr f v i w).dbx.jumpTo = s.dbx.jumpTo := s.wr_node_jumpTo f v i w .dbx
@[simp] theorem State.wr_tsu_frozen (s : State) (f : Fld) (v i w : Nat) : (s.wr f v i w).tsu.frozen = s.tsu.frozen := s.wr_node_frozen f v i w .tsu
@[simp] theorem State.wr_dbx_frozen (s : State) (f : Fld) (v i w : Nat) : (s.wr f v i w).dbx.frozen = s.dbx.frozen := s.wr_node_frozen f v i w .dbx
@[simp] theorem State.wr_tsu_fromHold (s : State) (f : Fld) (v i w : Nat) : (s.wr f v i w).tsu.fromHold = s.tsu.fromHold := s.wr_node_fromHold f v i w .tsu
@[simp] theorem State.wr_dbx_fromHold (s : State) (f : Fld) (v i w : Nat) : (s.wr f v i w).dbx.fromHold = s.dbx.fromHold := s.wr_node_fromHold f v i w .dbx
@[simp] theorem State.wr_tsu_acqPort (s : State) (f : Fld) (v i w : Nat) : (s.wr f v i w).tsu.acqPort = s.tsu.acqPort := s.wr_node_acqPort f v i w .tsu
@[simp] theorem State.wr_dbx_acqPort (s : State) (f : Fld) (v i w : Nat) : (s.wr f v i w).dbx.acqPort = s.dbx.acqPort := s.wr_node_acqPort f v i w .dbx
@[simp] theorem State.wr_tsu_acqSet (s : State) (f : Fld) (v i w : Nat) : (s.wr f v i w).tsu.acqSet = s.tsu.acqSet := s.wr_node_acqSet f v i w .tsu
@[simp] theorem State.wr_dbx_acqSet (s : State) (f : Fld) (v i w : Nat) : (s.wr f v i w).dbx.acqSet = s.dbx.acqSet := s.wr_node_acqSet f v i w .dbx
@[simp] theorem State.wr_tsu_acqFails (s : State) (f : Fld) (v i w : Nat) : (s.wr f v i w).tsu.acqFails = s.tsu.acqFails := s.wr_node_acqFails f v i w .tsu
@[simp] theorem State.wr_dbx_acqFails (s : State) (f : Fld) (v i w : Nat) : (s.wr f v i w).dbx.acqFails = s.dbx.acqFails := s.wr_node_acqFails f v i w .dbx
@[simp] theorem State.wr_tsu_slew (s : State) (f : Fld) (v i w : Nat) : (s.wr f v i w).tsu.slew = s.tsu.slew := s.wr_node_slew f v i w .tsu
@[simp] theorem State.wr_dbx_slew (s : State) (f : Fld) (v i w : Nat) : (s.wr f v i w).dbx.slew = s.dbx.slew := s.wr_node_slew f v i w .dbx
@[simp] theorem State.wr_tsu_ramp (s : State) (f : Fld) (v i w : Nat) : (s.wr f v i w).tsu.ramp = s.tsu.ramp := s.wr_node_ramp f v i w .tsu
@[simp] theorem State.wr_dbx_ramp (s : State) (f : Fld) (v i w : Nat) : (s.wr f v i w).dbx.ramp = s.dbx.ramp := s.wr_node_ramp f v i w .dbx
@[simp] theorem State.wr_tsu_moveTo (s : State) (f : Fld) (v i w : Nat) : (s.wr f v i w).tsu.moveTo = s.tsu.moveTo := s.wr_node_moveTo f v i w .tsu
@[simp] theorem State.wr_dbx_moveTo (s : State) (f : Fld) (v i w : Nat) : (s.wr f v i w).dbx.moveTo = s.dbx.moveTo := s.wr_node_moveTo f v i w .dbx
@[simp] theorem State.wr_tsu_psi (s : State) (f : Fld) (v i w : Nat) : (s.wr f v i w).tsu.psi = s.tsu.psi := s.wr_node_psi f v i w .tsu
@[simp] theorem State.wr_dbx_psi (s : State) (f : Fld) (v i w : Nat) : (s.wr f v i w).dbx.psi = s.dbx.psi := s.wr_node_psi f v i w .dbx
@[simp] theorem State.wr_tsu_civSec (s : State) (f : Fld) (v i w : Nat) : (s.wr f v i w).tsu.civSec = s.tsu.civSec := s.wr_node_civSec f v i w .tsu
@[simp] theorem State.wr_dbx_civSec (s : State) (f : Fld) (v i w : Nat) : (s.wr f v i w).dbx.civSec = s.dbx.civSec := s.wr_node_civSec f v i w .dbx
@[simp] theorem State.wr_tsu_civFrac (s : State) (f : Fld) (v i w : Nat) : (s.wr f v i w).tsu.civFrac = s.tsu.civFrac := s.wr_node_civFrac f v i w .tsu
@[simp] theorem State.wr_dbx_civFrac (s : State) (f : Fld) (v i w : Nat) : (s.wr f v i w).dbx.civFrac = s.dbx.civFrac := s.wr_node_civFrac f v i w .dbx
@[simp] theorem State.wr_tsu_civInc (s : State) (f : Fld) (v i w : Nat) : (s.wr f v i w).tsu.civInc = s.tsu.civInc := s.wr_node_civInc f v i w .tsu
@[simp] theorem State.wr_dbx_civInc (s : State) (f : Fld) (v i w : Nat) : (s.wr f v i w).dbx.civInc = s.dbx.civInc := s.wr_node_civInc f v i w .dbx
@[simp] theorem State.wr_tsu_civHold (s : State) (f : Fld) (v i w : Nat) : (s.wr f v i w).tsu.civHold = s.tsu.civHold := s.wr_node_civHold f v i w .tsu
@[simp] theorem State.wr_dbx_civHold (s : State) (f : Fld) (v i w : Nat) : (s.wr f v i w).dbx.civHold = s.dbx.civHold := s.wr_node_civHold f v i w .dbx
@[simp] theorem State.wr_tsu_civLast (s : State) (f : Fld) (v i w : Nat) : (s.wr f v i w).tsu.civLast = s.tsu.civLast := s.wr_node_civLast f v i w .tsu
@[simp] theorem State.wr_dbx_civLast (s : State) (f : Fld) (v i w : Nat) : (s.wr f v i w).dbx.civLast = s.dbx.civLast := s.wr_node_civLast f v i w .dbx
@[simp] theorem State.wr_tsu_errlog (s : State) (f : Fld) (v i w : Nat) : (s.wr f v i w).tsu.errlog = s.tsu.errlog := s.wr_node_errlog f v i w .tsu
@[simp] theorem State.wr_dbx_errlog (s : State) (f : Fld) (v i w : Nat) : (s.wr f v i w).dbx.errlog = s.dbx.errlog := s.wr_node_errlog f v i w .dbx
@[simp] theorem State.wr_tsu_ports (s : State) (f : Fld) (v i w : Nat) : (s.wr f v i w).tsu.ports = s.tsu.ports := s.wr_node_ports f v i w .tsu
@[simp] theorem State.wr_dbx_ports (s : State) (f : Fld) (v i w : Nat) : (s.wr f v i w).dbx.ports = s.dbx.ports := s.wr_node_ports f v i w .dbx
@[simp] theorem State.wr_tsu_rings (s : State) (f : Fld) (v i w : Nat) : (s.wr f v i w).tsu.rings = s.tsu.rings := s.wr_node_rings f v i w .tsu
@[simp] theorem State.wr_dbx_rings (s : State) (f : Fld) (v i w : Nat) : (s.wr f v i w).dbx.rings = s.dbx.rings := s.wr_node_rings f v i w .dbx
@[simp] theorem State.wr_tsu_starts (s : State) (f : Fld) (v i w : Nat) : (s.wr f v i w).tsu.starts = s.tsu.starts := s.wr_node_starts f v i w .tsu
@[simp] theorem State.wr_dbx_starts (s : State) (f : Fld) (v i w : Nat) : (s.wr f v i w).dbx.starts = s.dbx.starts := s.wr_node_starts f v i w .dbx
@[simp] theorem State.wr_tsu_tdc (s : State) (f : Fld) (v i w : Nat) : (s.wr f v i w).tsu.tdc = s.tsu.tdc := s.wr_node_tdc f v i w .tsu
@[simp] theorem State.wr_dbx_tdc (s : State) (f : Fld) (v i w : Nat) : (s.wr f v i w).dbx.tdc = s.dbx.tdc := s.wr_node_tdc f v i w .dbx
@[simp] theorem State.wr_tsu_dyn (s : State) (f : Fld) (v i w : Nat) : (s.wr f v i w).tsu.dyn = s.tsu.dyn := s.wr_node_dyn f v i w .tsu
@[simp] theorem State.wr_dbx_dyn (s : State) (f : Fld) (v i w : Nat) : (s.wr f v i w).dbx.dyn = s.dbx.dyn := s.wr_node_dyn f v i w .dbx
@[simp] theorem State.wr_tsu_dynSent (s : State) (f : Fld) (v i w : Nat) : (s.wr f v i w).tsu.dynSent = s.tsu.dynSent := s.wr_node_dynSent f v i w .tsu
@[simp] theorem State.wr_dbx_dynSent (s : State) (f : Fld) (v i w : Nat) : (s.wr f v i w).dbx.dynSent = s.dbx.dynSent := s.wr_node_dynSent f v i w .dbx
@[simp] theorem State.wr_tsu_pen (s : State) (f : Fld) (v i w : Nat) : (s.wr f v i w).tsu.pen = s.tsu.pen := s.wr_node_pen f v i w .tsu
@[simp] theorem State.wr_dbx_pen (s : State) (f : Fld) (v i w : Nat) : (s.wr f v i w).dbx.pen = s.dbx.pen := s.wr_node_pen f v i w .dbx
@[simp] theorem State.wr_tsu_gens (s : State) (f : Fld) (v i w : Nat) : (s.wr f v i w).tsu.gens = s.tsu.gens := s.wr_node_gens f v i w .tsu
@[simp] theorem State.wr_dbx_gens (s : State) (f : Fld) (v i w : Nat) : (s.wr f v i w).dbx.gens = s.dbx.gens := s.wr_node_gens f v i w .dbx
@[simp] theorem State.wr_tsu_quar (s : State) (f : Fld) (v i w : Nat) : (s.wr f v i w).tsu.quar = s.tsu.quar := s.wr_node_quar f v i w .tsu
@[simp] theorem State.wr_dbx_quar (s : State) (f : Fld) (v i w : Nat) : (s.wr f v i w).dbx.quar = s.dbx.quar := s.wr_node_quar f v i w .dbx
@[simp] theorem State.wr_tsu_genDef (s : State) (f : Fld) (v i w : Nat) : (s.wr f v i w).tsu.genDef = s.tsu.genDef := s.wr_node_genDef f v i w .tsu
@[simp] theorem State.wr_dbx_genDef (s : State) (f : Fld) (v i w : Nat) : (s.wr f v i w).dbx.genDef = s.dbx.genDef := s.wr_node_genDef f v i w .dbx
@[simp] theorem State.wr_tsu_quarAll (s : State) (f : Fld) (v i w : Nat) : (s.wr f v i w).tsu.quarAll = s.tsu.quarAll := s.wr_node_quarAll f v i w .tsu
@[simp] theorem State.wr_dbx_quarAll (s : State) (f : Fld) (v i w : Nat) : (s.wr f v i w).dbx.quarAll = s.dbx.quarAll := s.wr_node_quarAll f v i w .dbx
@[simp] theorem State.wr_tsu_msix (s : State) (f : Fld) (v i w : Nat) : (s.wr f v i w).tsu.msix = s.tsu.msix := s.wr_node_msix f v i w .tsu
@[simp] theorem State.wr_dbx_msix (s : State) (f : Fld) (v i w : Nat) : (s.wr f v i w).dbx.msix = s.dbx.msix := s.wr_node_msix f v i w .dbx
@[simp] theorem State.wr_tsu_bootBegun (s : State) (f : Fld) (v i w : Nat) : (s.wr f v i w).tsu.bootBegun = s.tsu.bootBegun := s.wr_node_bootBegun f v i w .tsu
@[simp] theorem State.wr_dbx_bootBegun (s : State) (f : Fld) (v i w : Nat) : (s.wr f v i w).dbx.bootBegun = s.dbx.bootBegun := s.wr_node_bootBegun f v i w .dbx
@[simp] theorem State.wr_tsu_bootDone (s : State) (f : Fld) (v i w : Nat) : (s.wr f v i w).tsu.bootDone = s.tsu.bootDone := s.wr_node_bootDone f v i w .tsu
@[simp] theorem State.wr_dbx_bootDone (s : State) (f : Fld) (v i w : Nat) : (s.wr f v i w).dbx.bootDone = s.dbx.bootDone := s.wr_node_bootDone f v i w .dbx
@[simp] theorem State.wr_tsu_bootTrain (s : State) (f : Fld) (v i w : Nat) : (s.wr f v i w).tsu.bootTrain = s.tsu.bootTrain := s.wr_node_bootTrain f v i w .tsu
@[simp] theorem State.wr_dbx_bootTrain (s : State) (f : Fld) (v i w : Nat) : (s.wr f v i w).dbx.bootTrain = s.dbx.bootTrain := s.wr_node_bootTrain f v i w .dbx
@[simp] theorem State.wr_tsu_altPort (s : State) (f : Fld) (v i w : Nat) : (s.wr f v i w).tsu.altPort = s.tsu.altPort := s.wr_node_altPort f v i w .tsu
@[simp] theorem State.wr_dbx_altPort (s : State) (f : Fld) (v i w : Nat) : (s.wr f v i w).dbx.altPort = s.dbx.altPort := s.wr_node_altPort f v i w .dbx
@[simp] theorem State.wr_tsu_bootAt (s : State) (f : Fld) (v i w : Nat) : (s.wr f v i w).tsu.bootAt = s.tsu.bootAt := s.wr_node_bootAt f v i w .tsu
@[simp] theorem State.wr_dbx_bootAt (s : State) (f : Fld) (v i w : Nat) : (s.wr f v i w).dbx.bootAt = s.dbx.bootAt := s.wr_node_bootAt f v i w .dbx
@[simp] theorem State.wr_tsu_age (s : State) (f : Fld) (v i w : Nat) : (s.wr f v i w).tsu.age = s.tsu.age := s.wr_node_age f v i w .tsu
@[simp] theorem State.wr_dbx_age (s : State) (f : Fld) (v i w : Nat) : (s.wr f v i w).dbx.age = s.dbx.age := s.wr_node_age f v i w .dbx
@[simp] theorem State.wr_tsu_lockLane (s : State) (f : Fld) (v i w : Nat) : (s.wr f v i w).tsu.lockLane = s.tsu.lockLane := s.wr_node_lockLane f v i w .tsu
@[simp] theorem State.wr_dbx_lockLane (s : State) (f : Fld) (v i w : Nat) : (s.wr f v i w).dbx.lockLane = s.dbx.lockLane := s.wr_node_lockLane f v i w .dbx
@[simp] theorem State.wr_tsu_bindings (s : State) (f : Fld) (v i w : Nat) : (s.wr f v i w).tsu.bindings = s.tsu.bindings := s.wr_node_bindings f v i w .tsu
@[simp] theorem State.wr_dbx_bindings (s : State) (f : Fld) (v i w : Nat) : (s.wr f v i w).dbx.bindings = s.dbx.bindings := s.wr_node_bindings f v i w .dbx
@[simp] theorem State.wr_tsu_claimed (s : State) (f : Fld) (v i w : Nat) : (s.wr f v i w).tsu.claimed = s.tsu.claimed := s.wr_node_claimed f v i w .tsu
@[simp] theorem State.wr_dbx_claimed (s : State) (f : Fld) (v i w : Nat) : (s.wr f v i w).dbx.claimed = s.dbx.claimed := s.wr_node_claimed f v i w .dbx
@[simp] theorem State.wr_tsu_sessions (s : State) (f : Fld) (v i w : Nat) : (s.wr f v i w).tsu.sessions = s.tsu.sessions := s.wr_node_sessions f v i w .tsu
@[simp] theorem State.wr_dbx_sessions (s : State) (f : Fld) (v i w : Nat) : (s.wr f v i w).dbx.sessions = s.dbx.sessions := s.wr_node_sessions f v i w .dbx
@[simp] theorem State.wr_tsu_scrub (s : State) (f : Fld) (v i w : Nat) : (s.wr f v i w).tsu.scrub = s.tsu.scrub := s.wr_node_scrub f v i w .tsu
@[simp] theorem State.wr_dbx_scrub (s : State) (f : Fld) (v i w : Nat) : (s.wr f v i w).dbx.scrub = s.dbx.scrub := s.wr_node_scrub f v i w .dbx
@[simp] theorem State.wr_tsu_staged (s : State) (f : Fld) (v i w : Nat) : (s.wr f v i w).tsu.staged = s.tsu.staged := s.wr_node_staged f v i w .tsu
@[simp] theorem State.wr_dbx_staged (s : State) (f : Fld) (v i w : Nat) : (s.wr f v i w).dbx.staged = s.dbx.staged := s.wr_node_staged f v i w .dbx
@[simp] theorem State.wr_tsu_images (s : State) (f : Fld) (v i w : Nat) : (s.wr f v i w).tsu.images = s.tsu.images := s.wr_node_images f v i w .tsu
@[simp] theorem State.wr_dbx_images (s : State) (f : Fld) (v i w : Nat) : (s.wr f v i w).dbx.images = s.dbx.images := s.wr_node_images f v i w .dbx
@[simp] theorem State.wr_tsu_out (s : State) (f : Fld) (v i w : Nat) : (s.wr f v i w).tsu.out = s.tsu.out := s.wr_node_out f v i w .tsu
@[simp] theorem State.wr_dbx_out (s : State) (f : Fld) (v i w : Nat) : (s.wr f v i w).dbx.out = s.dbx.out := s.wr_node_out f v i w .dbx

/-- A register field read after a write of it holds what was written, cut to its width (R5). -/
@[simp] theorem Node.rd_wr_self (n : Node) (f : Fld) (v i w : Nat) : (n.wr f v i w).rd f i w = v % 2 ^ f.width := by
  simp [Node.rd, Node.wr, fgetD_fput_self]

/-- Another field keeps its value. -/
theorem Node.rd_wr_ne (n : Node) {f g : Fld} {i j w k : Nat} (h : g.key j k ≠ f.key i w) (v : Nat) :
    (n.wr f v i w).rd g j k = n.rd g j k := by
  simp [Node.rd, Node.wr, fgetD_fput_ne _ h]

@[simp] theorem State.rd_wr_self (s : State) (f : Fld) (v i w : Nat) : (s.wr f v i w).rd f i w = v % 2 ^ f.width := by
  simp [State.rd, State.wr]

theorem State.rd_wr_ne (s : State) {f g : Fld} {i j w k : Nat} (h : g.part ≠ f.part ∨ g.key j k ≠ f.key i w) (v : Nat) :
    (s.wr f v i w).rd g j k = s.rd g j k := by
  unfold State.rd State.wr
  by_cases hp : g.part = f.part
  · rw [hp, State.node_modNode_self, Node.rd_wr_ne _ (h.resolve_left (not_not.2 hp))]
  · rw [State.node_modNode_ne _ hp]

/-- A change that keeps the registers keeps every field. -/
theorem State.rd_congr {s t : State} (h : ∀ p, (t.node p).regs = (s.node p).regs) (f : Fld) (i w : Nat) :
    t.rd f i w = s.rd f i w := by
  simp [State.rd, Node.rd, h]

@[simp] theorem State.rd_modT (s : State) (g : TsuState → TsuState) (f : Fld) (i w : Nat) : (s.modT g).rd f i w = s.rd f i w :=
  State.rd_congr (by simp) f i w

@[simp] theorem State.rd_modD (s : State) (g : DbxState → DbxState) (f : Fld) (i w : Nat) : (s.modD g).rd f i w = s.rd f i w :=
  State.rd_congr (by simp) f i w

/-- A change of a node that keeps its registers keeps every field. -/
theorem State.rd_modNode (s : State) (p : Part) (g : Node → Node) (hg : ∀ n, (g n).regs = n.regs) (f : Fld) (i w : Nat) :
    (s.modNode p g).rd f i w = s.rd f i w :=
  State.rd_congr (fun q => s.node_modNode_proj p q g (·.regs) hg) f i w

@[simp] theorem State.rd_modPort (s : State) (p : Part) (k : Nat) (g : PortRt → PortRt) (f : Fld) (i w : Nat) :
    (s.modPort p k g).rd f i w = s.rd f i w := by
  unfold State.modPort
  exact State.rd_congr (fun q => State.node_modNode_proj s p q _ (·.regs) (by intro n; rfl)) f i w

@[simp] theorem State.rd_modRing (s : State) (p : Part) (k : Nat) (g : RingRt → RingRt) (f : Fld) (i w : Nat) :
    (s.modRing p k g).rd f i w = s.rd f i w := by
  unfold State.modRing
  exact State.rd_congr (fun q => State.node_modNode_proj s p q _ (·.regs) (by intro n; rfl)) f i w

@[simp] theorem State.rd_emit (s : State) (p : Part) (o : Out) (f : Fld) (i w : Nat) : (s.emit p o).rd f i w = s.rd f i w := by
  unfold State.emit
  exact State.rd_congr (fun q => State.node_modNode_proj s p q _ (·.regs) (by intro n; rfl)) f i w

/-! ### Ports, rings, outputs -/

@[simp] theorem State.port_modPort_self (s : State) (p : Part) (k : Nat) (g : PortRt → PortRt) :
    (s.modPort p k g).port p k = g (s.port p k) := by simp [State.port, State.modPort]

theorem State.port_modPort_ne (s : State) (p : Part) {k l : Nat} (h : l ≠ k) (g : PortRt → PortRt) :
    (s.modPort p k g).port p l = s.port p l := by simp [State.port, State.modPort, fgetD_fmod_ne _ h]

@[simp] theorem State.ring_modRing_self (s : State) (p : Part) (k : Nat) (g : RingRt → RingRt) :
    (s.modRing p k g).ring p k = g (s.ring p k) := by simp [State.ring, State.modRing]

theorem State.ring_modRing_ne (s : State) (p : Part) {k l : Nat} (h : l ≠ k) (g : RingRt → RingRt) :
    (s.modRing p k g).ring p l = s.ring p l := by simp [State.ring, State.modRing, fgetD_fmod_ne _ h]

@[simp] theorem State.emit_out (s : State) (p : Part) (o : Out) : ((s.emit p o).node p).out = o :: (s.node p).out := by
  simp [State.emit]

@[simp] theorem State.modPort_t (s : State) (p : Part) (k : Nat) (g : PortRt → PortRt) : (s.modPort p k g).t = s.t := by simp [State.modPort]
@[simp] theorem State.modPort_d (s : State) (p : Part) (k : Nat) (g : PortRt → PortRt) : (s.modPort p k g).d = s.d := by simp [State.modPort]
@[simp] theorem State.modPort_fresh (s : State) (p : Part) (k : Nat) (g : PortRt → PortRt) : (s.modPort p k g).fresh = s.fresh := by simp [State.modPort]
@[simp] theorem State.modPort_pending (s : State) (p : Part) (k : Nat) (g : PortRt → PortRt) : (s.modPort p k g).pending = s.pending := by simp [State.modPort]
@[simp] theorem State.modPort_node_live (s : State) (p : Part) (k : Nat) (g : PortRt → PortRt) (q : Part) : ((s.modPort p k g).node q).live = (s.node q).live :=
  s.node_modNode_proj _ _ _ (·.live) fun _ => rfl
@[simp] theorem State.modPort_node_lfn (s : State) (p : Part) (k : Nat) (g : PortRt → PortRt) (q : Part) : ((s.modPort p k g).node q).lfn = (s.node q).lfn :=
  s.node_modNode_proj _ _ _ (·.lfn) fun _ => rfl
@[simp] theorem State.modPort_node_labelled (s : State) (p : Part) (k : Nat) (g : PortRt → PortRt) (q : Part) : ((s.modPort p k g).node q).labelled = (s.node q).labelled :=
  s.node_modNode_proj _ _ _ (·.labelled) fun _ => rfl
@[simp] theorem State.modPort_node_regs (s : State) (p : Part) (k : Nat) (g : PortRt → PortRt) (q : Part) : ((s.modPort p k g).node q).regs = (s.node q).regs :=
  s.node_modNode_proj _ _ _ (·.regs) fun _ => rfl
@[simp] theorem State.modPort_node_errlog (s : State) (p : Part) (k : Nat) (g : PortRt → PortRt) (q : Part) : ((s.modPort p k g).node q).errlog = (s.node q).errlog :=
  s.node_modNode_proj _ _ _ (·.errlog) fun _ => rfl
@[simp] theorem State.modPort_node_rings (s : State) (p : Part) (k : Nat) (g : PortRt → PortRt) (q : Part) : ((s.modPort p k g).node q).rings = (s.node q).rings :=
  s.node_modNode_proj _ _ _ (·.rings) fun _ => rfl
@[simp] theorem State.modPort_node_tdc (s : State) (p : Part) (k : Nat) (g : PortRt → PortRt) (q : Part) : ((s.modPort p k g).node q).tdc = (s.node q).tdc :=
  s.node_modNode_proj _ _ _ (·.tdc) fun _ => rfl
@[simp] theorem State.modPort_node_dyn (s : State) (p : Part) (k : Nat) (g : PortRt → PortRt) (q : Part) : ((s.modPort p k g).node q).dyn = (s.node q).dyn :=
  s.node_modNode_proj _ _ _ (·.dyn) fun _ => rfl
@[simp] theorem State.modPort_node_pen (s : State) (p : Part) (k : Nat) (g : PortRt → PortRt) (q : Part) : ((s.modPort p k g).node q).pen = (s.node q).pen :=
  s.node_modNode_proj _ _ _ (·.pen) fun _ => rfl
@[simp] theorem State.modPort_node_gens (s : State) (p : Part) (k : Nat) (g : PortRt → PortRt) (q : Part) : ((s.modPort p k g).node q).gens = (s.node q).gens :=
  s.node_modNode_proj _ _ _ (·.gens) fun _ => rfl
@[simp] theorem State.modPort_node_quar (s : State) (p : Part) (k : Nat) (g : PortRt → PortRt) (q : Part) : ((s.modPort p k g).node q).quar = (s.node q).quar :=
  s.node_modNode_proj _ _ _ (·.quar) fun _ => rfl
@[simp] theorem State.modPort_node_sessions (s : State) (p : Part) (k : Nat) (g : PortRt → PortRt) (q : Part) : ((s.modPort p k g).node q).sessions = (s.node q).sessions :=
  s.node_modNode_proj _ _ _ (·.sessions) fun _ => rfl
@[simp] theorem State.modPort_node_scrub (s : State) (p : Part) (k : Nat) (g : PortRt → PortRt) (q : Part) : ((s.modPort p k g).node q).scrub = (s.node q).scrub :=
  s.node_modNode_proj _ _ _ (·.scrub) fun _ => rfl
@[simp] theorem State.modPort_node_out (s : State) (p : Part) (k : Nat) (g : PortRt → PortRt) (q : Part) : ((s.modPort p k g).node q).out = (s.node q).out :=
  s.node_modNode_proj _ _ _ (·.out) fun _ => rfl
@[simp] theorem State.modRing_t (s : State) (p : Part) (k : Nat) (g : RingRt → RingRt) : (s.modRing p k g).t = s.t := by simp [State.modRing]
@[simp] theorem State.modRing_d (s : State) (p : Part) (k : Nat) (g : RingRt → RingRt) : (s.modRing p k g).d = s.d := by simp [State.modRing]
@[simp] theorem State.modRing_fresh (s : State) (p : Part) (k : Nat) (g : RingRt → RingRt) : (s.modRing p k g).fresh = s.fresh := by simp [State.modRing]
@[simp] theorem State.modRing_pending (s : State) (p : Part) (k : Nat) (g : RingRt → RingRt) : (s.modRing p k g).pending = s.pending := by simp [State.modRing]
@[simp] theorem State.modRing_node_live (s : State) (p : Part) (k : Nat) (g : RingRt → RingRt) (q : Part) : ((s.modRing p k g).node q).live = (s.node q).live :=
  s.node_modNode_proj _ _ _ (·.live) fun _ => rfl
@[simp] theorem State.modRing_node_lfn (s : State) (p : Part) (k : Nat) (g : RingRt → RingRt) (q : Part) : ((s.modRing p k g).node q).lfn = (s.node q).lfn :=
  s.node_modNode_proj _ _ _ (·.lfn) fun _ => rfl
@[simp] theorem State.modRing_node_labelled (s : State) (p : Part) (k : Nat) (g : RingRt → RingRt) (q : Part) : ((s.modRing p k g).node q).labelled = (s.node q).labelled :=
  s.node_modNode_proj _ _ _ (·.labelled) fun _ => rfl
@[simp] theorem State.modRing_node_regs (s : State) (p : Part) (k : Nat) (g : RingRt → RingRt) (q : Part) : ((s.modRing p k g).node q).regs = (s.node q).regs :=
  s.node_modNode_proj _ _ _ (·.regs) fun _ => rfl
@[simp] theorem State.modRing_node_errlog (s : State) (p : Part) (k : Nat) (g : RingRt → RingRt) (q : Part) : ((s.modRing p k g).node q).errlog = (s.node q).errlog :=
  s.node_modNode_proj _ _ _ (·.errlog) fun _ => rfl
@[simp] theorem State.modRing_node_ports (s : State) (p : Part) (k : Nat) (g : RingRt → RingRt) (q : Part) : ((s.modRing p k g).node q).ports = (s.node q).ports :=
  s.node_modNode_proj _ _ _ (·.ports) fun _ => rfl
@[simp] theorem State.modRing_node_tdc (s : State) (p : Part) (k : Nat) (g : RingRt → RingRt) (q : Part) : ((s.modRing p k g).node q).tdc = (s.node q).tdc :=
  s.node_modNode_proj _ _ _ (·.tdc) fun _ => rfl
@[simp] theorem State.modRing_node_dyn (s : State) (p : Part) (k : Nat) (g : RingRt → RingRt) (q : Part) : ((s.modRing p k g).node q).dyn = (s.node q).dyn :=
  s.node_modNode_proj _ _ _ (·.dyn) fun _ => rfl
@[simp] theorem State.modRing_node_pen (s : State) (p : Part) (k : Nat) (g : RingRt → RingRt) (q : Part) : ((s.modRing p k g).node q).pen = (s.node q).pen :=
  s.node_modNode_proj _ _ _ (·.pen) fun _ => rfl
@[simp] theorem State.modRing_node_gens (s : State) (p : Part) (k : Nat) (g : RingRt → RingRt) (q : Part) : ((s.modRing p k g).node q).gens = (s.node q).gens :=
  s.node_modNode_proj _ _ _ (·.gens) fun _ => rfl
@[simp] theorem State.modRing_node_quar (s : State) (p : Part) (k : Nat) (g : RingRt → RingRt) (q : Part) : ((s.modRing p k g).node q).quar = (s.node q).quar :=
  s.node_modNode_proj _ _ _ (·.quar) fun _ => rfl
@[simp] theorem State.modRing_node_sessions (s : State) (p : Part) (k : Nat) (g : RingRt → RingRt) (q : Part) : ((s.modRing p k g).node q).sessions = (s.node q).sessions :=
  s.node_modNode_proj _ _ _ (·.sessions) fun _ => rfl
@[simp] theorem State.modRing_node_scrub (s : State) (p : Part) (k : Nat) (g : RingRt → RingRt) (q : Part) : ((s.modRing p k g).node q).scrub = (s.node q).scrub :=
  s.node_modNode_proj _ _ _ (·.scrub) fun _ => rfl
@[simp] theorem State.modRing_node_out (s : State) (p : Part) (k : Nat) (g : RingRt → RingRt) (q : Part) : ((s.modRing p k g).node q).out = (s.node q).out :=
  s.node_modNode_proj _ _ _ (·.out) fun _ => rfl
@[simp] theorem State.emit_t (s : State) (p : Part) (o : Out) : (s.emit p o).t = s.t := by simp [State.emit]
@[simp] theorem State.emit_d (s : State) (p : Part) (o : Out) : (s.emit p o).d = s.d := by simp [State.emit]
@[simp] theorem State.emit_fresh (s : State) (p : Part) (o : Out) : (s.emit p o).fresh = s.fresh := by simp [State.emit]
@[simp] theorem State.emit_pending (s : State) (p : Part) (o : Out) : (s.emit p o).pending = s.pending := by simp [State.emit]
@[simp] theorem State.emit_node_live (s : State) (p : Part) (o : Out) (q : Part) : ((s.emit p o).node q).live = (s.node q).live :=
  s.node_modNode_proj _ _ _ (·.live) fun _ => rfl
@[simp] theorem State.emit_node_lfn (s : State) (p : Part) (o : Out) (q : Part) : ((s.emit p o).node q).lfn = (s.node q).lfn :=
  s.node_modNode_proj _ _ _ (·.lfn) fun _ => rfl
@[simp] theorem State.emit_node_labelled (s : State) (p : Part) (o : Out) (q : Part) : ((s.emit p o).node q).labelled = (s.node q).labelled :=
  s.node_modNode_proj _ _ _ (·.labelled) fun _ => rfl
@[simp] theorem State.emit_node_regs (s : State) (p : Part) (o : Out) (q : Part) : ((s.emit p o).node q).regs = (s.node q).regs :=
  s.node_modNode_proj _ _ _ (·.regs) fun _ => rfl
@[simp] theorem State.emit_node_errlog (s : State) (p : Part) (o : Out) (q : Part) : ((s.emit p o).node q).errlog = (s.node q).errlog :=
  s.node_modNode_proj _ _ _ (·.errlog) fun _ => rfl
@[simp] theorem State.emit_node_ports (s : State) (p : Part) (o : Out) (q : Part) : ((s.emit p o).node q).ports = (s.node q).ports :=
  s.node_modNode_proj _ _ _ (·.ports) fun _ => rfl
@[simp] theorem State.emit_node_rings (s : State) (p : Part) (o : Out) (q : Part) : ((s.emit p o).node q).rings = (s.node q).rings :=
  s.node_modNode_proj _ _ _ (·.rings) fun _ => rfl
@[simp] theorem State.emit_node_tdc (s : State) (p : Part) (o : Out) (q : Part) : ((s.emit p o).node q).tdc = (s.node q).tdc :=
  s.node_modNode_proj _ _ _ (·.tdc) fun _ => rfl
@[simp] theorem State.emit_node_dyn (s : State) (p : Part) (o : Out) (q : Part) : ((s.emit p o).node q).dyn = (s.node q).dyn :=
  s.node_modNode_proj _ _ _ (·.dyn) fun _ => rfl
@[simp] theorem State.emit_node_pen (s : State) (p : Part) (o : Out) (q : Part) : ((s.emit p o).node q).pen = (s.node q).pen :=
  s.node_modNode_proj _ _ _ (·.pen) fun _ => rfl
@[simp] theorem State.emit_node_gens (s : State) (p : Part) (o : Out) (q : Part) : ((s.emit p o).node q).gens = (s.node q).gens :=
  s.node_modNode_proj _ _ _ (·.gens) fun _ => rfl
@[simp] theorem State.emit_node_quar (s : State) (p : Part) (o : Out) (q : Part) : ((s.emit p o).node q).quar = (s.node q).quar :=
  s.node_modNode_proj _ _ _ (·.quar) fun _ => rfl
@[simp] theorem State.emit_node_sessions (s : State) (p : Part) (o : Out) (q : Part) : ((s.emit p o).node q).sessions = (s.node q).sessions :=
  s.node_modNode_proj _ _ _ (·.sessions) fun _ => rfl
@[simp] theorem State.emit_node_scrub (s : State) (p : Part) (o : Out) (q : Part) : ((s.emit p o).node q).scrub = (s.node q).scrub :=
  s.node_modNode_proj _ _ _ (·.scrub) fun _ => rfl

/-! ### The answer of a meaning -/

/-- A part out of reset: the meaning acts. -/
theorem onLive_live {p : Part} {s : State} (h : (s.node p).live = true) (f : State → State) : onLive p s f = .next (f s) := by
  simp [onLive, h]

/-- A part in reset: nothing happens. -/
theorem onLive_dead {p : Part} {s : State} (h : (s.node p).live = false) (f : State → State) : onLive p s f = .next s := by
  simp [onLive, h]

end Sys2Proof.Machine
end

