-- ==== Sys2Proof/Laws/Ops.lean ====
section
/-! SUPPORT. What the shared operations leave as it is, and what they can do: lemmas that proofs cite in place of
unfolding the operations. -/

namespace Sys2Proof.Machine

/-! ### The security status of the distributor -/

@[simp] theorem State.showSec_d (s : State) : s.showSec.d = s.d := by simp [State.showSec]
@[simp] theorem State.showSec_t (s : State) : s.showSec.t = s.t := by simp [State.showSec]
@[simp] theorem State.showSec_pending (s : State) : s.showSec.pending = s.pending := by simp [State.showSec]

/-- The member's role is a field of its own. -/
@[simp] theorem State.showSec_condRole (s : State) : s.showSec.condRole = s.condRole := by
  unfold State.condRole State.showSec
  rw [State.rd_wr_ne _ (Or.inr (by decide)), State.rd_wr_ne _ (Or.inr (by decide))]

@[simp] theorem State.wr_inStep_condRole (s : State) (v : Nat) : (s.wr F.condStatusInStep v).condRole = s.condRole := by
  unfold State.condRole
  rw [State.rd_wr_ne _ (Or.inr (by decide))]

@[simp] theorem State.emit_condRole (s : State) (p : Part) (o : Out) : (s.emit p o).condRole = s.condRole :=
  State.rd_emit s p o _ _ _

@[simp] theorem State.modD_condRole (s : State) (f : DbxState → DbxState) : (s.modD f).condRole = s.condRole :=
  State.rd_modD s f _ _ _

/-! ### Discarded echo sets -/

/-- Discarding echo sets changes ports only. -/
@[simp] theorem State.discardSets_d (s : State) (p : Part) : (s.discardSets p).d = s.d := by
  unfold State.discardSets
  generalize (match p with | Part.tsu => [0, 1] | Part.dbx => [128, 129, 130, 131]).filter (s.childEnd p) = l
  induction l generalizing s with
  | nil => rfl
  | cons q l ih => simp only [List.foldl_cons, ih, State.modPort_d]

/-! ### What a part sends does not move its count -/

@[simp] theorem State.emit_dbx_lfn (s : State) (p : Part) (o : Out) : (s.emit p o).dbx.lfn = s.dbx.lfn := by
  cases p <;> simp [State.emit, State.modNode]
@[simp] theorem State.emit_tsu_lfn (s : State) (p : Part) (o : Out) : (s.emit p o).tsu.lfn = s.tsu.lfn := by
  cases p <;> simp [State.emit, State.modNode]

/-! ### What a port holds beside its registers -/

/-- A register write leaves what a port holds beside its registers. -/
@[simp] theorem State.port_wr (s : State) (f : Fld) (v i w : Nat) (p : Part) (k : Nat) : (s.wr f v i w).port p k = s.port p k := by
  simp [State.port]

/-! ### The error log and the interrupts -/

theorem State.wr_errlog (s : State) (f : Fld) (v i w : Nat) (p : Part) : ((s.wr f v i w).node p).errlog = (s.node p).errlog := by
  cases p <;> simp [State.node]

theorem State.emit_errlog (s : State) (q : Part) (o : Out) (p : Part) : ((s.emit q o).node p).errlog = (s.node p).errlog :=
  State.node_modNode_proj s q p _ (·.errlog) (by intro n; rfl)

/-- A memory request changes what only the TSU holds. -/
@[simp] theorem State.memRequest_node (s : State) (q : MemReq) (p : Part) : (s.memRequest q).node p = s.node p := by
  unfold State.memRequest
  split <;> simp

@[simp] theorem State.memRequest_rd (s : State) (q : MemReq) (f : Fld) (i w : Nat) : (s.memRequest q).rd f i w = s.rd f i w := by
  simp [State.rd]

@[simp] theorem State.memRequest_d (s : State) (q : MemReq) : (s.memRequest q).d = s.d := by
  unfold State.memRequest
  split <;> simp

theorem State.interrupt_errlog (s : State) (q : Part) (i : Nat) (p : Part) : ((s.interrupt q i).node p).errlog = (s.node p).errlog := by
  unfold State.interrupt
  simp only
  split
  · rfl
  · split
    · cases q
      · simp only
        rw [State.emit_errlog, State.memRequest_node, State.wr_errlog]
      · rw [State.emit_errlog, State.wr_errlog]
    · rw [State.wr_errlog]

theorem State.showErrlog_errlog (s : State) (q p : Part) : ((s.showErrlog q).node p).errlog = (s.node p).errlog := by
  simp [State.showErrlog]

/-- An entry is added at the end of a log with room, and nothing happens to a full one. -/
theorem State.logErr_errlog (s : State) (p : Part) (code port arg : Nat) :
    ((s.logErr p code port arg).node p).errlog =
      if 64 ≤ (s.node p).errlog.length then (s.node p).errlog
      else (s.node p).errlog ++ [⟨code, port, arg % 2 ^ 32, (s.exported p).lfn⟩] := by
  unfold State.logErr
  split
  · exact State.wr_errlog _ _ _ _ _ _
  · simp only
    rw [State.interrupt_errlog, State.showErrlog_errlog, State.node_modNode_self]

/-! ### Descriptors -/

/-- The row of a committed descriptor in flight takes its effect on it. -/
theorem State.withDesc_asked {s : State} {p : Part} {r seq op : Nat} {f : InFlight} (h : Asked s p r seq op f)
    (g : InFlight → State → State) : s.withDesc p r seq op g = g f (s.begin_ p r seq) := by
  simp [State.withDesc, h.1, h.2.1, h.2.2.1, h.2.2.2]

/-- Without a descriptor in flight under the number a row of a descriptor changes nothing. -/
theorem State.withDesc_none {s : State} {p : Part} {r seq : Nat} (h : s.inFlight p r seq = none) (op : Nat)
    (g : InFlight → State → State) : s.withDesc p r seq op g = s := by simp [State.withDesc, h]

/-- A descriptor whose tag fails has status BAD_TAG. -/
theorem State.descStatus_badTag {s : State} {p : Part} {r seq : Nat} {d : Desc} (h : s.tagOk p r seq d = false) :
    s.descStatus p r seq d = 1 := by simp [State.descStatus, h]

/-! ### Reads after a change of a node that keeps its registers -/

@[simp] theorem State.rd_runTo (s : State) (p : Part) (k : Nat) (f : Fld) (i w : Nat) :
    (s.modNode p fun n => n.runTo k).rd f i w = s.rd f i w := s.rd_modNode p (fun n => n.runTo k) (fun _ => rfl) f i w

/-! ### A descriptor that takes effect changes its ring's list alone -/

@[simp] theorem State.begin_t (s : State) (p : Part) (r seq : Nat) : (s.begin_ p r seq).t = s.t := by simp [State.begin_]
@[simp] theorem State.begin_d (s : State) (p : Part) (r seq : Nat) : (s.begin_ p r seq).d = s.d := by simp [State.begin_]
@[simp] theorem State.begin_fresh (s : State) (p : Part) (r seq : Nat) : (s.begin_ p r seq).fresh = s.fresh := by simp [State.begin_]
@[simp] theorem State.begin_pending (s : State) (p : Part) (r seq : Nat) : (s.begin_ p r seq).pending = s.pending := by simp [State.begin_]
@[simp] theorem State.begin_rd (s : State) (p : Part) (r seq : Nat) (f : Fld) (i w : Nat) :
    (s.begin_ p r seq).rd f i w = s.rd f i w := by simp [State.begin_]
@[simp] theorem State.begin_is (s : State) (p : Part) (r seq : Nat) (f : Fld) (i : Nat) :
    (s.begin_ p r seq).is f i = s.is f i := by simp [State.is]
@[simp] theorem State.begin_chan (s : State) (p : Part) (r seq ch : Nat) : (s.begin_ p r seq).chan ch = s.chan ch := by
  simp [State.chan]
@[simp] theorem State.begin_condRole (s : State) (p : Part) (r seq : Nat) : (s.begin_ p r seq).condRole = s.condRole := by
  simp [State.condRole]
@[simp] theorem State.begin_node_live (s : State) (p : Part) (r seq : Nat) (q : Part) : ((s.begin_ p r seq).node q).live = (s.node q).live :=
  s.node_modNode_proj _ _ _ (·.live) fun _ => rfl
@[simp] theorem State.begin_tsu_live (s : State) (p : Part) (r seq : Nat) : (s.begin_ p r seq).tsu.live = s.tsu.live :=
  s.begin_node_live p r seq .tsu
@[simp] theorem State.begin_dbx_live (s : State) (p : Part) (r seq : Nat) : (s.begin_ p r seq).dbx.live = s.dbx.live :=
  s.begin_node_live p r seq .dbx
@[simp] theorem State.begin_node_lfn (s : State) (p : Part) (r seq : Nat) (q : Part) : ((s.begin_ p r seq).node q).lfn = (s.node q).lfn :=
  s.node_modNode_proj _ _ _ (·.lfn) fun _ => rfl
@[simp] theorem State.begin_tsu_lfn (s : State) (p : Part) (r seq : Nat) : (s.begin_ p r seq).tsu.lfn = s.tsu.lfn :=
  s.begin_node_lfn p r seq .tsu
@[simp] theorem State.begin_dbx_lfn (s : State) (p : Part) (r seq : Nat) : (s.begin_ p r seq).dbx.lfn = s.dbx.lfn :=
  s.begin_node_lfn p r seq .dbx
@[simp] theorem State.begin_node_sub (s : State) (p : Part) (r seq : Nat) (q : Part) : ((s.begin_ p r seq).node q).sub = (s.node q).sub :=
  s.node_modNode_proj _ _ _ (·.sub) fun _ => rfl
@[simp] theorem State.begin_tsu_sub (s : State) (p : Part) (r seq : Nat) : (s.begin_ p r seq).tsu.sub = s.tsu.sub :=
  s.begin_node_sub p r seq .tsu
@[simp] theorem State.begin_dbx_sub (s : State) (p : Part) (r seq : Nat) : (s.begin_ p r seq).dbx.sub = s.dbx.sub :=
  s.begin_node_sub p r seq .dbx
@[simp] theorem State.begin_node_frac (s : State) (p : Part) (r seq : Nat) (q : Part) : ((s.begin_ p r seq).node q).frac = (s.node q).frac :=
  s.node_modNode_proj _ _ _ (·.frac) fun _ => rfl
@[simp] theorem State.begin_tsu_frac (s : State) (p : Part) (r seq : Nat) : (s.begin_ p r seq).tsu.frac = s.tsu.frac :=
  s.begin_node_frac p r seq .tsu
@[simp] theorem State.begin_dbx_frac (s : State) (p : Part) (r seq : Nat) : (s.begin_ p r seq).dbx.frac = s.dbx.frac :=
  s.begin_node_frac p r seq .dbx
@[simp] theorem State.begin_node_labelled (s : State) (p : Part) (r seq : Nat) (q : Part) : ((s.begin_ p r seq).node q).labelled = (s.node q).labelled :=
  s.node_modNode_proj _ _ _ (·.labelled) fun _ => rfl
@[simp] theorem State.begin_tsu_labelled (s : State) (p : Part) (r seq : Nat) : (s.begin_ p r seq).tsu.labelled = s.tsu.labelled :=
  s.begin_node_labelled p r seq .tsu
@[simp] theorem State.begin_dbx_labelled (s : State) (p : Part) (r seq : Nat) : (s.begin_ p r seq).dbx.labelled = s.dbx.labelled :=
  s.begin_node_labelled p r seq .dbx
@[simp] theorem State.begin_node_origin (s : State) (p : Part) (r seq : Nat) (q : Part) : ((s.begin_ p r seq).node q).origin = (s.node q).origin :=
  s.node_modNode_proj _ _ _ (·.origin) fun _ => rfl
@[simp] theorem State.begin_tsu_origin (s : State) (p : Part) (r seq : Nat) : (s.begin_ p r seq).tsu.origin = s.tsu.origin :=
  s.begin_node_origin p r seq .tsu
@[simp] theorem State.begin_dbx_origin (s : State) (p : Part) (r seq : Nat) : (s.begin_ p r seq).dbx.origin = s.dbx.origin :=
  s.begin_node_origin p r seq .dbx
@[simp] theorem State.begin_node_jumpTo (s : State) (p : Part) (r seq : Nat) (q : Part) : ((s.begin_ p r seq).node q).jumpTo = (s.node q).jumpTo :=
  s.node_modNode_proj _ _ _ (·.jumpTo) fun _ => rfl
@[simp] theorem State.begin_tsu_jumpTo (s : State) (p : Part) (r seq : Nat) : (s.begin_ p r seq).tsu.jumpTo = s.tsu.jumpTo :=
  s.begin_node_jumpTo p r seq .tsu
@[simp] theorem State.begin_dbx_jumpTo (s : State) (p : Part) (r seq : Nat) : (s.begin_ p r seq).dbx.jumpTo = s.dbx.jumpTo :=
  s.begin_node_jumpTo p r seq .dbx
@[simp] theorem State.begin_node_frozen (s : State) (p : Part) (r seq : Nat) (q : Part) : ((s.begin_ p r seq).node q).frozen = (s.node q).frozen :=
  s.node_modNode_proj _ _ _ (·.frozen) fun _ => rfl
@[simp] theorem State.begin_tsu_frozen (s : State) (p : Part) (r seq : Nat) : (s.begin_ p r seq).tsu.frozen = s.tsu.frozen :=
  s.begin_node_frozen p r seq .tsu
@[simp] theorem State.begin_dbx_frozen (s : State) (p : Part) (r seq : Nat) : (s.begin_ p r seq).dbx.frozen = s.dbx.frozen :=
  s.begin_node_frozen p r seq .dbx
@[simp] theorem State.begin_node_fromHold (s : State) (p : Part) (r seq : Nat) (q : Part) : ((s.begin_ p r seq).node q).fromHold = (s.node q).fromHold :=
  s.node_modNode_proj _ _ _ (·.fromHold) fun _ => rfl
@[simp] theorem State.begin_tsu_fromHold (s : State) (p : Part) (r seq : Nat) : (s.begin_ p r seq).tsu.fromHold = s.tsu.fromHold :=
  s.begin_node_fromHold p r seq .tsu
@[simp] theorem State.begin_dbx_fromHold (s : State) (p : Part) (r seq : Nat) : (s.begin_ p r seq).dbx.fromHold = s.dbx.fromHold :=
  s.begin_node_fromHold p r seq .dbx
@[simp] theorem State.begin_node_civSec (s : State) (p : Part) (r seq : Nat) (q : Part) : ((s.begin_ p r seq).node q).civSec = (s.node q).civSec :=
  s.node_modNode_proj _ _ _ (·.civSec) fun _ => rfl
@[simp] theorem State.begin_tsu_civSec (s : State) (p : Part) (r seq : Nat) : (s.begin_ p r seq).tsu.civSec = s.tsu.civSec :=
  s.begin_node_civSec p r seq .tsu
@[simp] theorem State.begin_dbx_civSec (s : State) (p : Part) (r seq : Nat) : (s.begin_ p r seq).dbx.civSec = s.dbx.civSec :=
  s.begin_node_civSec p r seq .dbx
@[simp] theorem State.begin_node_civFrac (s : State) (p : Part) (r seq : Nat) (q : Part) : ((s.begin_ p r seq).node q).civFrac = (s.node q).civFrac :=
  s.node_modNode_proj _ _ _ (·.civFrac) fun _ => rfl
@[simp] theorem State.begin_tsu_civFrac (s : State) (p : Part) (r seq : Nat) : (s.begin_ p r seq).tsu.civFrac = s.tsu.civFrac :=
  s.begin_node_civFrac p r seq .tsu
@[simp] theorem State.begin_dbx_civFrac (s : State) (p : Part) (r seq : Nat) : (s.begin_ p r seq).dbx.civFrac = s.dbx.civFrac :=
  s.begin_node_civFrac p r seq .dbx
@[simp] theorem State.begin_node_civInc (s : State) (p : Part) (r seq : Nat) (q : Part) : ((s.begin_ p r seq).node q).civInc = (s.node q).civInc :=
  s.node_modNode_proj _ _ _ (·.civInc) fun _ => rfl
@[simp] theorem State.begin_tsu_civInc (s : State) (p : Part) (r seq : Nat) : (s.begin_ p r seq).tsu.civInc = s.tsu.civInc :=
  s.begin_node_civInc p r seq .tsu
@[simp] theorem State.begin_dbx_civInc (s : State) (p : Part) (r seq : Nat) : (s.begin_ p r seq).dbx.civInc = s.dbx.civInc :=
  s.begin_node_civInc p r seq .dbx
@[simp] theorem State.begin_node_civHold (s : State) (p : Part) (r seq : Nat) (q : Part) : ((s.begin_ p r seq).node q).civHold = (s.node q).civHold :=
  s.node_modNode_proj _ _ _ (·.civHold) fun _ => rfl
@[simp] theorem State.begin_tsu_civHold (s : State) (p : Part) (r seq : Nat) : (s.begin_ p r seq).tsu.civHold = s.tsu.civHold :=
  s.begin_node_civHold p r seq .tsu
@[simp] theorem State.begin_dbx_civHold (s : State) (p : Part) (r seq : Nat) : (s.begin_ p r seq).dbx.civHold = s.dbx.civHold :=
  s.begin_node_civHold p r seq .dbx
@[simp] theorem State.begin_node_civLast (s : State) (p : Part) (r seq : Nat) (q : Part) : ((s.begin_ p r seq).node q).civLast = (s.node q).civLast :=
  s.node_modNode_proj _ _ _ (·.civLast) fun _ => rfl
@[simp] theorem State.begin_tsu_civLast (s : State) (p : Part) (r seq : Nat) : (s.begin_ p r seq).tsu.civLast = s.tsu.civLast :=
  s.begin_node_civLast p r seq .tsu
@[simp] theorem State.begin_dbx_civLast (s : State) (p : Part) (r seq : Nat) : (s.begin_ p r seq).dbx.civLast = s.dbx.civLast :=
  s.begin_node_civLast p r seq .dbx
@[simp] theorem State.begin_node_regs (s : State) (p : Part) (r seq : Nat) (q : Part) : ((s.begin_ p r seq).node q).regs = (s.node q).regs :=
  s.node_modNode_proj _ _ _ (·.regs) fun _ => rfl
@[simp] theorem State.begin_tsu_regs (s : State) (p : Part) (r seq : Nat) : (s.begin_ p r seq).tsu.regs = s.tsu.regs :=
  s.begin_node_regs p r seq .tsu
@[simp] theorem State.begin_dbx_regs (s : State) (p : Part) (r seq : Nat) : (s.begin_ p r seq).dbx.regs = s.dbx.regs :=
  s.begin_node_regs p r seq .dbx
@[simp] theorem State.begin_node_errlog (s : State) (p : Part) (r seq : Nat) (q : Part) : ((s.begin_ p r seq).node q).errlog = (s.node q).errlog :=
  s.node_modNode_proj _ _ _ (·.errlog) fun _ => rfl
@[simp] theorem State.begin_tsu_errlog (s : State) (p : Part) (r seq : Nat) : (s.begin_ p r seq).tsu.errlog = s.tsu.errlog :=
  s.begin_node_errlog p r seq .tsu
@[simp] theorem State.begin_dbx_errlog (s : State) (p : Part) (r seq : Nat) : (s.begin_ p r seq).dbx.errlog = s.dbx.errlog :=
  s.begin_node_errlog p r seq .dbx
@[simp] theorem State.begin_node_ports (s : State) (p : Part) (r seq : Nat) (q : Part) : ((s.begin_ p r seq).node q).ports = (s.node q).ports :=
  s.node_modNode_proj _ _ _ (·.ports) fun _ => rfl
@[simp] theorem State.begin_tsu_ports (s : State) (p : Part) (r seq : Nat) : (s.begin_ p r seq).tsu.ports = s.tsu.ports :=
  s.begin_node_ports p r seq .tsu
@[simp] theorem State.begin_dbx_ports (s : State) (p : Part) (r seq : Nat) : (s.begin_ p r seq).dbx.ports = s.dbx.ports :=
  s.begin_node_ports p r seq .dbx
@[simp] theorem State.begin_node_gens (s : State) (p : Part) (r seq : Nat) (q : Part) : ((s.begin_ p r seq).node q).gens = (s.node q).gens :=
  s.node_modNode_proj _ _ _ (·.gens) fun _ => rfl
@[simp] theorem State.begin_tsu_gens (s : State) (p : Part) (r seq : Nat) : (s.begin_ p r seq).tsu.gens = s.tsu.gens :=
  s.begin_node_gens p r seq .tsu
@[simp] theorem State.begin_dbx_gens (s : State) (p : Part) (r seq : Nat) : (s.begin_ p r seq).dbx.gens = s.dbx.gens :=
  s.begin_node_gens p r seq .dbx
@[simp] theorem State.begin_node_quar (s : State) (p : Part) (r seq : Nat) (q : Part) : ((s.begin_ p r seq).node q).quar = (s.node q).quar :=
  s.node_modNode_proj _ _ _ (·.quar) fun _ => rfl
@[simp] theorem State.begin_tsu_quar (s : State) (p : Part) (r seq : Nat) : (s.begin_ p r seq).tsu.quar = s.tsu.quar :=
  s.begin_node_quar p r seq .tsu
@[simp] theorem State.begin_dbx_quar (s : State) (p : Part) (r seq : Nat) : (s.begin_ p r seq).dbx.quar = s.dbx.quar :=
  s.begin_node_quar p r seq .dbx
@[simp] theorem State.begin_node_genDef (s : State) (p : Part) (r seq : Nat) (q : Part) : ((s.begin_ p r seq).node q).genDef = (s.node q).genDef :=
  s.node_modNode_proj _ _ _ (·.genDef) fun _ => rfl
@[simp] theorem State.begin_tsu_genDef (s : State) (p : Part) (r seq : Nat) : (s.begin_ p r seq).tsu.genDef = s.tsu.genDef :=
  s.begin_node_genDef p r seq .tsu
@[simp] theorem State.begin_dbx_genDef (s : State) (p : Part) (r seq : Nat) : (s.begin_ p r seq).dbx.genDef = s.dbx.genDef :=
  s.begin_node_genDef p r seq .dbx
@[simp] theorem State.begin_node_quarAll (s : State) (p : Part) (r seq : Nat) (q : Part) : ((s.begin_ p r seq).node q).quarAll = (s.node q).quarAll :=
  s.node_modNode_proj _ _ _ (·.quarAll) fun _ => rfl
@[simp] theorem State.begin_tsu_quarAll (s : State) (p : Part) (r seq : Nat) : (s.begin_ p r seq).tsu.quarAll = s.tsu.quarAll :=
  s.begin_node_quarAll p r seq .tsu
@[simp] theorem State.begin_dbx_quarAll (s : State) (p : Part) (r seq : Nat) : (s.begin_ p r seq).dbx.quarAll = s.dbx.quarAll :=
  s.begin_node_quarAll p r seq .dbx
@[simp] theorem State.begin_node_msix (s : State) (p : Part) (r seq : Nat) (q : Part) : ((s.begin_ p r seq).node q).msix = (s.node q).msix :=
  s.node_modNode_proj _ _ _ (·.msix) fun _ => rfl
@[simp] theorem State.begin_tsu_msix (s : State) (p : Part) (r seq : Nat) : (s.begin_ p r seq).tsu.msix = s.tsu.msix :=
  s.begin_node_msix p r seq .tsu
@[simp] theorem State.begin_dbx_msix (s : State) (p : Part) (r seq : Nat) : (s.begin_ p r seq).dbx.msix = s.dbx.msix :=
  s.begin_node_msix p r seq .dbx
@[simp] theorem State.begin_node_staged (s : State) (p : Part) (r seq : Nat) (q : Part) : ((s.begin_ p r seq).node q).staged = (s.node q).staged :=
  s.node_modNode_proj _ _ _ (·.staged) fun _ => rfl
@[simp] theorem State.begin_tsu_staged (s : State) (p : Part) (r seq : Nat) : (s.begin_ p r seq).tsu.staged = s.tsu.staged :=
  s.begin_node_staged p r seq .tsu
@[simp] theorem State.begin_dbx_staged (s : State) (p : Part) (r seq : Nat) : (s.begin_ p r seq).dbx.staged = s.dbx.staged :=
  s.begin_node_staged p r seq .dbx
@[simp] theorem State.begin_node_images (s : State) (p : Part) (r seq : Nat) (q : Part) : ((s.begin_ p r seq).node q).images = (s.node q).images :=
  s.node_modNode_proj _ _ _ (·.images) fun _ => rfl
@[simp] theorem State.begin_tsu_images (s : State) (p : Part) (r seq : Nat) : (s.begin_ p r seq).tsu.images = s.tsu.images :=
  s.begin_node_images p r seq .tsu
@[simp] theorem State.begin_dbx_images (s : State) (p : Part) (r seq : Nat) : (s.begin_ p r seq).dbx.images = s.dbx.images :=
  s.begin_node_images p r seq .dbx
@[simp] theorem State.begin_node_out (s : State) (p : Part) (r seq : Nat) (q : Part) : ((s.begin_ p r seq).node q).out = (s.node q).out :=
  s.node_modNode_proj _ _ _ (·.out) fun _ => rfl
@[simp] theorem State.begin_tsu_out (s : State) (p : Part) (r seq : Nat) : (s.begin_ p r seq).tsu.out = s.tsu.out :=
  s.begin_node_out p r seq .tsu
@[simp] theorem State.begin_dbx_out (s : State) (p : Part) (r seq : Nat) : (s.begin_ p r seq).dbx.out = s.dbx.out :=
  s.begin_node_out p r seq .dbx
@[simp] theorem State.begin_node_scrub (s : State) (p : Part) (r seq : Nat) (q : Part) : ((s.begin_ p r seq).node q).scrub = (s.node q).scrub :=
  s.node_modNode_proj _ _ _ (·.scrub) fun _ => rfl
@[simp] theorem State.begin_tsu_scrub (s : State) (p : Part) (r seq : Nat) : (s.begin_ p r seq).tsu.scrub = s.tsu.scrub :=
  s.begin_node_scrub p r seq .tsu
@[simp] theorem State.begin_dbx_scrub (s : State) (p : Part) (r seq : Nat) : (s.begin_ p r seq).dbx.scrub = s.dbx.scrub :=
  s.begin_node_scrub p r seq .dbx
@[simp] theorem State.begin_node_bindings (s : State) (p : Part) (r seq : Nat) (q : Part) : ((s.begin_ p r seq).node q).bindings = (s.node q).bindings :=
  s.node_modNode_proj _ _ _ (·.bindings) fun _ => rfl
@[simp] theorem State.begin_tsu_bindings (s : State) (p : Part) (r seq : Nat) : (s.begin_ p r seq).tsu.bindings = s.tsu.bindings :=
  s.begin_node_bindings p r seq .tsu
@[simp] theorem State.begin_dbx_bindings (s : State) (p : Part) (r seq : Nat) : (s.begin_ p r seq).dbx.bindings = s.dbx.bindings :=
  s.begin_node_bindings p r seq .dbx
@[simp] theorem State.begin_node_claimed (s : State) (p : Part) (r seq : Nat) (q : Part) : ((s.begin_ p r seq).node q).claimed = (s.node q).claimed :=
  s.node_modNode_proj _ _ _ (·.claimed) fun _ => rfl
@[simp] theorem State.begin_tsu_claimed (s : State) (p : Part) (r seq : Nat) : (s.begin_ p r seq).tsu.claimed = s.tsu.claimed :=
  s.begin_node_claimed p r seq .tsu
@[simp] theorem State.begin_dbx_claimed (s : State) (p : Part) (r seq : Nat) : (s.begin_ p r seq).dbx.claimed = s.dbx.claimed :=
  s.begin_node_claimed p r seq .dbx
@[simp] theorem State.begin_node_sessions (s : State) (p : Part) (r seq : Nat) (q : Part) : ((s.begin_ p r seq).node q).sessions = (s.node q).sessions :=
  s.node_modNode_proj _ _ _ (·.sessions) fun _ => rfl
@[simp] theorem State.begin_tsu_sessions (s : State) (p : Part) (r seq : Nat) : (s.begin_ p r seq).tsu.sessions = s.tsu.sessions :=
  s.begin_node_sessions p r seq .tsu
@[simp] theorem State.begin_dbx_sessions (s : State) (p : Part) (r seq : Nat) : (s.begin_ p r seq).dbx.sessions = s.dbx.sessions :=
  s.begin_node_sessions p r seq .dbx
@[simp] theorem State.begin_node_starts (s : State) (p : Part) (r seq : Nat) (q : Part) : ((s.begin_ p r seq).node q).starts = (s.node q).starts :=
  s.node_modNode_proj _ _ _ (·.starts) fun _ => rfl
@[simp] theorem State.begin_tsu_starts (s : State) (p : Part) (r seq : Nat) : (s.begin_ p r seq).tsu.starts = s.tsu.starts :=
  s.begin_node_starts p r seq .tsu
@[simp] theorem State.begin_dbx_starts (s : State) (p : Part) (r seq : Nat) : (s.begin_ p r seq).dbx.starts = s.dbx.starts :=
  s.begin_node_starts p r seq .dbx

/-- What the end of a descriptor does: it leaves the list, a status other than 0 counts, and its completion is written
unless it has been discarded. -/
theorem State.finish_some {s : State} {p : Part} {r seq : Nat} {f : InFlight} (h : s.inFlight p r seq = some f)
    (status q2 aux : Nat) :
    s.finish p r seq status q2 aux =
      (let s1 := s.modRing p r fun t => { t with flight := t.flight.filter fun g => g.seq != seq }
       let s2 := if status = 0 then s1 else s1.bump (F.descRefusedCount p)
       if ringCount p ≤ r then s1
       else if f.mute then s2 else s2.completeAfter p r seq (descCompletion f.desc (seq % 2 ^ 64) status q2 aux)) := by
  simp only [State.finish, h]

/-- Nothing ends where nothing is in flight. -/
theorem State.finish_none {s : State} {p : Part} {r seq : Nat} (h : s.inFlight p r seq = none) (status q2 aux : Nat) :
    s.finish p r seq status q2 aux = s := by simp [State.finish, h]

/-! ### Counters -/

/-- A counter reads one more after a bump, up to its greatest value. -/
theorem State.rd_bump (s : State) (f : Fld) (i k : Nat) : (s.bump f i k).rd f i = min (s.rd f i + k) (2 ^ f.width - 1) := by
  have h : 0 < 2 ^ f.width := Nat.two_pow_pos _
  rw [State.bump, State.rd_wr_self, satN, Nat.mod_eq_of_lt (by omega)]

/-! ### Plan words -/

/-- A word that is ready, reads no register that a REDUCE will still write and is not held takes its effect and counts. -/
theorem State.withWord_ready {s : State} {ch op : Nat} {c : CondChan} {q : Plan} {w : Nat} (h : WordAt s ch op c q w)
    {reads : Nat → List Nat} {block : State → CondChan → Nat → Option (Nat × WaitFor)} {f : CondChan → Plan → Nat → State → State}
    (hr : (reads w).any (fun g => c.outst.any fun x => x.2 == g) = false) (hb : block s c w = none) :
    s.withWord ch op reads block f = f c q w (s.countWord ch c) := by
  obtain ⟨h1, h2, h3, h4, h6, h7, h8, h9, h10, h11, h12⟩ := h
  have e : ¬ q.wordsMp ≤ s.wordsUsed c.r.plan := by omega
  simp only [State.withWord, h2, h3, h4, h6, h7, hb, hr, h10, h11, h12]
  simp [h1, h8, e]

/-- A word that something else holds waits for it. -/
theorem State.withWord_held {s : State} {ch op : Nat} {c : CondChan} {q : Plan} {w : Nat} (h : WordAt s ch op c q w)
    {reads : Nat → List Nat} {block : State → CondChan → Nat → Option (Nat × WaitFor)} {f : CondChan → Plan → Nat → State → State}
    {e : Nat} {t : WaitFor} (hr : (reads w).any (fun g => c.outst.any fun x => x.2 == g) = false) (hb : block s c w = some (e, t)) :
    s.withWord ch op reads block f = s.holdCh ch e t := by
  obtain ⟨h1, h2, h3, h4, h6, h7, h8, h9, h10, h11, h12⟩ := h
  have e : ¬ q.wordsMp ≤ s.wordsUsed c.r.plan := by omega
  simp only [State.withWord, h2, h3, h4, h6, h7, hb, hr, h10, h11, h12]
  simp [h1, h8, e]

/-- A word of a plan whose meter is used up waits for the next map period. -/
theorem State.withWord_metered {s : State} {ch op : Nat} {c : CondChan} {q : Plan} {w : Nat} (h1 : s.condRole ≠ 3)
    (h2 : s.chan ch = some c) (h3 : chanReady c = true) (h4 : s.turn ch c = true) (h6 : s.planOf c = some q)
    (h7 : q.word c.r.variant c.r.pc = some w) (h8 : bits w 56 8 = op) (h9 : q.wordsMp ≤ s.wordsUsed c.r.plan)
    (h10 : s.d.badRecs.contains ch = false) (h11 : s.d.foundRecs.contains ch = false)
    (h12 : s.d.badWords.contains (c.r.plan, c.r.variant, c.r.pc) = false)
    (reads : Nat → List Nat) (block : State → CondChan → Nat → Option (Nat × WaitFor))
    (f : CondChan → Plan → Nat → State → State) :
    s.withWord ch op reads block f = (s.holdCh ch 2 .meter).bump F.condMeterWaitCount := by
  simp only [State.withWord, h2, h3, h4, h6, h7, h10, h11, h12]
  simp [h1, h8, h9]

end Sys2Proof.Machine
end

