-- ==== Sys2Proof/Laws/PerInstr.lean ====
section
/-! SUPPORT. A fact for each command: a well-formed one names only a port or a ring pair that its part has. -/

namespace Sys2Proof

/-- The port (with true) or the ring pair (with false) that a command names, and the part it is of. -/
def Instr.endpoint : Instr → Option (Part × Nat × Bool)
  | .echoBlockReceived p port _ _ _ _ => some (p, port, true)
  | .echoReplyReceived p port _ _ _ => some (p, port, true)
  | .acquireStart p port => some (p, port, true)
  | .parentTimeLoss p port _ => some (p, port, true)
  | .trackingSetComplete p port => some (p, port, true)
  | .tdcSelfTest p port _ _ _ => some (p, port, true)
  | .closePageReceived p port _ _ _ _ => some (p, port, true)
  | .blockLockGained p port _ => some (p, port, true)
  | .blockLockLost p port _ => some (p, port, true)
  | .linkFrameReceived p port _ => some (p, port, true)
  | .nakReceived p port _ _ => some (p, port, true)
  | .nakRepeat p port _ => some (p, port, true)
  | .portDark p port => some (p, port, true)
  | .trainingTimeout p port => some (p, port, true)
  | .portEnable p port _ => some (p, port, true)
  | .portIsolate p port _ => some (p, port, true)
  | .portLoopback p port _ => some (p, port, true)
  | .dropLane p port _ _ => some (p, port, true)
  | .unpin p port => some (p, port, true)
  | .degradeRequestReceived p port _ => some (p, port, true)
  | .layoutSwitch p port => some (p, port, true)
  | .degradedQueueDrop p port => some (p, port, true)
  | .laneRestoreRequest p port _ => some (p, port, true)
  | .linkEpochExchangeStart p port => some (p, port, true)
  | .keyRatchet p port => some (p, port, true)
  | .epochBoundary p port => some (p, port, true)
  | .linkCert p port _ => some (p, port, true)
  | .linkShare p port _ _ _ => some (p, port, true)
  | .linkSig p port _ => some (p, port, true)
  | .linkConfirm p port _ => some (p, port, true)
  | .crozierReceived port _ _ => some (.dbx, port, true)
  | .crozierAdmission port _ _ => some (.tsu, port, true)
  | .ringEnable p ring => some (p, ring, false)
  | .ringDisable p ring => some (p, ring, false)
  | .sqTailWrite p ring _ => some (p, ring, false)
  | .cqHeadWrite p ring _ => some (p, ring, false)
  | .completionWrite p ring => some (p, ring, false)
  | .descriptorFetch p ring _ => some (p, ring, false)
  | .msixModeration p ring => some (p, ring, false)
  | .bringupStepLimit p _ _ port => some (p, port, true)
  | .layoutReport _ _ port _ _ => some (.dbx, port, true)
  | _ => none

end Sys2Proof

namespace Sys2Proof.Laws.EndpointExists

/-- A well-formed command names only ports and ring pairs of its part (R1, R107, R195). -/
def Statement (i : Instr) : Prop :=
  ∀ (p : Part) (n : Nat) (port : Bool), i.endpoint = some (p, n, port) → i.wf = true →
    match port with
    | true => okPort p n = true
    | false => okRing p n = true

/-- The right of a conjunction. -/
theorem right {a b : Bool} (h : (a && b) = true) : b = true := by
  cases a with
  | true => exact h
  | false => cases h

/-- The left of a conjunction. -/
theorem left {a b : Bool} (h : (a && b) = true) : a = true := by
  cases a with
  | true => rfl
  | false => exact h

theorem registerWrite (p : Part) (off : Nat) (v : Word) (whole : Bool) (rot : Bool) : Statement (.registerWrite p off v whole rot) := fun _ _ _ h => by
  cases h
theorem lfnLoRead (p : Part) (sub : Nat) : Statement (.lfnLoRead p sub) := fun _ _ _ h => by
  cases h
theorem setupLockSet (p : Part) (v : Word) : Statement (.setupLockSet p v) := fun _ _ _ h => by
  cases h
theorem errlogPop (p : Part) : Statement (.errlogPop p) := fun _ _ _ h => by
  cases h
theorem linkFrameStart (p : Part) : Statement (.linkFrameStart p) := fun _ _ _ h => by
  cases h
theorem echoBlockReceived (p : Part) (port : Nat) (t1 : Nat) (t2 : Nat) (t3 : Nat) (t4 : Nat) : Statement (.echoBlockReceived p port t1 t2 t3 t4) := fun _ _ _ h hw => by
  cases h
  exact (left (left (left (left hw))))
theorem echoReplyReceived (p : Part) (port : Nat) (t1 : Nat) (turn : Nat) (t4 : Nat) : Statement (.echoReplyReceived p port t1 turn t4) := fun _ _ _ h hw => by
  cases h
  exact (left (left (left hw)))
theorem timeRead (p : Part) (ring : Nat) (seq : Nat) (sub : Nat) : Statement (.timeRead p ring seq sub) := fun _ _ _ h => by
  cases h
theorem acquireStart (p : Part) (port : Nat) : Statement (.acquireStart p port) := fun _ _ _ h hw => by
  cases h
  exact hw
theorem acqSet1Complete (p : Part) : Statement (.acqSet1Complete p) := fun _ _ _ h => by
  cases h
theorem acqSet2Complete (p : Part) : Statement (.acqSet2Complete p) := fun _ _ _ h => by
  cases h
theorem parentTimeLoss (p : Part) (port : Nat) (psi : Nat) : Statement (.parentTimeLoss p port psi) := fun _ _ _ h hw => by
  cases h
  exact (left hw)
theorem timePortReturn (p : Part) (psi : Nat) : Statement (.timePortReturn p psi) := fun _ _ _ h => by
  cases h
theorem trackingSetComplete (p : Part) (port : Nat) : Statement (.trackingSetComplete p port) := fun _ _ _ h hw => by
  cases h
  exact hw
theorem frameTick (lvlReq : List Nat) : Statement (.frameTick lvlReq) := fun _ _ _ h => by
  cases h
theorem regionRemeasure (region : Nat) (roundTrip : Nat) : Statement (.regionRemeasure region roundTrip) := fun _ _ _ h => by
  cases h
theorem lfnMarker : Statement (.lfnMarker) := fun _ _ _ h => by
  cases h
theorem civilBroadcast : Statement (.civilBroadcast) := fun _ _ _ h => by
  cases h
theorem civilPageReceived (p : Part) (apply : Nat) (sec : Nat) (frac : Nat) (inc : Nat) (civilState : Nat) : Statement (.civilPageReceived p apply sec frac inc civilState) := fun _ _ _ h => by
  cases h
theorem civilApply (p : Part) : Statement (.civilApply p) := fun _ _ _ h => by
  cases h
theorem civilTimeout (p : Part) : Statement (.civilTimeout p) := fun _ _ _ h => by
  cases h
theorem civilSet (ring : Nat) (seq : Nat) : Statement (.civilSet ring seq) := fun _ _ _ h => by
  cases h
theorem tdcStart (p : Part) (v : Word) : Statement (.tdcStart p v) := fun _ _ _ h => by
  cases h
theorem tdcAttemptTimeout (p : Part) : Statement (.tdcAttemptTimeout p) := fun _ _ _ h => by
  cases h
theorem measurementSetComplete (p : Part) : Statement (.measurementSetComplete p) := fun _ _ _ h => by
  cases h
theorem tdcSelfTest (p : Part) (port : Nat) (a1 : List (Option Nat)) (a2 : List (Option Nat)) (a3 : List (Option Nat)) : Statement (.tdcSelfTest p port a1 a2 a3) := fun _ _ _ h hw => by
  cases h
  exact (left (left (left (left hw))))
theorem closePageReceived (p : Part) (port : Nat) (p0 : Nat) (p1 : Nat) (p2 : Nat) (p3 : Nat) : Statement (.closePageReceived p port p0 p1 p2 p3) := fun _ _ _ h hw => by
  cases h
  exact (left (left (left (left hw))))
theorem closureRun (v : Word) : Statement (.closureRun v) := fun _ _ _ h => by
  cases h
theorem closurePeriodic : Statement (.closurePeriodic) := fun _ _ _ h => by
  cases h
theorem refLos (i : Nat) (delta : Int) : Statement (.refLos i delta) := fun _ _ _ h => by
  cases h
theorem refBlockLockReturn (i : Nat) : Statement (.refBlockLockReturn i) := fun _ _ _ h => by
  cases h
theorem esmcPdu (i : Nat) (event : Bool) (ssm : Nat) (freqOff : Int) (delta : Int) : Statement (.esmcPdu i event ssm freqOff delta) := fun _ _ _ h => by
  cases h
theorem qualifyTimeout (i : Nat) : Statement (.qualifyTimeout i) := fun _ _ _ h => by
  cases h
theorem esmcTimeout (i : Nat) (delta : Int) : Statement (.esmcTimeout i delta) := fun _ _ _ h => by
  cases h
theorem ocxoQualify (freqOff : Int) (delta : Int) : Statement (.ocxoQualify freqOff delta) := fun _ _ _ h => by
  cases h
theorem ocxoLos (delta : Int) : Statement (.ocxoLos delta) := fun _ _ _ h => by
  cases h
theorem frequencyError (i : Nat) (freqOff : Int) (delta : Int) : Statement (.frequencyError i freqOff delta) := fun _ _ _ h => by
  cases h
theorem prefWrite (v : Word) (delta : Int) : Statement (.prefWrite v delta) := fun _ _ _ h => by
  cases h
theorem stepNoticeReceived (p : Part) (delta : Int) (l0 : Nat) : Statement (.stepNoticeReceived p delta l0) := fun _ _ _ h => by
  cases h
theorem refStepClear (p : Part) (delta : Int) : Statement (.refStepClear p delta) := fun _ _ _ h => by
  cases h
theorem ocxoWarmChange (warm : Bool) : Statement (.ocxoWarmChange warm) := fun _ _ _ h => by
  cases h
theorem masterFailureJudged (delta : Int) : Statement (.masterFailureJudged delta) := fun _ _ _ h => by
  cases h
theorem ppsInEdge (i : Nat) (sub : Nat) : Statement (.ppsInEdge i sub) := fun _ _ _ h => by
  cases h
theorem anchorStale (k : Nat) : Statement (.anchorStale k) := fun _ _ _ h => by
  cases h
theorem outputEdge (k : Nat) (sub : Nat) : Statement (.outputEdge k sub) := fun _ _ _ h => by
  cases h
theorem esmcTransmit : Statement (.esmcTransmit) := fun _ _ _ h => by
  cases h
theorem blockLockGained (p : Part) (port : Nat) (lane : LaneHeaders) : Statement (.blockLockGained p port lane) := fun _ _ _ h hw => by
  cases h
  exact (left hw)
theorem blockLockLost (p : Part) (port : Nat) (lane : LaneHeaders) : Statement (.blockLockLost p port lane) := fun _ _ _ h hw => by
  cases h
  exact (left hw)
theorem linkFrameReceived (p : Part) (port : Nat) (frame : LinkFrame) : Statement (.linkFrameReceived p port frame) := fun _ _ _ h hw => by
  cases h
  exact (left hw)
theorem nakReceived (p : Part) (port : Nat) (lfnLow : Nat) (mask : Nat) : Statement (.nakReceived p port lfnLow mask) := fun _ _ _ h hw => by
  cases h
  exact (left (left hw))
theorem nakRepeat (p : Part) (port : Nat) (label : Nat) : Statement (.nakRepeat p port label) := fun _ _ _ h hw => by
  cases h
  exact (left hw)
theorem portDark (p : Part) (port : Nat) : Statement (.portDark p port) := fun _ _ _ h hw => by
  cases h
  exact hw
theorem trainingTimeout (p : Part) (port : Nat) : Statement (.trainingTimeout p port) := fun _ _ _ h hw => by
  cases h
  exact hw
theorem portEnable (p : Part) (port : Nat) (on : Bool) : Statement (.portEnable p port on) := fun _ _ _ h hw => by
  cases h
  exact hw
theorem portIsolate (p : Part) (port : Nat) (on : Bool) : Statement (.portIsolate p port on) := fun _ _ _ h hw => by
  cases h
  exact hw
theorem portLoopback (p : Part) (port : Nat) (mode : Nat) : Statement (.portLoopback p port mode) := fun _ _ _ h hw => by
  cases h
  exact (left hw)
theorem dropLane (p : Part) (port : Nat) (lane : Nat) (on : Bool) : Statement (.dropLane p port lane on) := fun _ _ _ h hw => by
  cases h
  exact (left hw)
theorem unpin (p : Part) (port : Nat) : Statement (.unpin p port) := fun _ _ _ h hw => by
  cases h
  exact hw
theorem degradeRequestReceived (p : Part) (port : Nat) (want : Nat) : Statement (.degradeRequestReceived p port want) := fun _ _ _ h hw => by
  cases h
  exact (left hw)
theorem layoutSwitch (p : Part) (port : Nat) : Statement (.layoutSwitch p port) := fun _ _ _ h hw => by
  cases h
  exact hw
theorem degradedQueueDrop (p : Part) (port : Nat) : Statement (.degradedQueueDrop p port) := fun _ _ _ h hw => by
  cases h
  exact hw
theorem laneRestoreRequest (p : Part) (port : Nat) (lane : Nat) : Statement (.laneRestoreRequest p port lane) := fun _ _ _ h hw => by
  cases h
  exact (left hw)
theorem linkEpochExchangeStart (p : Part) (port : Nat) : Statement (.linkEpochExchangeStart p port) := fun _ _ _ h hw => by
  cases h
  exact hw
theorem keyRatchet (p : Part) (port : Nat) : Statement (.keyRatchet p port) := fun _ _ _ h hw => by
  cases h
  exact hw
theorem epochBoundary (p : Part) (port : Nat) : Statement (.epochBoundary p port) := fun _ _ _ h hw => by
  cases h
  exact hw
theorem linkCert (p : Part) (port : Nat) (cert : PeerCert) : Statement (.linkCert p port cert) := fun _ _ _ h hw => by
  cases h
  exact (left hw)
theorem linkShare (p : Part) (port : Nat) (epoch : Nat) (nonce : Nat) (pub : Nat) : Statement (.linkShare p port epoch nonce pub) := fun _ _ _ h hw => by
  cases h
  exact (left (left (left hw)))
theorem linkSig (p : Part) (port : Nat) (sig : Nat) : Statement (.linkSig p port sig) := fun _ _ _ h hw => by
  cases h
  exact (left hw)
theorem linkConfirm (p : Part) (port : Nat) (mac : Nat) : Statement (.linkConfirm p port mac) := fun _ _ _ h hw => by
  cases h
  exact (left hw)
theorem dynamicRecordReceived (p : Part) (rec_ : DynRec) : Statement (.dynamicRecordReceived p rec_) := fun _ _ _ h => by
  cases h
theorem elsSample (k : Nat) (bias0 : Option Nat) (bias1 : Nat) (pwr0 : Int) (pwr1 : Int) (rx : List (Nat × Int × Int)) : Statement (.elsSample k bias0 bias1 pwr0 pwr1 rx) := fun _ _ _ h => by
  cases h
theorem bolCapture (k : Nat) : Statement (.bolCapture k) := fun _ _ _ h => by
  cases h
theorem templateWrite (p : Part) (off : Nat) (v : Word) : Statement (.templateWrite p off v) := fun _ _ _ h => by
  cases h
theorem crozierReceived (port : Nat) (share : Nat) (cz : Crozier) : Statement (.crozierReceived port share cz) := fun _ _ _ h hw => by
  cases h
  exact (left (left hw))
theorem compareWindowExpiry : Statement (.compareWindowExpiry) := fun _ _ _ h => by
  cases h
theorem crozierAdmission (port : Nat) (cz : Crozier) (sub : Nat) : Statement (.crozierAdmission port cz sub) := fun _ _ _ h hw => by
  cases h
  exact (left (left hw))
theorem launchStage (entry : Nat) (fullRegions : List Nat) : Statement (.launchStage entry fullRegions) := fun _ _ _ h => by
  cases h
theorem launchFire (entry : Nat) : Statement (.launchFire entry) := fun _ _ _ h => by
  cases h
theorem armEntryFree (entry : Nat) : Statement (.armEntryFree entry) := fun _ _ _ h => by
  cases h
theorem retiredKeyExpiry : Statement (.retiredKeyExpiry) := fun _ _ _ h => by
  cases h
theorem abortAct : Statement (.abortAct) := fun _ _ _ h => by
  cases h
theorem tokenApply (entry : Nat) : Statement (.tokenApply entry) := fun _ _ _ h => by
  cases h
theorem epochApply (entry : Nat) : Statement (.epochApply entry) := fun _ _ _ h => by
  cases h
theorem timeEventFire (entry : Nat) : Statement (.timeEventFire entry) := fun _ _ _ h => by
  cases h
theorem frequencyCrozierFire (entry : Nat) (lvlReq : List Nat) : Statement (.frequencyCrozierFire entry lvlReq) := fun _ _ _ h => by
  cases h
theorem peristomePoll : Statement (.peristomePoll) := fun _ _ _ h => by
  cases h
theorem peristomeTimeout (index : Nat) : Statement (.peristomeTimeout index) := fun _ _ _ h => by
  cases h
theorem peristomeConfig (index : Nat) (source : Nat) (arg : Nat) : Statement (.peristomeConfig index source arg) := fun _ _ _ h => by
  cases h
theorem scopeTableLoad (tbl : ScopeTable) (pend : Bool) : Statement (.scopeTableLoad tbl pend) := fun _ _ _ h => by
  cases h
theorem tableWrite (v : Word) : Statement (.tableWrite v) := fun _ _ _ h => by
  cases h
theorem clrMargin (v : Word) : Statement (.clrMargin v) := fun _ _ _ h => by
  cases h
theorem planLoad (ring : Nat) (seq : Nat) : Statement (.planLoad ring seq) := fun _ _ _ h => by
  cases h
theorem planRetire (ring : Nat) (seq : Nat) : Statement (.planRetire ring seq) := fun _ _ _ h => by
  cases h
theorem storeReloadComplete (ch : Nat) : Statement (.storeReloadComplete ch) := fun _ _ _ h => by
  cases h
theorem launch (ch : Nat) : Statement (.launch ch) := fun _ _ _ h => by
  cases h
theorem waitc (ch : Nat) : Statement (.waitc ch) := fun _ _ _ h => by
  cases h
theorem reduce (ch : Nat) : Statement (.reduce ch) := fun _ _ _ h => by
  cases h
theorem sample (ch : Nat) : Statement (.sample ch) := fun _ _ _ h => by
  cases h
theorem accept (ch : Nat) : Statement (.accept ch) := fun _ _ _ h => by
  cases h
theorem branch (ch : Nat) : Statement (.branch ch) := fun _ _ _ h => by
  cases h
theorem loop (ch : Nat) : Statement (.loop ch) := fun _ _ _ h => by
  cases h
theorem peri (ch : Nat) : Statement (.peri ch) := fun _ _ _ h => by
  cases h
theorem epoch (ch : Nat) : Statement (.epoch ch) := fun _ _ _ h => by
  cases h
theorem swap (ch : Nat) : Statement (.swap ch) := fun _ _ _ h => by
  cases h
theorem swapAdvance (slot : Nat) : Statement (.swapAdvance slot) := fun _ _ _ h => by
  cases h
theorem variant (ch : Nat) : Statement (.variant ch) := fun _ _ _ h => by
  cases h
theorem digest (ch : Nat) : Statement (.digest ch) := fun _ _ _ h => by
  cases h
theorem post (ch : Nat) : Statement (.post ch) := fun _ _ _ h => by
  cases h
theorem halt (ch : Nat) : Statement (.halt ch) := fun _ _ _ h => by
  cases h
theorem crozierEmission (slot : Nat) : Statement (.crozierEmission slot) := fun _ _ _ h => by
  cases h
theorem meterPeriod : Statement (.meterPeriod) := fun _ _ _ h => by
  cases h
theorem waitcDeadline (ch : Nat) : Statement (.waitcDeadline ch) := fun _ _ _ h => by
  cases h
theorem inputCommit (id : Nat) : Statement (.inputCommit id) := fun _ _ _ h => by
  cases h
theorem commitNoticeReceived (k : InputKind) (commitLfn : Nat) : Statement (.commitNoticeReceived k commitLfn) := fun _ _ _ h => by
  cases h
theorem commitNoticeTimeout (id : Nat) : Statement (.commitNoticeTimeout id) := fun _ _ _ h => by
  cases h
theorem groupDigestCompare (twin : List Nat) (differing : List (Nat × List Nat)) (msg : TwinMsg) : Statement (.groupDigestCompare twin differing msg) := fun _ _ _ h => by
  cases h
theorem resyncCopyComplete (group : Nat) (records : List (Nat × CondChan)) : Statement (.resyncCopyComplete group records) := fun _ _ _ h => by
  cases h
theorem replayRestart (ch : Nat) : Statement (.replayRestart ch) := fun _ _ _ h => by
  cases h
theorem conductorTakeover : Statement (.conductorTakeover) := fun _ _ _ h => by
  cases h
theorem shadowCopyComplete (records : List (Nat × CondChan)) (images : List PlanCopy) : Statement (.shadowCopyComplete records images) := fun _ _ _ h => by
  cases h
theorem handback (v : Word) : Statement (.handback v) := fun _ _ _ h => by
  cases h
theorem chSelSnapshot (v : Word) : Statement (.chSelSnapshot v) := fun _ _ _ h => by
  cases h
theorem completionContribution (pos : Nat) (second : Bool) (c : CompContrib) : Statement (.completionContribution pos second c) := fun _ _ _ h => by
  cases h
theorem contributionWord (hdr : CtHdr) (data : List Byte) (last : Bool) : Statement (.contributionWord hdr data last) := fun _ _ _ h => by
  cases h
theorem partialReceived (port : Nat) (partition : Nat) (part : PPartial) : Statement (.partialReceived port partition part) := fun _ _ _ h => by
  cases h
theorem flushExpiry (key : Nat) : Statement (.flushExpiry key) := fun _ _ _ h => by
  cases h
theorem keyDeadline (key : Nat) : Statement (.keyDeadline key) := fun _ _ _ h => by
  cases h
theorem resultBroadcast (at_ : BcastAt) (hdr : PHdr) (body : List Byte) (nowSub : Nat) : Statement (.resultBroadcast at_ hdr body nowSub) := fun _ _ _ h => by
  cases h
theorem resultKeyExpiry : Statement (.resultKeyExpiry) := fun _ _ _ h => by
  cases h
theorem resultWait : Statement (.resultWait) := fun _ _ _ h => by
  cases h
theorem pass2Broadcast (at_ : BcastAt) (hdr : PHdr) (m : Nat) (s_ : Nat) (skip : Bool) : Statement (.pass2Broadcast at_ hdr m s_ skip) := fun _ _ _ h => by
  cases h
theorem logitRelease : Statement (.logitRelease) := fun _ _ _ h => by
  cases h
theorem kcgTest (v : Word) : Statement (.kcgTest v) := fun _ _ _ h => by
  cases h
theorem ringEnable (p : Part) (ring : Nat) : Statement (.ringEnable p ring) := fun _ _ _ h hw => by
  cases h
  exact hw
theorem ringDisable (p : Part) (ring : Nat) : Statement (.ringDisable p ring) := fun _ _ _ h hw => by
  cases h
  exact hw
theorem sqTailWrite (p : Part) (ring : Nat) (v : Word) : Statement (.sqTailWrite p ring v) := fun _ _ _ h hw => by
  cases h
  exact hw
theorem cqHeadWrite (p : Part) (ring : Nat) (v : Word) : Statement (.cqHeadWrite p ring v) := fun _ _ _ h hw => by
  cases h
  exact hw
theorem completionWrite (p : Part) (ring : Nat) : Statement (.completionWrite p ring) := fun _ _ _ h hw => by
  cases h
  exact hw
theorem descriptorFetch (p : Part) (ring : Nat) (d : Desc) : Statement (.descriptorFetch p ring d) := fun _ _ _ h hw => by
  cases h
  exact (left hw)
theorem nop (p : Part) (ring : Nat) (seq : Nat) : Statement (.nop p ring seq) := fun _ _ _ h => by
  cases h
theorem chCreate (p : Part) (ring : Nat) (seq : Nat) : Statement (.chCreate p ring seq) := fun _ _ _ h => by
  cases h
theorem chBind (p : Part) (ring : Nat) (seq : Nat) : Statement (.chBind p ring seq) := fun _ _ _ h => by
  cases h
theorem chArm (ring : Nat) (seq : Nat) : Statement (.chArm ring seq) := fun _ _ _ h => by
  cases h
theorem chPause (ring : Nat) (seq : Nat) : Statement (.chPause ring seq) := fun _ _ _ h => by
  cases h
theorem chResume (ring : Nat) (seq : Nat) : Statement (.chResume ring seq) := fun _ _ _ h => by
  cases h
theorem chDestroy (p : Part) (ring : Nat) (seq : Nat) : Statement (.chDestroy p ring seq) := fun _ _ _ h => by
  cases h
theorem manifest (ring : Nat) (seq : Nat) : Statement (.manifest ring seq) := fun _ _ _ h => by
  cases h
theorem epochSwap (ring : Nat) (seq : Nat) : Statement (.epochSwap ring seq) := fun _ _ _ h => by
  cases h
theorem digestRead (p : Part) (ring : Nat) (seq : Nat) : Statement (.digestRead p ring seq) := fun _ _ _ h => by
  cases h
theorem attest (p : Part) (ring : Nat) (seq : Nat) (req : Spdm) : Statement (.attest p ring seq req) := fun _ _ _ h => by
  cases h
theorem attestTimeout (ring : Nat) (seq : Nat) : Statement (.attestTimeout ring seq) := fun _ _ _ h => by
  cases h
theorem bindTenant (p : Part) (ring : Nat) (seq : Nat) (req : InstallReq) : Statement (.bindTenant p ring seq req) := fun _ _ _ h => by
  cases h
theorem bindManager (p : Part) (ring : Nat) (seq : Nat) (req : InstallReq) : Statement (.bindManager p ring seq req) := fun _ _ _ h => by
  cases h
theorem loadKey (p : Part) (ring : Nat) (seq : Nat) (req : InstallReq) : Statement (.loadKey p ring seq req) := fun _ _ _ h => by
  cases h
theorem scrub (p : Part) (ring : Nat) (seq : Nat) : Statement (.scrub p ring seq) := fun _ _ _ h => by
  cases h
theorem scrubRelay (slot : Nat) : Statement (.scrubRelay slot) := fun _ _ _ h => by
  cases h
theorem scrubEnd (p : Part) : Statement (.scrubEnd p) := fun _ _ _ h => by
  cases h
theorem healthBlockRead (p : Part) (ring : Nat) (seq : Nat) : Statement (.healthBlockRead p ring seq) := fun _ _ _ h => by
  cases h
theorem portHealthRead (ring : Nat) (seq : Nat) : Statement (.portHealthRead ring seq) := fun _ _ _ h => by
  cases h
theorem recordLogRead (ring : Nat) (seq : Nat) : Statement (.recordLogRead ring seq) := fun _ _ _ h => by
  cases h
theorem set (p : Part) (ring : Nat) (seq : Nat) : Statement (.set p ring seq) := fun _ _ _ h => by
  cases h
theorem insertBegin (ring : Nat) (seq : Nat) : Statement (.insertBegin ring seq) := fun _ _ _ h => by
  cases h
theorem lost (ring : Nat) (seq : Nat) : Statement (.lost ring seq) := fun _ _ _ h => by
  cases h
theorem release (ring : Nat) (seq : Nat) : Statement (.release ring seq) := fun _ _ _ h => by
  cases h
theorem roleLoaded (ring : Nat) (seq : Nat) : Statement (.roleLoaded ring seq) := fun _ _ _ h => by
  cases h
theorem msixModeration (p : Part) (ring : Nat) : Statement (.msixModeration p ring) := fun _ _ _ h hw => by
  cases h
  exact hw
theorem quarantineEnd (p : Part) (index : Nat) : Statement (.quarantineEnd p index) := fun _ _ _ h => by
  cases h
theorem destroyedEvent (index : Nat) : Statement (.destroyedEvent index) := fun _ _ _ h => by
  cases h
theorem tapWrite (tag : Nat) (addr : Nat) (words : List Nat) : Statement (.tapWrite tag addr words) := fun _ _ _ h => by
  cases h
theorem sorediumReceived (port : Nat) (partition : Nat) (s_ : Soredium) : Statement (.sorediumReceived port partition s_) := fun _ _ _ h => by
  cases h
theorem shardDeadline (layer : Nat) (shard : Nat) : Statement (.shardDeadline layer shard) := fun _ _ _ h => by
  cases h
theorem layerOpen (layer : Nat) : Statement (.layerOpen layer) := fun _ _ _ h => by
  cases h
theorem cmpReset (v : Word) : Statement (.cmpReset v) := fun _ _ _ h => by
  cases h
theorem cmpRstAckRise : Statement (.cmpRstAckRise) := fun _ _ _ h => by
  cases h
theorem cmpRstAckFall : Statement (.cmpRstAckFall) := fun _ _ _ h => by
  cases h
theorem killTimeout (target : Nat) (handle : Nat) : Statement (.killTimeout target handle) := fun _ _ _ h => by
  cases h
theorem dieReset : Statement (.dieReset) := fun _ _ _ h => by
  cases h
theorem distributorReset : Statement (.distributorReset) := fun _ _ _ h => by
  cases h
theorem distributorResetRelease (bootSrc : Nat) (smbAddr : Nat) : Statement (.distributorResetRelease bootSrc smbAddr) := fun _ _ _ h => by
  cases h
theorem restoreTimeout (ch : Nat) : Statement (.restoreTimeout ch) := fun _ _ _ h => by
  cases h
theorem waitGraphEvaluation : Statement (.waitGraphEvaluation) := fun _ _ _ h => by
  cases h
theorem waitQuery (partition : Nat) (handle : Nat) (step : Nat) : Statement (.waitQuery partition handle step) := fun _ _ _ h => by
  cases h
theorem waitReply (pos : Nat) (partition : Nat) (r : WaitReply) : Statement (.waitReply pos partition r) := fun _ _ _ h => by
  cases h
theorem hangVerdictTimeout (ch : Nat) : Statement (.hangVerdictTimeout ch) := fun _ _ _ h => by
  cases h
theorem readyReport (partition : Nat) (role : Nat) (ready : Bool) (lfn : Nat) : Statement (.readyReport partition role ready lfn) := fun _ _ _ h => by
  cases h
theorem suspectReport (partition : Nat) (role : Nat) (target : Nat) (handles : List Nat) (overflow : Bool) (faultLfn : Nat) : Statement (.suspectReport partition role target handles overflow faultLfn) := fun _ _ _ h => by
  cases h
theorem insertionDeadline (i : Nat) : Statement (.insertionDeadline i) := fun _ _ _ h => by
  cases h
theorem penaltyDecay (p : Part) : Statement (.penaltyDecay p) := fun _ _ _ h => by
  cases h
theorem expulsionRequest (partition : Nat) (role : Nat) (pod : Nat) (score : Nat) : Statement (.expulsionRequest partition role pod score) := fun _ _ _ h => by
  cases h
theorem expulsionRepeat : Statement (.expulsionRepeat) := fun _ _ _ h => by
  cases h
theorem expulsionVerdict (v : Nat) : Statement (.expulsionVerdict v) := fun _ _ _ h => by
  cases h
theorem grantWindowExpiry : Statement (.grantWindowExpiry) := fun _ _ _ h => by
  cases h
theorem x1Switch : Statement (.x1Switch) := fun _ _ _ h => by
  cases h
theorem elsEnable (v : Word) : Statement (.elsEnable v) := fun _ _ _ h => by
  cases h
theorem elsPresenceChange (k : Nat) (present : Bool) : Statement (.elsPresenceChange k present) := fun _ _ _ h => by
  cases h
theorem sramBankTest (pass : Bool) : Statement (.sramBankTest pass) := fun _ _ _ h => by
  cases h
theorem mailboxResponse (v : Word) (rot : Bool) (bytes : List Byte) : Statement (.mailboxResponse v rot bytes) := fun _ _ _ h => by
  cases h
theorem keyInstallWrite (v : Word) (rot : Bool) : Statement (.keyInstallWrite v rot) := fun _ _ _ h => by
  cases h
theorem stageCommit (v : Word) (sigOk : Bool) (svn : Nat) (digest : Nat) : Statement (.stageCommit v sigOk svn digest) := fun _ _ _ h => by
  cases h
theorem stageClear (v : Word) : Statement (.stageClear v) := fun _ _ _ h => by
  cases h
theorem bringupStep (p : Part) (step : Nat) : Statement (.bringupStep p step) := fun _ _ _ h => by
  cases h
theorem bringupStepLimit (p : Part) (step : Nat) (code : Nat) (port : Nat) : Statement (.bringupStepLimit p step code port) := fun _ _ _ h hw => by
  cases h
  exact (right hw)
theorem cfgDone (v : Word) : Statement (.cfgDone v) := fun _ _ _ h => by
  cases h
theorem bootRecClear (p : Part) (step : Nat) : Statement (.bootRecClear p step) := fun _ _ _ h => by
  cases h
theorem genSyncReplay : Statement (.genSyncReplay) := fun _ _ _ h => by
  cases h
theorem thermalTrip (sensor : Nat) (tj : Nat) : Statement (.thermalTrip sensor tj) := fun _ _ _ h => by
  cases h
theorem thermalRecovery (tj : Nat) : Statement (.thermalRecovery tj) := fun _ _ _ h => by
  cases h
theorem thermWarning (sensor : Nat) (tj : Nat) : Statement (.thermWarning sensor tj) := fun _ _ _ h => by
  cases h
theorem entryRead (entry : Nat) (target : Nat) (handle : Nat) : Statement (.entryRead entry target handle) := fun _ _ _ h => by
  cases h
theorem completionWord (region : Nat) (stamp : MTime) (w : CbWord) (now : MTime) : Statement (.completionWord region stamp w now) := fun _ _ _ h => by
  cases h
theorem memoryResponse (tag : Nat) (err : Bool) : Statement (.memoryResponse tag err) := fun _ _ _ h => by
  cases h
theorem oeInterrupt (status : Nat) (rx : List Int) : Statement (.oeInterrupt status rx) := fun _ _ _ h => by
  cases h
theorem oePoll (status : Nat) (rx : List Int) : Statement (.oePoll status rx) := fun _ _ _ h => by
  cases h
theorem pcieFunctionReset : Statement (.pcieFunctionReset) := fun _ _ _ h => by
  cases h
theorem telemetryDatagram : Statement (.telemetryDatagram) := fun _ _ _ h => by
  cases h
theorem smbusBlockRead : Statement (.smbusBlockRead) := fun _ _ _ h => by
  cases h
theorem frameGridLoad (f : Nat) (origin : Nat) : Statement (.frameGridLoad f origin) := fun _ _ _ h => by
  cases h
theorem layoutReport (partition : Nat) (uid : Nat) (port : Nat) (dir : Nat) (degraded : Bool) : Statement (.layoutReport partition uid port dir degraded) := fun _ _ _ h hw => by
  cases h
  exact (right (left hw))
theorem tdcStopEdge (p : Part) (interval : Nat) : Statement (.tdcStopEdge p interval) := fun _ _ _ h => by
  cases h
theorem lostLockIndication (i : Nat) : Statement (.lostLockIndication i) := fun _ _ _ h => by
  cases h
theorem dieResetRelease (lvl : Nat) (oe : Nat) (port : Nat) : Statement (.dieResetRelease lvl oe port) := fun _ _ _ h => by
  cases h
theorem lwAck (region : Nat) (target : Nat) (entry : Nat) : Statement (.lwAck region target entry) := fun _ _ _ h => by
  cases h
theorem supplyLeftTolerance (i : Nat) : Statement (.supplyLeftTolerance i) := fun _ _ _ h => by
  cases h
theorem neighbourDiscovery (query : Nat) : Statement (.neighbourDiscovery query) := fun _ _ _ h => by
  cases h
theorem boundaryScanInstruction (inst : Nat) : Statement (.boundaryScanInstruction inst) := fun _ _ _ h => by
  cases h

end Sys2Proof.Laws.EndpointExists
end

