-- ==== Sys2Proof/Laws/Registers.lean ====
section
/-! SUPPORT. The register map's places: no two fields of a part share a bit, and what follows for a write. -/

namespace Sys2Proof.Machine.RegMap

/-- A field lies within one word of its register, and the elements of an array do not reach into each other. -/
def form (p : Part) (f : Fld) : Bool :=
  1 ≤ f.width && f.lo + f.width ≤ 32 && 4 * f.words ≤ f.stride && f.part == p

/-- Every place of `g` lies between two elements of `f`, of one stride or single. -/
def between (f g : Fld) : Bool :=
  let r := (g.base + f.stride * (f.base / f.stride + 1) - f.base) % f.stride
  (g.stride == f.stride || g.count == 1) && 4 * f.words ≤ r && r + 4 * g.words ≤ f.stride

/-- The places of two fields lie apart. -/
def apart (f g : Fld) : Bool :=
  Nat.ble (f.lo + f.width) g.lo || (Nat.ble (g.lo + g.width) f.lo
  || (Nat.ble (f.base + f.stride * (f.count - 1) + 4 * f.words) g.base
  || (Nat.ble (g.base + g.stride * (g.count - 1) + 4 * g.words) f.base
  || (between f g || between g f))))

/-- All fields of a list lie apart from one another. -/
def ok : List Fld → Bool
 | [] => true
 | f :: l => l.all (fun g => apart f g) && ok l

theorem ok_tsu : ok tsuFields = true := by decide +kernel
theorem ok_dbx : ok dbxFields = true := by decide +kernel
theorem form_tsu : tsuFields.all (form .tsu) = true := by decide +kernel
theorem form_dbx : dbxFields.all (form .dbx) = true := by decide +kernel

theorem ok_mem {l : List Fld} (h : ok l = true) {f g : Fld} (hf : f ∈ l) (hg : g ∈ l) (hne : f ≠ g) :
    apart f g = true ∨ apart g f = true := by
  induction l with
  | nil => cases hf
  | cons x l ih =>
    simp only [ok, Bool.and_eq_true, List.all_eq_true] at h
    rcases List.mem_cons.1 hf with e | hf1
    · rcases List.mem_cons.1 hg with e2 | hg1
      · exact absurd (e.trans e2.symm) hne
      · subst e; exact .inl (h.1 g hg1)
    · rcases List.mem_cons.1 hg with e2 | hg1
      · subst e2; exact .inr (h.1 f hf1)
      · exact ih h.2 hf1 hg1

/-- A bit of a field names the field's word and lies within its place there. -/
theorem key_div (f : Fld) {p} (hf : form p f = true) {i w b : Nat} (h1 : f.key i w ≤ b) (h2 : b < f.key i w + f.width) :
    b / 32 = f.base + f.stride * i + 4 * w ∧ f.lo ≤ b % 32 ∧ b % 32 < f.lo + f.width := by
  simp only [form, Bool.and_eq_true, decide_eq_true_eq] at hf
  unfold Fld.key at h1 h2
  omega

theorem between_no {f g : Fld} (h : between f g = true) {i w j u : Nat} (hw : w < f.words) (hj : j < g.count) (hu : u < g.words) :
    f.base + f.stride * i + 4 * w ≠ g.base + g.stride * j + 4 * u := by
  intro e
  simp only [between, Bool.and_eq_true, decide_eq_true_eq, Bool.or_eq_true, beq_iff_eq] at h
  obtain ⟨⟨hs, h1⟩, h2⟩ := h
  have hst : 0 < f.stride := by omega
  obtain ⟨k, hk⟩ : ∃ k, g.stride * j = f.stride * k := by
    rcases hs with hs | hs
    · exact ⟨j, by rw [hs]⟩
    · exact ⟨0, by have : j = 0 := by omega
                   simp [this]⟩
  rw [hk] at e
  set st := f.stride with hste
  set q := f.base / st + 1 with hq
  have hle : f.base ≤ st * q := by
    have := Nat.div_add_mod f.base st
    have := Nat.mod_lt f.base hst
    rw [hq, Nat.mul_add, Nat.mul_one]; omega
  set d := g.base + st * q - f.base with hd
  have e1 : d % st = (4 * w + (st - 4 * u % st) ) % st := by
    have hu4 : 4 * u < st := by omega
    have hm : 4 * u % st = 4 * u := Nat.mod_eq_of_lt hu4
    rw [hm]
    have : d + st * k + st = (4 * w + (st - 4 * u)) + st * (i + q) := by
      rw [Nat.mul_add]; omega
    have := congrArg (· % st) this
    simp only [Nat.add_mod_right, Nat.add_mul_mod_self_left] at this
    exact this
  have hw4 : 4 * w + 4 ≤ st := by omega
  have hm : 4 * u % st = 4 * u := Nat.mod_eq_of_lt (by omega)
  rw [hm] at e1
  rw [e1] at h1 h2
  by_cases c : 4 * w < 4 * u
  · rw [Nat.mod_eq_of_lt (by omega)] at h1 h2
    omega
  · have : (4 * w + (st - 4 * u)) % st = 4 * w - 4 * u := by
      have : 4 * w + (st - 4 * u) = (4 * w - 4 * u) + st := by omega
      rw [this, Nat.add_mod_right, Nat.mod_eq_of_lt (by omega)]
    rw [this] at h1 h2
    omega

theorem apart_no {p} {f g : Fld} (hf : form p f = true) (hg : form p g = true) (h : apart f g = true) {i w j u b : Nat}
    (hi : i < f.count) (hw : w < f.words) (hj : j < g.count) (hu : u < g.words)
    (h1 : f.key i w ≤ b) (h2 : b < f.key i w + f.width) (h3 : g.key j u ≤ b) (h4 : b < g.key j u + g.width) : False := by
  have a := key_div f hf h1 h2
  have c := key_div g hg h3 h4
  have e : f.base + f.stride * i + 4 * w = g.base + g.stride * j + 4 * u := by omega
  simp only [apart, Bool.or_eq_true, Nat.ble_eq] at h
  have m1 : f.stride * i ≤ f.stride * (f.count - 1) := Nat.mul_le_mul_left _ (by omega)
  have m2 : g.stride * j ≤ g.stride * (g.count - 1) := Nat.mul_le_mul_left _ (by omega)
  rcases h with h | h | h | h | h | h
  · omega
  · omega
  · omega
  · omega
  · exact between_no h hw hj hu e
  · exact between_no h hu hi hw e.symm

theorem self_eq {p} {f : Fld} (hf : form p f = true) {i w j u b : Nat} (hw : w < f.words) (hu : u < f.words)
    (h1 : f.key i w ≤ b) (h2 : b < f.key i w + f.width) (h3 : f.key j u ≤ b) (h4 : b < f.key j u + f.width) : i = j ∧ w = u := by
  have a := key_div f hf h1 h2
  have c := key_div f hf h3 h4
  simp only [form, Bool.and_eq_true, decide_eq_true_eq] at hf
  have e : f.stride * i + 4 * w = f.stride * j + 4 * u := by omega
  have hst : 0 < f.stride := by omega
  have hi : i = j := by
    have := congrArg (· / f.stride) e
    simpa [Nat.mul_add_div hst, Nat.div_eq_of_lt (show 4 * w < f.stride by omega), Nat.div_eq_of_lt (show 4 * u < f.stride by omega)] using this
  subst hi
  exact ⟨rfl, by omega⟩

theorem form_of {p : Part} {f : Fld} (h : f ∈ fieldsOf p) : form p f = true := by
  cases p with
  | tsu => exact List.all_eq_true.1 form_tsu f h
  | dbx => exact List.all_eq_true.1 form_dbx f h

/-- Two fields of a part with one key are the same field. -/
theorem eq_of_key {p : Part} {f g : Fld} (hf : f ∈ fieldsOf p) (hg : g ∈ fieldsOf p) {i w j u : Nat} (hi : i < f.count)
    (hw : w < f.words) (hj : j < g.count) (hu : u < g.words) (h : f.key i w = g.key j u) : f = g := by
  by_contra e
  have ff := form_of hf
  have gg := form_of hg
  have wf : 1 ≤ f.width := by simp only [form, Bool.and_eq_true, decide_eq_true_eq] at ff; exact ff.1.1.1
  have wg : 1 ≤ g.width := by simp only [form, Bool.and_eq_true, decide_eq_true_eq] at gg; exact gg.1.1.1
  have hok : apart f g = true ∨ apart g f = true := by
    cases p with
    | tsu => exact ok_mem ok_tsu hf hg e
    | dbx => exact ok_mem ok_dbx hf hg e
  rcases hok with hk | hk
  · exact apart_no ff gg hk hi hw hj hu (b := f.key i w) (by omega) (by omega) (by omega) (by omega)
  · exact apart_no gg ff hk hj hu hi hw (b := f.key i w) (by omega) (by omega) (by omega) (by omega)

/-- What `at?` gives is an element and a word of the field, at that offset. -/
theorem at_valid {f : Fld} {off i w : Nat} (h : f.at? off = some (i, w)) : i < f.count ∧ w < f.words := by
  unfold Fld.at? at h
  split at h
  · exact absurd h (by simp)
  · simp only [Bool.and_eq_true, decide_eq_true_eq, beq_iff_eq] at h
    split at h
    · rename_i hc
      simp only [Option.some.injEq, Prod.mk.injEq] at h
      obtain ⟨rfl, rfl⟩ := h
      exact ⟨hc.1.1, hc.2⟩
    · exact absurd h (by simp)

/-- An entry of `fieldsAt` is a field of the part with a valid element and word. -/
theorem fieldsAt_valid {p : Part} {off : Nat} {x : Fld × Nat × Nat} (h : x ∈ fieldsAt p off) :
    x.1 ∈ fieldsOf p ∧ x.2.1 < x.1.count ∧ x.2.2 < x.1.words := by
  simp only [fieldsAt, List.mem_filterMap, Option.map_eq_some_iff] at h
  obtain ⟨f, hf, ⟨i, w⟩, ha, rfl⟩ := h
  exact ⟨hf, at_valid ha⟩

end Sys2Proof.Machine.RegMap
end

