-- ==== Sys2Proof/Tests/Slice0.lean ====
section
/-! SUPPORT. Tests: the checks of well-formedness refuse what they are for, a few results that the spec works out, and for
every hypothesis of a statement a state and operands that meet it. -/

namespace Sys2Proof.Tests

open Sys2Proof Sys2Proof.Machine

set_option linter.unusedVariables false
set_option Elab.async false

/-! ### Well-formedness: one ill-formed command for each check -/

theorem test_wf_accepts_write : Instr.wf (.registerWrite .tsu 0x400 0 true false) = true := by decide
theorem test_wf_refuses_unaligned_offset : Instr.wf (.registerWrite .tsu 0x402 0 true false) = false := by decide
theorem test_wf_refuses_offset_beyond_tsu : Instr.wf (.registerWrite .tsu 0x10000 0 true false) = false := by decide
theorem test_wf_accepts_offset_at_distributor : Instr.wf (.registerWrite .dbx 0x10000 0 true false) = true := by decide
theorem test_wf_refuses_sub : Instr.wf (.lfnLoRead .tsu 8192) = false := by decide
theorem test_wf_refuses_tsu_port : Instr.wf (.portDark .tsu 2) = false := by decide
theorem test_wf_accepts_last_port : Instr.wf (.portDark .dbx 131) = true := by decide
theorem test_wf_refuses_dbx_port : Instr.wf (.portDark .dbx 132) = false := by decide
theorem test_wf_refuses_tsu_ring : Instr.wf (.completionWrite .tsu 64) = false := by decide
theorem test_wf_refuses_dbx_ring : Instr.wf (.completionWrite .dbx 256) = false := by decide
theorem test_wf_refuses_short_levels : Instr.wf (.frameTick []) = false := by decide
theorem test_wf_refuses_unsigned_field : Instr.wf (.regionRemeasure 64 0) = false := by decide
theorem test_wf_refuses_signed_field : Instr.wf (.ocxoLos (2 ^ 31)) = false := by decide
theorem test_wf_accepts_signed_field : Instr.wf (.ocxoLos (-(2 ^ 31))) = true := by decide
theorem test_wf_refuses_crozier :
    Instr.wf (.crozierReceived 0 0 ⟨16, 0, 0, 0, 0, 0, 0, 0, 0, 0, 0, 0⟩) = false := by decide
theorem test_wf_refuses_header :
    Instr.wf (.pass2Broadcast ⟨.tsu, 0, 0⟩ ⟨0, 0, 0, 16, 0, 0, 0, 0, 0, false, 0, 0, 0, false, 0, 0⟩ 0 0 false) = false := by decide
theorem test_wf_refuses_contribution :
    Instr.wf (.completionContribution 0 false ⟨0, 0, 0, 0, 0, 2 ^ 16, 0⟩) = false := by decide
theorem test_wf_refuses_position : Instr.wf (.completionContribution 128 false ⟨0, 0, 0, 0, 0, 0, 0⟩) = false := by decide
theorem test_wf_refuses_soredium :
    Instr.wf (.sorediumReceived 0 0 ⟨0, 2 ^ 48, 0, 0, false, false, 0, 0, 0, 0, false, false, 0⟩) = false := by decide
theorem test_wf_refuses_record : Instr.wf (.dynamicRecordReceived .tsu ⟨16, 0, 0, 0, 0, 0, 0, 0, 0⟩) = false := by decide
theorem test_wf_refuses_slot : Instr.wf (.linkFrameReceived .tsu 0 ⟨0, 1, [⟨[], 0⟩, ⟨[], 0⟩, ⟨[], 0⟩, ⟨[], 0⟩]⟩) = false := by
  decide
theorem test_wf_refuses_slot_count : Instr.wf (.linkFrameReceived .tsu 0 ⟨0, 0, []⟩) = false := by decide
theorem test_wf_refuses_word :
    Instr.wf (.completionWord 0 ⟨0, 0⟩ ⟨8, 0, 0, 0, 0, 0, 0, 0, 0, 0, 0⟩ ⟨0, 0⟩) = false := by decide
theorem test_wf_refuses_contribution_header :
    Instr.wf (.contributionWord ⟨0, 0, 0, 0, 0, 0, 0, 4096, 0, 0, 0⟩ [] true) = false := by decide
theorem test_wf_refuses_descriptor : Instr.wf (.descriptorFetch .tsu 0 ⟨0, 0, 0, 0, 0, 0, 0, 0, 0, [], 0, [], 0, false⟩) = false := by
  decide
theorem test_wf_refuses_table : Instr.wf (.scopeTableLoad ⟨none, 0, 0, false, 0, 0, 0, List.replicate 16 0⟩ false) = false := by
  decide
theorem test_wf_refuses_wait_reply : Instr.wf (.waitReply 0 0 ⟨0, 0, 2 ^ 22, 0, 0, true, 0, 0⟩) = false := by decide
theorem test_wf_refuses_certificate : Instr.wf (.linkCert .tsu 0 ⟨true, 2 ^ 64, true, 0, []⟩) = false := by decide
theorem test_wf_refuses_session : Instr.wf (.attest .tsu 0 0 (.endSession (2 ^ 32))) = false := by decide
theorem test_wf_refuses_install : Instr.wf (.loadKey .tsu 0 0 ⟨0, true, 256, 0, [], 0⟩) = false := by decide
theorem test_wf_refuses_bytes : Instr.wf (.mailboxResponse 0 true [256]) = false := by decide
theorem test_wf_refuses_tap_address : Instr.wf (.tapWrite 0 32 (List.replicate 8 0)) = false := by decide
theorem test_wf_refuses_verdict : Instr.wf (.expulsionVerdict 3) = false := by decide
theorem test_wf_refuses_handles : Instr.wf (.suspectReport 0 0 0 (List.replicate 17 1) false 0) = false := by decide
theorem test_wf_refuses_step : Instr.wf (.bringupStep .tsu 16) = false := by decide

theorem test_wf_refuses_chain : Instr.wf (.linkCert .tsu 0 ⟨true, 0, true, 0, [256]⟩) = false := by decide +kernel
theorem test_wf_refuses_broadcast_share :
    Instr.wf (.resultBroadcast ⟨.dbx, 0, 2048⟩ ⟨0, 0, 0, 0, 0, 0, 0, 0, 0, false, 0, 0, 0, false, 0, 0⟩ [] 0) = false := by decide
theorem test_wf_refuses_broadcast_body :
    Instr.wf (.resultBroadcast ⟨.dbx, 0, 0⟩ ⟨0, 0, 0, 0, 0, 0, 0, 0, 0, false, 0, 0, 0, false, 0, 0⟩ [256] 0) = false := by decide
theorem test_wf_refuses_headers : Instr.wf (.blockLockGained .tsu 0 ⟨0, [2]⟩) = false := by decide
theorem test_wf_refuses_lane : Instr.wf (.blockLockGained .tsu 0 ⟨2, List.replicate 64 2⟩) = false := by decide +kernel
theorem test_wf_refuses_attempts : Instr.wf (.tdcSelfTest .tsu 0 [] [] []) = false := by decide
theorem test_wf_refuses_bias : Instr.wf (.elsSample 0 (some (2 ^ 16)) 0 0 0 []) = false := by decide
theorem test_wf_refuses_contribution_bytes :
    Instr.wf (.contributionWord ⟨0, 0, 0, 0, 0, 0, 0, 0, 0, 0, 0⟩ [256] true) = false := by decide
theorem test_wf_refuses_downlink :
    Instr.wf (.sorediumReceived 128 0 ⟨0, 0, 0, 0, false, false, 0, 0, 0, 0, false, false, 0⟩) = false := by decide
theorem test_wf_refuses_input : Instr.wf (.commitNoticeReceived (.descriptor 256 0 ⟨0, 0, 0, 0, 0, 0, 0, 0, 0, [], 0, [], 0, false⟩ 0 0) 0) = false := by
  decide
theorem test_wf_refuses_group : Instr.wf (.resyncCopyComplete 64 []) = false := by decide
theorem test_wf_refuses_digests : Instr.wf (.groupDigestCompare [] [] ⟨[], false⟩) = false := by decide
theorem test_wf_refuses_image : Instr.wf (.shadowCopyComplete [] [⟨4096, 0, 0, false, []⟩]) = false := by decide

/-! ### Results that the spec works out -/

/-- 02_machine_time, Worked example: conversions. -/
theorem test_lead_is_added : mtAdd ⟨7000000, 4000⟩ 3200000 = ⟨7000391, 928⟩ := by decide
/-- 02_machine_time, Worked example: conversions (R29). -/
theorem test_truncated_count : extend32 0x40 0x1FFFFFF00 = 0x200000040 := by decide
/-- 02_machine_time, Worked example: the next frame tick (R32): the tick before it. -/
theorem test_frame_tick : State.tickOf ((((State.reset.wr F.frameCfgFLog2 6).wr (F.timeStatusGridValid .tsu) 1).wr F.frameOriginLoOrigin
    1000000)) 1234567 + 64 = 1234624 := by decide
/-- 03, Worked example: statistics of a short set (R49). -/
theorem test_short_set : (let a := ((((({} : StatAcc).sample 100).sample 104).sample 98).sample 102).miss.sample 101
    (a.n, a.tmo, a.mean, a.sd, a.lo, a.hi)) = (5, 1, 101, 2, 98, 104) := by decide
/-- 03, Worked example: offset of one hop (R52, R54), stamps in counts of 1.25 ps. -/
theorem test_hop_offset : (let rtt := stampDiff 1649552 800000 - stampDiff 1257582 1192046
    (2 * rtt, 2 * stampDiff 1192046 800000 - rtt - 16)) = (1568032, 60) := by decide
/-- 08, Worked example: one rounding against many. -/
theorem test_one_rounding : roundAcc 3 false (toAcc 3 0x3F80 + toAcc 3 0x3B80 + toAcc 3 0x3580) 0 = (0x3F81, 8) := by decide
/-- 08, Worked example: top-p on an FP32 boundary: candidate 2, which is number 1 counted from 0. -/
theorem test_top_p : chooseCandidate [2 ^ 96, 2 ^ 95, 2 ^ 95, 2 ^ 94, 2 ^ 93] (5 * 2 ^ 95) 0x3F4CCCCD 0x13333333333333 = 1 := by
  decide
/-- 17, Worked example: a mixed register after the lock (R354): the switch preference passes the lock. -/
theorem test_mixed_register : (let s := (State.reset.wr (F.setupLockLock .dbx) 1).wr F.refCtrlEn 7
    (((s.regWrite .dbx 0x1100 0x0791 false true).rd F.refCtrlPref), ((s.regWrite .dbx 0x1100 0x0391 false true).rd F.refCtrlEn))) =
    (1, 7) := by decide +kernel
/-- 16, Worked example: where X0 and its laser are (R338). -/
theorem test_fibres_of_x0 : (fibreTx 130, fibreRx 130, fibreTx 128) = ((11, 19), (11, 20), (11, 15)) := by decide
/-- 16, Tables 16.1 and 16.2: the last bit of a bus, a supply's corner, and a ball that neither table names. -/
theorem test_balls : (ballAt 60 56, ballAt 20 20, ballAt 20 21) = (.signal "ELS_PRSNT_N" 7, .supply .core, .vss) := by
  decide +kernel
/-- 01, Table 1.1 (R210): a generation after the greatest is 1. -/
theorem test_generation_wraps : nextGen 16383 = 1 := by decide

/-! ### Witnesses: a state and operands for every hypothesis of a statement -/

/-- A descriptor with an opcode. -/
def descOf (op : Nat) : Desc := ⟨op, 1, 0, 0, 0, 0, 0, 0, 0, [], 0, [], 0, false⟩
/-- That descriptor in flight under sequence number 5. -/
def askFor (op : Nat) : InFlight := { seq := 5, desc := descOf op, committed := true }
/-- A part with that descriptor in flight on ring pair 0. -/
def asked (p : Part) (op : Nat) : State := State.reset.modRing p 0 fun t => { t with flight := [askFor op] }
/-- A valid conductor slot 0 with a bound plan. -/
def heldState : State := State.reset.modD fun d => { d with plans := [(0, ⟨0, 0, false, none, [], [], 0, 0, 0, 0, 0, 0, [], 0, 0, false, []⟩)] }
/-- No region enabled, no target wired, and the result area apart from the carve-out. -/
def freshMap : State := State.reset.wr F.resultBaseLoBase 8
/-- P0 is UP with a time-valid parent. -/
def parentState : State := (State.reset.wr (F.portStateState .tsu) 4 0).modPort .tsu 0 fun t => { t with pValid := true }
def acqState (k : Nat) : State :=
  ((((State.reset.wr (F.timeStatusTimeState .tsu) 1).wr (F.trackCfgTrackN .tsu) 0).modPort .tsu 0 fun t =>
    { t with acc := { n := 1 } }).modNode .tsu fun n => { n with acqSet := k })
def acqFar : State := (acqState 2).modPort .tsu 0 fun t => { t with acc := { n := 1, sum := 100000, lo := 100000, hi := 100000 } }
def lossState (st1 : Nat) : State :=
  ((State.reset.wr (F.timeStatusTimeState .tsu) 2).wr (F.portStateState .tsu) st1 1).modPort .tsu 1 fun t => { t with pValid := true }
def returnState : State :=
  ((((State.reset.wr (F.timeStatusTimeState .tsu) 2).wr (F.timeStatusTimePort .tsu) 1).wr (F.portStateState .tsu) 4 0).modPort
    .tsu 0 fun t => { t with pValid := true }).modNode .tsu fun n => { n with lfn := 65536 }
def trackState (m : Int) : State :=
  ((State.reset.wr (F.timeStatusTimeState .tsu) 2).wr (F.trackCfgTrackN .tsu) 0).modPort .tsu 0 fun t =>
    { t with acc := { n := 1, sum := m } }
/-- A root member with reference input `i` enabled and in state `st`. -/
def rootRef (i st : Nat) : State := ((State.reset.wr F.nodeCfgRoot 1).wr F.refCtrlEn 7).wr F.refStatState st i
def rootAt (l : Nat) : State := ((rootRef 0 0).wr F.selStatusMaster 1).modNode .dbx fun n => { n with lfn := l }
def civilAsk : InFlight := { seq := 5, desc := { descOf 0x32 with ext := toLe 8 civilNominal }, committed := true }
def civilAsked : State := State.reset.modRing .dbx 0 fun t => { t with flight := [civilAsk] }
def civilAskInit : InFlight := { seq := 5, desc := { descOf 0x32 with ext := toLe 8 civilNominal, ops := [1] }, committed := true }
def civilAskedInit : State := State.reset.modRing .dbx 0 fun t => { t with flight := [civilAskInit] }
def rootPdu : State := (((rootRef 0 2).wr F.refStatSsm 2 0).wr F.refQlcfgQlMin0 4).modD fun d => { d with refs := [(0, { run := 1, infoSsm := 2 })] }
/-- A follower whose only UP downlink has lost its offset; with `q` = 1 its input 0 is QUALIFIED. -/
def followerState (q : Nat) : State := rootRef 0 (3 * q)
def anchorState : State := (((rootRef 0 0).wr F.outCfgMode 2 0).modD fun d => { d with anchors := [(0, ⟨0, 0⟩)] })
def outputState : State :=
  ((State.reset.wr (F.timeStatusTimeState .dbx) 2).wr F.outCfgMode 1 0).wr F.outCfgFLog2 3 0
def bolState : State := (((State.reset.wr F.elsStatPresent 1 0).wr F.elsCtrlEn 1).modD fun d => { d with elsSince := [(0, 0)] }).modNode .dbx
  fun n => { n with lfn := 2 ^ 30 }
def lockedTmpl : State := (((heldState.wr F.shareValid 1 0).wr (F.slotTmplEntries .dbx) 1 0 0).wr (F.portCtrlEnable .dbx) 1 0)
/-- Template 0 of a TSU holds an entry, and a channel is bound. -/
def lockedTsuTmpl : State := ((State.reset.wr (F.slotTmplEntries .tsu) 1 0 0).wr (F.portCtrlEnable .tsu) 1 0).modT fun t => { t with chans := [(0, { state := 2, gen := 1, tenant := 0 })] }
/-- P0 UP with a port state of its own. -/
def upPort (f : PortRt → PortRt) : State := (State.reset.wr (F.portStateState .tsu) 4 0).modPort .tsu 0 f
def missPort (k : Nat) : State := (upPort fun t => { t with missing := [{ label := 1, layout := 0, slots := [], mask := 1, naks := k, nakAt := 0 }] }).modNode .tsu fun n => { n with lfn := 1000 }
def dbxPort (f : PortRt → PortRt) : State := (State.reset.wr (F.portStateState .dbx) 3 0).modPort .dbx 0 f
def goodPeer : State := State.reset
def goodCz : Crozier := ⟨1, 1, 0, 0, 1, 0, 0, 100, 0, 0, 0, 0⟩
def condHeldTable : State := heldState
/-- A TSU with one arm entry, 0. -/
def armState (a : ArmEntry) : State := State.reset.modT fun t => { t with arm := [(0, a)] }
def launchCz : Crozier := ⟨1, 1, 0, 0, 2 ^ 18 + 0, 0, 0, 600, 0, 0, 0, 0⟩
def admitState : State :=
  (((State.reset.wr (F.timeStatusTimeState .tsu) 2).wr F.roleRoleValid 1).modT fun t => { t with chans := [(0, { state := 2, gen := 1, tenant := 0 })] })
/-- Partition 0 with its one role at position 0; the apex is here where `a` is 1. -/
def roleState (a : Nat) : State :=
  ((State.reset.wr F.condPartValid 1 0).wr F.condPartApex a 0).modD fun d => { d with tRoute := [(0, 2 ^ 49)] }
def inputState (c : Option Nat) (role : Nat) : State :=
  (State.reset.wr F.condStatusRole role).modD fun d => { d with inputs := [{ id := 0, kind := .divergence, heldAt := 0, commitAt := c }] }
def emitState : State := (((roleState 1).wr F.condShareRateCzPos 1 0).wr F.condStatusRole 0).modD fun d => { d with czq := [(0, [⟨goodCz, 1, true, 0, 0⟩])] }
def compareState : State := (State.reset.wr (F.portStateState .dbx) 4 130).wr F.condStatusRole 0
/-- A bound channel 0 of an active member. -/
def chan0 : CondChan := { state := 2, tenant := 0, r := { handle := 2 ^ 18, exec := 2 } }
def chanState (f : CondChan → CondChan) : State :=
  (State.reset.wr F.condStatusRole 0).modD fun d => { d with chans := [(0, f chan0)] }
/-- One memory request outstanding, under tag 0. -/
def memState (q : MemReq) : State := State.reset.modT fun t => { t with memReqs := [(0, q)] }
def lostTwin (i : Nat) : State :=
  ((State.reset.wr F.condStatusRole 1).wr (F.portStateState .dbx) 4 i).modPort .dbx i fun t => { t with cAt := some 0 }
/-- A plan of one variant with one word, bound to slot 0, with room in its meter. -/
def plan1 (w : Nat) : Plan :=
  ⟨0, 0, false, none, [⟨0, 3, 1, 7⟩], [], 1, 1, 0, 4, 4, 4, [], 0, 1, false, [[w]]⟩
/-- Channel 0 of an active member stands at that word. -/
def atWord (w : Nat) (f : CondChan → CondChan) : State :=
  (((State.reset.wr F.condStatusRole 0).wr F.condShareRateCzPos 1 0).wr F.condShareRateWordsLf 4 0).modD fun d =>
    { d with plans := [(0, plan1 w)], chans := [(0, f { chan0 with r := { chan0.r with exec := 1 } })] }
def runner : CondChan := { chan0 with r := { chan0.r with exec := 1 } }
/-- A channel whose step has not completed by its deadline. -/
def lateChan : CondChan := { chan0 with wait := .aggregate, r := { chan0.r with stepOpen := true } }
def lateStart (m : Nat) : State := (chanState fun _ => lateChan).wr F.fltPolicyMode m 0
def lateState (m : Nat) : State :=
  (((lateStart m).modCh 0 fun c => { c with r := { c.r with aggStatus := orSt c.r.aggStatus stMissing }, shortfall := c.r.expected - c.r.aggCount, dead := true }).bump F.condMissingCount).judgeFaults 0
def lateAfter (m : Nat) : CondChan := ((lateState m).chan 0).getD chan0
def sor0 : Soredium := ⟨2 ^ 18, 2 ^ 48 - 1, 0, 0, false, false, 77, 0, 0, 0, false, false, 0⟩
/-- A channel that has just closed the step of that soredium. -/
def sc0 : CondChan := { chan0 with r := { chan0.r with step := 2 ^ 48 - 1 + 1 } }
def sorChan : CondChan := { runner with sor := some sor0 }
def swap0 (ph : Nat) : SwapRt := { ch := 0, base := 0, first := 0, last := 0, cur := 0, phase := ph, entry := ⟨0, 3, 1, 7⟩, epoch := 0, tmo := 0 }
/-- A swap of slot 0 at peristome 0 in a state, with a deadline where its state is 1. -/
def swapState (ph st : Nat) : State :=
  (chanState fun c => c).modD fun d => { d with swaps := [(0, swap0 ph)], peris := [(0, { state := st, deadline := if st = 1 then some 0 else none })] }
def swapOpen : State := (swapState 0 0).modD fun d => { d with swaps := [(0, swap0 0)], plans := [(0, plan1 0)], chans := [(0, { chan0 with r := { chan0.r with periPos := 9 } })] }
def ct0 : CtHdr := ⟨2 ^ 18, 0, 0, 0, 0, 0, 0, 0, 1, 0, 0⟩
def contribState : State :=
  (State.reset.wr F.roleRoleValid 1).modT fun t => { t with chans := [(0, { state := 2, gen := 1, tenant := 0 })] }
def hdr0 : PHdr := ⟨2 ^ 18, 0, 0, 0, 0, 0, 1, 0, 1, false, 0, 0, 0, false, 0, 0⟩
def fullSlots : State := State.reset.modT fun t => { t with slots := (List.range 64).map fun i => (i, ⟨hdr0, [], [0]⟩) }
def part0 : PPartial := ⟨hdr0, .exact [0] [0]⟩
def key0 : TauKey := { partition := 0, first := hdr0, atLfn := 0, parts := [(0, part0)] }
def fullTau : State := (roleState 0).modD fun d => { d with tau := (List.range 1024).map fun i =>
  { partition := 0, first := { hdr0 with stepLo := i + 1 }, atLfn := 0, parts := [(0, part0)] } }
/-- Ring pair 0 of the TSU runs with one descriptor to fetch. -/
def fetchState : State := (State.reset.wr (F.ringStatusRunning .tsu) 1 0).modRing .tsu 0 fun t => { t with sqTail := 1 }
/-- A descriptor with operands and an extension. -/
def askWith (op : Nat) (ops ext : List Nat) : InFlight := { seq := 5, desc := { descOf op with ops := ops, ext := ext }, committed := true }
/-- A part with that descriptor in flight on ring pair 0. -/
def askedWith (p : Part) (op : Nat) (ops ext : List Nat) : State :=
  State.reset.modRing p 0 fun t => { t with flight := [askWith op ops ext] }
/-- A manifest of epoch 1 with layer 0 and one shard of one block in a state. -/
def mf0 (st : Nat) : Manifest := { epoch := 1, ring := 0, layers := [0], shards := [{ layer := 0, id := 0, len := 64, window := 8, mac := 0, h := 1, p := 0, state := st }] }
def gateState (st : Nat) : State := State.reset.modT fun t => { t with mfIn := some (mf0 st), layers := [(0, ⟨1, false⟩)] }
def shard0 (st : Nat) : Shard := { layer := 0, id := 0, len := 64, window := 8, mac := 0, h := 1, p := 0, state := st }
/-- 256 shards that are open in layer 1. -/
def fullShards : List Shard := (List.range 256).map fun i => { layer := 1, id := i, len := 64, window := 8, mac := 0, h := 1, p := 0, state := 1 }
def fullGate : State := State.reset.modT fun t => { t with mfIn := some { mf0 0 with shards := shard0 0 :: fullShards }, layers := [(0, ⟨1, false⟩)] }
/-- A step of handle 2^18 whose layer 0 has been tapped. -/
def tapStep : OpenStep := { handle := 2 ^ 18, step := 0, tick := 0, variant := 0, attempt := 0, layers := [⟨0, 0, 1, 1⟩] }
/-- A die whose digest tap is enabled, with that step open. -/
def tapState : State := (State.reset.wr F.digCfgEnable 1).modT fun t => { t with steps := [tapStep] }
def mt0 : MTime := ⟨0, 0⟩
def cbw (k : Nat) : CbWord := ⟨k, 0, 0, 0, 2 ^ 18, 0, 0, 0, 0, 0, 0⟩
/-- A step of handle 2^18 with launch 0 missing. -/
def openStep0 : OpenStep := { handle := 2 ^ 18, step := 0, tick := 0, variant := 0, attempt := 0, targets := [0] }
def stepState : State := State.reset.modT fun t => { t with steps := [openStep0] }
def node0 : WaitNode := ⟨0, 0, 2 ^ 18, 0, 0, 0, mt0, none⟩
def hang0 : HangQ := { handle := 2 ^ 18, step := 0, atLfn := 0, expected := 1 }
def reply0 : WaitReply := ⟨2 ^ 18, 0, 0, 1, 0, false, 0, 0⟩
def killState : State := (State.reset.modT fun t => { t with kills := [(0, 5, 0)] }).modNode .tsu fun n => { n with lfn := 2 ^ 20 }
def req1 (op : Nat) : InstallReq := { op := op, ring := 1, session := 0, secured := true, mask := [], loadKey := 0 }
/-- An SPDM request that waits for the root of trust's answer, made at count 0. -/
def mbw (k : Nat) : MbWait := { kind := k, ring := 0, tag := 0, seq := 5, at_ := 0 }
def waitState : State := ((asked .tsu 0x40).modT fun t => { t with mbWait := [mbw 1] }).modNode .tsu fun n => { n with lfn := 2 ^ 30 }
/-- A part whose scrub began at count 0 for descriptor 5 of ring pair 0, and is over. -/
def scrubbed (p : Part) (r : Option (Nat × Nat)) : State := (asked p 0x42).modNode p fun n => { n with scrub := some ⟨0, 0, r, []⟩, lfn := 2 ^ 30 }
/-- A tenant's request to bind ring pair 1 to slot 0, from an authenticated session. -/
def bindReq : InstallReq := { op := 1, ring := 1, session := 0, secured := true, mask := [0], loadKey := 0 }
def bindAsk : InFlight := { seq := 5, desc := { descOf 0x41 with ops := [1] }, committed := true }
def bindState : State := (State.reset.modRing .dbx 0 fun t => { t with flight := [bindAsk] }).modNode .dbx fun n => { n with sessions := [(0, some 7)] }
/-- Both parts held in reset, with nothing else. -/
def heldBoth : State := { tsu := { live := false }, dbx := { live := false } }
/-- That state with a die reset waiting. -/
def held0 : State := { heldBoth with pending := [.dieReset] }
/-- Ring pair 1 of the TSU, a tenant's, runs with one descriptor to fetch. -/
def badTagState : State := ((State.reset.wr (F.ringStatusRunning .tsu) 1 1).wr (F.ringStatusKind .tsu) 2 1).modRing .tsu 1 fun t => { t with sqTail := 1 }
/-- Ring pair 1 of the conductor, a tenant's, runs with one descriptor to fetch: a CH_ARM with its tag. -/
def fetchCond : State := ((State.reset.wr (F.ringStatusRunning .dbx) 1 1).wr (F.ringStatusKind .dbx) 2 1).modRing .dbx 1 fun t => { t with sqTail := 1 }
def armBody : Desc := { descOf 3 with handle := 2 ^ 18 }
def armAsk : Desc := { armBody with tag := Config.gcmTag 0 0 (descBody armBody) }
/-- NOP with a tag that is off by one. -/
def badAsk : Desc := { descOf 0 with tag := Config.gcmTag 0 0 (descBody (descOf 0)) + 1 }
/-- One attempt that measures the expected interval meets R51. -/
theorem goodTap (p : Part) (port tap : Nat) : tapBad p port tap [some (Config.tapExpected (partCode p) port tap)] = false := by
  generalize h : Config.tapExpected (partCode p) port tap = v
  have e : divEven (v : Int) 1 = v := by
    simp only [divEven]; simp
  simp [tapBad, tapAcc, StatAcc.sample, StatAcc.mean, h, e]
/-- P0 UP, and dark for long. -/
def darkPort : State := ((upPort fun t => t).wr (F.portCtrlEnable .tsu) 1 0).modNode .tsu fun n => { n with lfn := 2 ^ 20 }
/-- A shadow's channel 0 at a POST word, and what it leaves; the same for HALT; and a POST word whose ring is full. -/
def postState : State := (atWord (13 * 2 ^ 56) fun c => c).wr F.condStatusRole 1
def postAfter : CondChan := ((((postState.countWord 0 runner).nextPc 0).post 0 1 0 0 0 false).chan 0).getD chan0
def haltState : State := (atWord (15 * 2 ^ 56 + 1) fun c => c).wr F.condStatusRole 1
def haltAfter : CondChan := ((((haltState.countWord 0 runner).event 0 0x81 0 0).holdCh 0 5 .none).chan 0).getD chan0
def fullState : State := (atWord (13 * 2 ^ 56) fun c => c).modRing .dbx 0 fun t => { t with waiting := [⟨0, 0, 0, 0, 0, 0, 0, false⟩] }
def heldAfter : CondChan := ((fullState.holdCh 0 3 .ring).chan 0).getD chan0

theorem test_meets_RegisterRowsTakeEffect_1 : ∃ (p : Part) (off : Nat) (v : Word) (whole rot : Bool) (s : State),
    (Runs s p) ∧ ((fieldsAt p off).isEmpty = false) ∧ ((p = .dbx → whole = true)) ∧ ((p = .tsu → rotOffset off = true → rot = true)) ∧ (ringOf p off = none) ∧ ((p = .dbx → s.condHeld off = false)) :=
  ⟨Part.tsu, 0x2000, 5, true, false, State.reset, by decide +kernel⟩

theorem test_meets_RegisterRowsTakeEffect_2 : ∃ (off : Nat) (v : Word) (rot : Bool) (s : State),
    (Runs s .dbx) ∧ ((fieldsAt .dbx off).isEmpty = false) :=
  ⟨0x400, 0, false, State.reset, by decide +kernel⟩

theorem test_meets_RegisterRowsTakeEffect_3 : ∃ (p : Part) (off : Nat) (v : Word) (whole rot : Bool) (s : State),
    (Runs s p) ∧ ((fieldsAt p off).isEmpty = true) :=
  ⟨Part.dbx, 0xFFFFC, 0, false, false, State.reset, by decide +kernel⟩

theorem test_meets_RegisterRowsTakeEffect_4 : ∃ (off : Nat) (v : Word) (whole : Bool) (s : State),
    (Runs s .tsu) ∧ ((fieldsAt .tsu off).isEmpty = false) ∧ (rotOffset off = true) :=
  ⟨0x9000, 0, true, State.reset, by decide +kernel⟩

theorem test_meets_RegisterRowsTakeEffect_5 : ∃ (p : Part) (off r o : Nat) (v : Word) (rot : Bool) (s : State),
    (Runs s p) ∧ ((fieldsAt p off).isEmpty = false) ∧ (rotOffset off = false) ∧ (ringOf p off = some (r, o)) ∧ (s.ringRefuses p r o v.toNat = true) :=
  ⟨Part.tsu, 0x4010, 0, 0x10, 0, false, State.reset, by decide +kernel⟩

theorem test_meets_RegisterRowsTakeEffect_6 : ∃ (off : Nat) (v : Word) (rot : Bool) (s : State),
    (Runs s .dbx) ∧ ((fieldsAt .dbx off).isEmpty = false) ∧ (ringOf .dbx off = none) ∧ (s.condHeld off = true) :=
  ⟨0x51000, 0, false, heldState, by decide +kernel⟩

theorem test_meets_RegisterRowsTakeEffect_7 : ∃ (p : Part) (v : Word) (s : State),
    (Runs s p) ∧ (bit v.toNat 1 = true) ∧ (bit v.toNat 2 = false) ∧ (s.locked p = false) ∧ (s.lockCause p = 0) :=
  ⟨Part.tsu, 2, freshMap, by decide⟩

theorem test_meets_RegisterRowsTakeEffect_8 : ∃ (p : Part) (v : Word) (s : State),
    (Runs s p) ∧ (bit v.toNat 1 = true) ∧ (bit v.toNat 2 = false) ∧ (s.locked p = false) ∧ (s.lockCause p ≠ 0) :=
  ⟨Part.dbx, 2, State.reset, by decide⟩

theorem test_meets_RegisterRowsTakeEffect_9 : ∃ (p : Part) (s : State),
    (Runs s p) :=
  ⟨Part.tsu, State.reset, by decide⟩

theorem test_meets_RegisterRowsTakeEffect_10 : ∃ (v : Word) (delta : Int) (s : State),
    (Runs s .dbx) :=
  ⟨0, 0, State.reset, by decide⟩


theorem test_meets_TimeReadsGiveTheExportedCount_1 : ∃ (p : Part) (sub : Nat) (s : State),
    (Runs s p) ∧ (s.timeState p = 2) :=
  ⟨Part.tsu, 7, State.reset.wr (F.timeStatusTimeState .tsu) 2, by decide⟩

theorem test_meets_TimeReadsGiveTheExportedCount_2 : ∃ (p : Part) (sub : Nat) (s : State),
    (Runs s p) ∧ (s.timeState p = 3) :=
  ⟨Part.dbx, 7, State.reset.wr (F.timeStatusTimeState .dbx) 3, by decide⟩

theorem test_meets_TimeReadsGiveTheExportedCount_3 : ∃ (p : Part) (sub : Nat) (s : State),
    (Runs s p) ∧ (s.timeState p = 1) ∧ ((s.node p).fromHold = true) :=
  ⟨Part.dbx, 7, (State.reset.wr (F.timeStatusTimeState .dbx) 1).modNode .dbx fun n => { n with fromHold := true }, by decide⟩

theorem test_meets_TimeReadsGiveTheExportedCount_4 : ∃ (p : Part) (sub : Nat) (s : State),
    (Runs s p) ∧ (s.timeState p = 0 ∨ (s.timeState p = 1 ∧ (s.node p).fromHold = false)) :=
  ⟨Part.dbx, 7, State.reset, by decide⟩

theorem test_meets_TimeReadsGiveTheExportedCount_5 : ∃ (p : Part) (ring seq sub : Nat) (f : InFlight) (s : State),
    (Runs s p) ∧ (Asked s p ring seq 0x31 f) :=
  ⟨Part.tsu, 0, 5, 0, askFor 0x31, asked .tsu 0x31, by decide⟩


theorem test_meets_EchoExchangeMeasuresTheHop_1 : ∃ (p : Part) (port t1 t2 t3 t4 : Nat) (s : State),
    (Runs s p) ∧ (s.childEnd p port = true) ∧ (s.echoing p port = true) :=
  ⟨Part.tsu, 0, 1, 2, 3, 4, State.reset.wr (F.portStateState .tsu) 4 0, by decide⟩

theorem test_meets_EchoExchangeMeasuresTheHop_2 : ∃ (p : Part) (port t1 t2 t3 t4 : Nat) (s : State),
    (Runs s p) ∧ (s.childEnd p port = true) ∧ (s.echoing p port = true) ∧ ((s.port p port).echo = []) :=
  ⟨Part.tsu, 0, 1, 2, 3, 4, State.reset.wr (F.portStateState .tsu) 4 0, by decide⟩

theorem test_meets_EchoExchangeMeasuresTheHop_3 : ∃ (p : Part) (port t1 t2 t3 t4 a1 a2 a3 : Nat) (l : List (Nat × Nat × Nat)) (s : State),
    (Runs s p) ∧ (s.childEnd p port = true) ∧ (s.echoing p port = true) ∧ ((s.port p port).echo = (a1, a2, a3) :: l) ∧ ((s.port p port).echoGap = none) ∧ (t4 ≠ (s.port p port).seenT4) :=
  ⟨Part.tsu, 0, 1, 2, 3, 4, 5, 6, 7, [], (State.reset.wr (F.portStateState .tsu) 4 0).modPort .tsu 0 fun t => { t with echo := [(5, 6, 7)] }, by decide⟩

theorem test_meets_EchoExchangeMeasuresTheHop_4 : ∃ (p : Part) (port t1 turn t4 : Nat) (s : State),
    (Runs s p) ∧ (s.childEnd p port = false) ∧ (s.echoing p port = true) :=
  ⟨Part.dbx, 0, 1, 2, 3, State.reset.wr (F.portStateState .dbx) 4 0, by decide⟩

theorem test_meets_EchoExchangeMeasuresTheHop_5 : ∃ (p : Part) (port : Nat) (s : State),
    (s.echoSetDone p port = true) :=
  ⟨Part.dbx, 0, (State.reset.wr (F.trackCfgTrackN .dbx) 0).modPort .dbx 0 fun t => { t with acc := { n := 1 } }, by decide⟩

theorem test_meets_EchoExchangeMeasuresTheHop_6 : ∃ (p : Part) (port : Nat) (s : State),
    (s.echoSetDone p port = false) :=
  ⟨Part.dbx, 0, State.reset, by decide⟩


theorem test_meets_AcquisitionEntersValid_1 : ∃ (p : Part) (port : Nat) (s : State),
    (Runs s p) ∧ (s.timeState p = 0 ∨ s.timeState p = 3) ∧ (s.parentValid p port = true) ∧ ((s.node p).altPort = false ∨ s.timeState p = 3 ∨ port ≠ preferredPort p ∨ (otherParent p port).any (fun q => s.parentValid p q) = false) :=
  ⟨Part.tsu, 0, parentState, by decide⟩

theorem test_meets_AcquisitionEntersValid_2 : ∃ (p : Part) (s : State),
    (Runs s p) ∧ (s.timeState p = 1) ∧ ((s.node p).acqSet = 1) ∧ (s.echoSetDone p (s.node p).acqPort = true) ∧ (s.setDiscarded p (s.node p).acqPort = false) :=
  ⟨Part.tsu, acqState 1, by decide⟩

theorem test_meets_AcquisitionEntersValid_3 : ∃ (p : Part) (s : State),
    (Runs s p) ∧ (s.timeState p = 1) ∧ ((s.node p).acqSet = 2) ∧ (s.echoSetDone p (s.node p).acqPort = true) ∧ (s.setDiscarded p (s.node p).acqPort = false) ∧ (s.set2Passes p (s.port p (s.node p).acqPort).acc = true) :=
  ⟨Part.tsu, acqState 2, by decide⟩

theorem test_meets_AcquisitionEntersValid_4 : ∃ (p : Part) (s : State),
    (Runs s p) ∧ (s.timeState p = 1) ∧ ((s.node p).acqSet = 2) ∧ (s.echoSetDone p (s.node p).acqPort = true) ∧ (s.setDiscarded p (s.node p).acqPort = false) ∧ (s.set2Passes p (s.port p (s.node p).acqPort).acc = false) ∧ ((s.node p).acqFails + 1 < 8) :=
  ⟨Part.tsu, acqFar, by decide⟩


theorem test_meets_TimePortFollowsItsParents_1 : ∃ (p : Part) (port psi q : Nat) (s : State),
    (Runs s p) ∧ ((s.parentPorts p).contains port = true) ∧ (s.parentValid p port = false) ∧ (s.timeState p = 2) ∧ (s.timePort p = some port) ∧ (otherParent p port = some q) ∧ (s.parentValid p q = true) :=
  ⟨Part.tsu, 0, 0, 1, lossState 4, by decide⟩

theorem test_meets_TimePortFollowsItsParents_2 : ∃ (p : Part) (port psi : Nat) (s : State),
    (Runs s p) ∧ ((s.parentPorts p).contains port = true) ∧ (s.parentValid p port = false) ∧ (s.timeState p = 2) ∧ (s.timePort p = some port) ∧ ((∀ q, otherParent p port = some q → s.parentValid p q = false)) :=
  ⟨Part.tsu, 0, 0, lossState 0, ⟨by decide, by decide, by decide, by decide, by decide, fun q h => by cases h; decide⟩⟩

theorem test_meets_TimePortFollowsItsParents_3 : ∃ (p : Part) (port psi q : Nat) (s : State),
    (Runs s p) ∧ ((s.parentPorts p).contains port = true) ∧ (s.parentValid p port = false) ∧ (s.timeState p = 1) ∧ ((s.node p).acqPort = port) ∧ (otherParent p port = some q) ∧ (s.parentValid p q = true) :=
  ⟨Part.tsu, 0, 0, 1, (lossState 4).wr (F.timeStatusTimeState .tsu) 1, by decide⟩

theorem test_meets_TimePortFollowsItsParents_4 : ∃ (p : Part) (port psi : Nat) (s : State),
    (Runs s p) ∧ ((s.parentPorts p).contains port = true) ∧ (s.parentValid p port = false) ∧ (s.timeState p = 1) ∧ ((s.node p).acqPort = port) ∧ ((∀ q, otherParent p port = some q → s.parentValid p q = false)) :=
  ⟨Part.tsu, 0, 0, (lossState 0).wr (F.timeStatusTimeState .tsu) 1, ⟨by decide, by decide, by decide, by decide, by decide, fun q h => by cases h; decide⟩⟩

theorem test_meets_TimePortFollowsItsParents_5 : ∃ (p : Part) (psi port : Nat) (s : State),
    (Runs s p) ∧ (s.timeState p = 2) ∧ (s.timePort p = some port) ∧ (otherParent p port = some (preferredPort p)) ∧ (s.parentValid p (preferredPort p) = true) ∧ ((s.port p (preferredPort p)).pSince + 2 ^ 16 ≤ s.lfn p) :=
  ⟨Part.tsu, 0, 1, returnState, by decide⟩

theorem test_meets_TimePortFollowsItsParents_6 : ∃ (p : Part) (port : Nat) (s : State),
    (Runs s p) ∧ (s.timeState p = 2) ∧ (s.childEnd p port = true) ∧ (s.echoSetDone p port = true) ∧ (s.setDiscarded p port = false) ∧ (s.timePort p = some port) ∧ ((s.port p port).acc.n ≠ 0) ∧ ((s.port p port).acc.mean.natAbs ≤ 64) :=
  ⟨Part.tsu, 0, trackState 3, by decide⟩

theorem test_meets_TimePortFollowsItsParents_7 : ∃ (p : Part) (port : Nat) (s : State),
    (Runs s p) ∧ (s.timeState p = 2) ∧ (s.childEnd p port = true) ∧ (s.echoSetDone p port = true) ∧ (s.setDiscarded p port = false) ∧ (s.timePort p = some port) ∧ ((s.port p port).acc.n ≠ 0) ∧ (64 < (s.port p port).acc.mean.natAbs) :=
  ⟨Part.tsu, 0, trackState 100, by decide⟩

theorem test_meets_TimePortFollowsItsParents_8 : ∃ (p : Part) (port : Nat) (s : State),
    (Runs s p) ∧ (s.timeState p = 2) ∧ (s.childEnd p port = true) ∧ (s.echoSetDone p port = true) ∧ (s.setDiscarded p port = true) :=
  ⟨Part.tsu, 0, (trackState 3).modPort .tsu 0 fun t => { t with discard := true }, by decide⟩

theorem test_meets_TimePortFollowsItsParents_9 : ∃ (p : Part) (port q psi : Nat) (s : State),
    ((s.node p).moveTo = some (q, psi)) ∧ (s.timePort p = some port) ∧ (s.parentValid p q = true) :=
  ⟨Part.tsu, 0, 1, 0, (lossState 4).modNode .tsu fun n => { n with moveTo := some (1, 0) }, by decide⟩

theorem test_meets_TimePortFollowsItsParents_10 : ∃ (p : Part) (s : State),
    ((s.node p).moveTo = none) :=
  ⟨Part.tsu, State.reset, by decide⟩


theorem test_meets_PartsResetAndStart_1 : ∃ (lvl oe port : Nat) (s : State),
    (s.tsu.live = false) :=
  ⟨0, 0, 3, State.reset.resetTsu, by decide⟩

theorem test_meets_PartsResetAndStart_2 : ∃ (lvl oe port : Nat) (s : State),
    (s.tsu.live = true) :=
  ⟨0, 0, 3, State.reset, by decide⟩

theorem test_meets_PartsResetAndStart_3 : ∃ (bootSrc smbAddr : Nat) (s : State),
    (s.dbx.live = false) ∧ (s.d.tripped = false) ∧ (s.d.tripOwed = false) :=
  ⟨0, 0, State.reset.assertReset, by decide⟩

theorem test_meets_PartsResetAndStart_4 : ∃ (bootSrc smbAddr : Nat) (s : State),
    (s.dbx.live = false) ∧ (s.d.tripped = false) ∧ (s.d.tripOwed = true) :=
  ⟨0, 0, State.reset.assertReset.endTrip, by decide⟩

theorem test_meets_PartsResetAndStart_5 : ∃ (bootSrc smbAddr : Nat) (s : State),
    (s.dbx.live = false) ∧ (s.d.tripped = true) :=
  ⟨0, 0, State.reset.assertReset.modD fun d => { d with tripped := true }, by decide⟩

theorem test_meets_PartsResetAndStart_6 : ∃ (bootSrc smbAddr : Nat) (s : State),
    (s.dbx.live = true) :=
  ⟨0, 0, State.reset, by decide⟩

theorem test_meets_PartsResetAndStart_7 : ∃ (v : Word) (s : State),
    (Runs s .tsu) ∧ (s.locked .tsu = false) ∧ (bit v.toNat 0 = true) ∧ ((s.regWrite .tsu 0x400 v.toNat false true).stepDone .tsu 3 = true) ∧ ((s.regWrite .tsu 0x400 v.toNat false true).is F.bootCfgCfgDone = true) ∧ ((s.regWrite .tsu 0x400 v.toNat false true).tsu.bootBegun.contains 3 = true) ∧ ((s.regWrite .tsu 0x400 v.toNat false true).ended .tsu 3 = false) :=
  ⟨1, State.reset.modNode .tsu fun n => { n with bootBegun := [0, 1, 2, 3], bootDone := [0, 1, 2] }, by decide +kernel⟩

theorem test_meets_PartsResetAndStart_8 : ∃ (v : Word) (s : State),
    (Runs s .tsu) ∧ (s.locked .tsu = false) ∧ (bit v.toNat 0 = true) ∧ ((s.regWrite .tsu 0x400 v.toNat false true).stepDone .tsu 3 = false) ∧ ((s.regWrite .tsu 0x400 v.toNat false true).is F.bootCfgCfgDone = true) ∧ ((s.regWrite .tsu 0x400 v.toNat false true).tsu.bootBegun.contains 3 = true) ∧ ((s.regWrite .tsu 0x400 v.toNat false true).ended .tsu 3 = false) :=
  ⟨1, ((State.reset.wr F.regionCfgEnable 1 1).modNode .tsu fun n => { n with bootBegun := [0, 1, 2, 3], bootDone := [0, 1, 2] }), by decide +kernel⟩

theorem test_meets_PartsResetAndStart_9 : ∃ (v : Word) (s : State),
    (Runs s .tsu) ∧ (s.locked .tsu = true) ∧ (s.rd F.bootCfgCfgDone ≠ bits v.toNat 0 1) ∧ ((s.logErr .tsu 0x0001 noPort 0x400).ended .tsu 3 = true) :=
  ⟨0, ((State.reset.wr F.bootCfgCfgDone 1).wr (F.setupLockLock .tsu) 1).modNode .tsu fun n => { n with bootDone := [3] }, by decide⟩

theorem test_meets_PartsResetAndStart_10 : ∃ (v : Word) (s : State),
    (Runs s .tsu) ∧ (s.locked .tsu = false) ∧ (bit v.toNat 0 = false) :=
  ⟨0, State.reset, by decide⟩

theorem test_meets_PartsResetAndStart_11 : ∃ (p : Part) (step : Nat) (s : State),
    (Runs s p) ∧ (step < 16) :=
  ⟨Part.tsu, 3, State.reset, by decide⟩


theorem test_meets_BringUpStepsBeginAndEnd_1 : ∃ (p : Part) (step : Nat) (s : State),
    (Runs s p) ∧ (s.stepApplies p step = true) ∧ (s.is (F.bootStatusHalted p) = false) ∧ (s.ended p step = false) ∧ ((s.node p).bootBegun.contains step = false) ∧ (s.stepBegins p step = true) :=
  ⟨Part.tsu, 0, State.reset, by decide⟩

theorem test_meets_BringUpStepsBeginAndEnd_2 : ∃ (p : Part) (step : Nat) (s : State),
    (Runs s p) ∧ (s.stepApplies p step = true) ∧ (s.is (F.bootStatusHalted p) = false) ∧ (s.ended p step = false) ∧ ((s.node p).bootBegun.contains step = true) ∧ (s.stepDone p step = true) :=
  ⟨Part.tsu, 0, State.reset.modNode .tsu fun n => { n with bootBegun := [0] }, by decide⟩

theorem test_meets_BringUpStepsBeginAndEnd_3 : ∃ (p : Part) (step : Nat) (s : State),
    (Runs s p) ∧ (s.stepApplies p step = true) ∧ (s.is (F.bootStatusHalted p) = false) ∧ (s.ended p step = false) ∧ ((s.node p).bootBegun.contains step = true) ∧ (s.stepDone p step = false) :=
  ⟨Part.tsu, 3, State.reset.modNode .tsu fun n => { n with bootBegun := [0, 1, 2, 3], bootDone := [0, 1, 2] }, by decide⟩

theorem test_meets_BringUpStepsBeginAndEnd_4 : ∃ (p : Part) (step : Nat) (s : State),
    (Runs s p) ∧ (s.stepApplies p step = true) ∧ (s.is (F.bootStatusHalted p) = false) ∧ (s.ended p step = false) ∧ ((s.node p).bootBegun.contains step = false) ∧ (s.stepBegins p step = false) :=
  ⟨Part.tsu, 9, State.reset, by decide⟩

theorem test_meets_BringUpStepsBeginAndEnd_5 : ∃ (p : Part) (step code port : Nat) (s : State),
    (Runs s p) ∧ (s.mayFail p step code port = false) :=
  ⟨Part.tsu, 3, 0x301, 0, State.reset, by decide⟩

theorem test_meets_BringUpStepsBeginAndEnd_6 : ∃ (p : Part) (step : Nat) (s : State),
    (Runs s p) ∧ (s.is (F.bootStatusHalted p) = true) :=
  ⟨Part.tsu, 0, State.reset.wr (F.bootStatusHalted .tsu) 1, by decide⟩

theorem test_meets_BringUpStepsBeginAndEnd_7 : ∃ (p : Part) (step code port : Nat) (s : State),
    (Runs s p) ∧ (s.mayFail p step code port = true) :=
  ⟨Part.tsu, 3, 0x301, 0, State.reset.modNode .tsu fun n => { n with bootBegun := [3], age := lfOfS 10 }, by decide +kernel⟩


theorem test_meets_PackageInputsAct_1 : ∃ (sensor tj : Nat) (s : State),
    (Runs s .dbx) ∧ (sensor < 16) ∧ ((s.showTherm sensor tj).thermLimit ≤ tjOf tj) ∧ ((s.showTherm sensor tj).is F.thermStatusTherm = false) :=
  ⟨0, 0x370, State.reset, by decide +kernel⟩

theorem test_meets_PackageInputsAct_2 : ∃ (sensor tj : Nat) (s : State),
    (Runs s .dbx) ∧ (sensor < 16) ∧ (tjOf tj ≤ (s.showTherm sensor tj).thermLimit - 24) ∧ ((s.showTherm sensor tj).is F.thermStatusTherm = true) :=
  ⟨0, 0, State.reset.wr F.thermStatusTherm 1, by decide +kernel⟩

theorem test_meets_PackageInputsAct_3 : ∃ (sensor tj : Nat) (s : State),
    (Runs s .dbx) ∧ (sensor < 16) ∧ ((s.showTherm sensor tj).thermLimit - 24 < tjOf tj) ∧ (tjOf tj < (s.showTherm sensor tj).thermLimit) :=
  ⟨0, 790, State.reset, by decide +kernel⟩

theorem test_meets_PackageInputsAct_4 : ∃ (sensor tj : Nat) (s : State),
    (Runs s .dbx) ∧ (880 ≤ tjOf tj) :=
  ⟨0, 880, State.reset, by decide⟩

theorem test_meets_PackageInputsAct_5 : ∃ (tj : Nat) (s : State),
    (s.d.tripped = true) ∧ (tjOf tj < 760) ∧ (s.d.held = false) :=
  ⟨0, State.reset.modD fun d => { d with tripped := true }, by decide⟩

theorem test_meets_PackageInputsAct_6 : ∃ (tj : Nat) (s : State),
    (s.d.tripped = true) ∧ (tjOf tj < 760) ∧ (s.d.held = true) :=
  ⟨0, State.reset.modD fun d => { d with tripped := true, held := true }, by decide⟩

theorem test_meets_PackageInputsAct_7 : ∃ (i : Nat) (s : State),
    (Runs s .dbx) ∧ (i < 8) :=
  ⟨0, State.reset, by decide⟩

theorem test_meets_PackageInputsAct_8 : ∃ (s : State),
    (Runs s .dbx) :=
  ⟨State.reset, by decide⟩

theorem test_meets_PackageInputsAct_9 : ∃ (s : State),
    (Runs s .dbx) :=
  ⟨State.reset, by decide⟩

theorem test_meets_PackageInputsAct_10 : ∃ (s : State),
    (Runs s .dbx) :=
  ⟨State.reset, by decide⟩

theorem test_meets_PackageInputsAct_11 : ∃ (query : Nat) (s : State),
    (Runs s .dbx) :=
  ⟨0, State.reset, by decide⟩

theorem test_meets_PackageInputsAct_12 : ∃ (inst : Nat) (s : State),
    (inst < 2 ∨ (inst < 4 ∧ s.d.held = true)) :=
  ⟨0, State.reset, by decide⟩

theorem test_meets_PackageInputsAct_13 : ∃ (inst : Nat) (s : State),
    (2 ≤ inst) ∧ (4 ≤ inst ∨ s.d.held = false) :=
  ⟨2, State.reset, by decide⟩


theorem test_meets_StepRunsFrontCommand : ∃ (c : Instr) (rest : List Instr) (s : State),
    (s.pending = c :: rest) :=
  ⟨.dieReset, [], { State.reset with pending := [.dieReset] }, by decide⟩


theorem test_meets_IdleStepRunsTheCounts : ∃ (s : State),
    (s.pending = []) :=
  ⟨State.reset, by decide⟩




theorem test_meets_HeldBlockStaysHeld : ∃ (s t : State),
    (BothHeld s) ∧ ((∀ c ∈ s.pending, (∀ lvl oe port, c ≠ .dieResetRelease lvl oe port) ∧ (∀ b a, c ≠ .distributorResetRelease b a) ∧ (∀ tj, c ≠ .thermalRecovery tj))) ∧ (step s = .next t) :=
  ⟨held0, heldBoth.resetTsu, ⟨⟨by decide, by decide⟩, by intro c hc; simp only [held0, List.mem_singleton] at hc; subst hc; exact ⟨by intros; simp, by intros; simp, by intros; simp⟩, rfl⟩⟩


theorem test_meets_RegisterFieldsDoNotOverlap : ∃ (p : Part) (f g : Fld) (i w j u b : Nat),
    (f ∈ fieldsOf p) ∧ (g ∈ fieldsOf p) ∧ (i < f.count) ∧ (w < f.words) ∧ (j < g.count) ∧ (u < g.words) ∧ (f.key i w ≤ b) ∧ (b < f.key i w + f.width) ∧ (g.key j u ≤ b) ∧ (b < g.key j u + g.width) :=
  ⟨.tsu, F.regionCfgEnable, F.regionCfgEnable, 1, 0, 1, 0, 0x3104 * 32 + 7, by decide +kernel⟩


theorem test_meets_LockedFieldsKeepTheirValues : ∃ (p : Part) (off v : Nat) (rot own : Bool) (s : State) (x : Fld × Nat × Nat),
    (s.locked p = true) ∧ (x ∈ fieldsAt p off) ∧ (x.1.acc = .rwl ∨ x.1.acc = .rwlRot) ∧ ((s.node p).errlog.length < 64) :=
  ⟨.tsu, 0x3100, 0, false, false, State.reset.wr (F.setupLockLock .tsu) 1, (F.regionCfgEnable, 0, 0), by decide +kernel⟩


theorem test_meets_TruncatedCountsExtend_1 : ∃ (t C L : Nat),
    (t < 2 ^ 32) ∧ (L % 2 ^ 32 = t) ∧ (-2 ^ 31 ≤ (L : Int) - C) ∧ ((L : Int) - C < 2 ^ 31) :=
  ⟨2 ^ 32 - 1, 2 ^ 32 + 5, 2 ^ 32 - 1, by decide⟩

theorem test_meets_TruncatedCountsExtend_2 : ∃ (t C : Nat),
    (t < 2 ^ 32) ∧ (2 ^ 31 ≤ C) :=
  ⟨0, 2 ^ 31, by decide⟩


theorem test_meets_HandlesAndGenerations : ∃ (g i : Nat),
    (1 ≤ g) ∧ (g ≤ 16383) ∧ (i < 2 ^ 18) :=
  ⟨16383, 0, by decide⟩


theorem test_meets_LockedTemplatesKeepTheirEntries_1 : ∃ (off t : Nat) (s : State),
    (Runs s .dbx) ∧ (0x40000 ≤ off) ∧ (off < 0x48000) ∧ (t = (off - 0x40000) / 0x200) ∧ ((∃ j < 132, s.rd (F.portCtrlTxTmpl .dbx) j = t ∨ s.rd (F.portCtrlRxTmpl .dbx) j = t)) ∧ ((∃ q ∈ s.tmplPartitions t, ∃ x ∈ s.d.plans, s.rd F.condPartPartition x.2.slot = q)) :=
  ⟨0x40000, 0, lockedTmpl, ⟨by decide, by decide, by decide, by decide, ⟨0, by decide, by decide⟩, ⟨0, by decide +kernel, _, List.mem_singleton_self _, by decide +kernel⟩⟩⟩

theorem test_meets_LockedTemplatesKeepTheirEntries_2 : ∃ (off k : Nat) (s : State),
    (Runs s .dbx) ∧ (0x48000 ≤ off) ∧ (off < 0x4C000) ∧ (k = (off - 0x48000) / 8) ∧ (s.is F.shareValid k = true) ∧ ((∃ x ∈ s.d.plans, s.rd F.condPartPartition x.2.slot = s.rd F.sharePartition k)) ∧ ((∃ t < 64, (∃ j < 132, s.rd (F.portCtrlTxTmpl .dbx) j = t ∨ s.rd (F.portCtrlRxTmpl .dbx) j = t) ∧ ∃ i < 144, entryClass (s.tmplEntry .dbx t i) ≠ 0 ∧ entryShare (s.tmplEntry .dbx t i) = k)) :=
  ⟨0x48000, 0, lockedTmpl, ⟨by decide, by decide, by decide, by decide, by decide +kernel, ⟨_, List.mem_singleton_self _, by decide +kernel⟩, ⟨0, by decide, ⟨0, by decide, by decide⟩, 0, by decide, by decide +kernel, by decide +kernel⟩⟩⟩


theorem test_meets_BadTagsEndWithoutEffect : ∃ (p : Part) (ring : Nat) (d : Desc) (s : State),
    (Runs s p) ∧ (s.ringRuns p ring = true) ∧ ((s.ring p ring).waiting = []) ∧ (s.rd (F.ringSqHeadConsumed p) ring ≠ (s.ring p ring).sqTail) ∧ ((bit d.flags 1 = true → (s.ring p ring).flight = [])) ∧ (((((s.wr (F.ringSqHeadConsumed p) (s.rd (F.ringSqHeadConsumed p) ring + 1) ring).wr64 (F.ringSeqLoSeq p) (F.ringSeqHiSeq p) (s.rd64 (F.ringSeqLoSeq p) (F.ringSeqHiSeq p) ring + 1) ring).fetchAhead p ring)).tagOk p ring (s.rd64 (F.ringSeqLoSeq p) (F.ringSeqHiSeq p) ring) d = false) :=
  ⟨Part.tsu, 1, badAsk, badTagState, ⟨by decide, by decide, by decide, by decide, by decide, by have e : descBody badAsk = descBody (descOf 0) := rfl; simp [State.tagOk, e]; refine ⟨by decide, ?_⟩; intro h; exact absurd h (Nat.succ_ne_self _)⟩⟩


theorem test_meets_FrameTicksFollowTheGrid_1 : ∃ (s : State) (l : Nat),
    (s.gridValid = true) ∧ (s.gridOrigin ≤ l) :=
  ⟨State.reset.wr (F.timeStatusGridValid .tsu) 1, 5, by decide⟩

theorem test_meets_FrameTicksFollowTheGrid_2 : ∃ (s : State) (l : Nat),
    (s.gridValid = true) ∧ (l < s.gridOrigin) :=
  ⟨(State.reset.wr (F.timeStatusGridValid .tsu) 1).wr F.frameOriginLoOrigin 7, 6, by decide⟩



theorem test_meets_ErrorLogHoldsSixtyFour_1 : ∃ (p : Part) (s : State),
    ((s.node p).errlog.length < 64) :=
  ⟨.tsu, State.reset, by decide⟩

theorem test_meets_ErrorLogHoldsSixtyFour_2 : ∃ (p : Part) (s : State),
    (64 ≤ (s.node p).errlog.length) :=
  ⟨.tsu, State.reset.modNode .tsu fun n => { n with errlog := List.replicate 64 ⟨1, 255, 0, 0⟩ }, by decide +kernel⟩


theorem test_meets_RegionRepeatersHoldTheCount_1 : ∃ (s : State),
    (Runs s .tsu) ∧ (s.tsu.lfn % 1024 = 0) :=
  ⟨State.reset, by decide⟩

theorem test_meets_RegionRepeatersHoldTheCount_2 : ∃ (s : State),
    (Runs s .tsu) ∧ (s.tsu.lfn % 1024 ≠ 0) :=
  ⟨State.reset.modNode .tsu fun n => { n with lfn := 3 }, by decide⟩

theorem test_meets_RegionRepeatersHoldTheCount_3 : ∃ (region roundTrip depth : Nat) (s : State),
    (Runs s .tsu) ∧ (s.regionDepth 16 region = some depth) ∧ ((s.region region).measured = false) :=
  ⟨0, 10, 1, (State.reset.wr F.regionCfgEnable 1 0).wr F.regionCfgFromTsu 1 0, by decide⟩

theorem test_meets_RegionRepeatersHoldTheCount_4 : ∃ (region roundTrip depth : Nat) (s : State),
    (Runs s .tsu) ∧ (s.regionDepth 16 region = some depth) ∧ ((s.region region).measured = true) ∧ ((s.region region).measAt + 1024 ≤ s.tsu.lfn) ∧ ((s.region region).fine < 2048) :=
  ⟨0, 10, 1, (((State.reset.wr F.regionCfgEnable 1 0).wr F.regionCfgFromTsu 1 0).modRegion 0 fun g => { g with measured := true }).modNode .tsu fun n => { n with lfn := 1024 }, by decide⟩


theorem test_meets_CivilTimeIsBroadcastAndApplied_1 : ∃ (s : State),
    (Runs s .dbx) ∧ (s.isRoot = true) ∧ (s.is F.selStatusMaster = true) ∧ ((s.dbx.lfn + 1) % 1024 = 16) ∧ (s.d.civNext = none) :=
  ⟨rootAt 15, by decide⟩

theorem test_meets_CivilTimeIsBroadcastAndApplied_2 : ∃ (inc : Nat) (s : State),
    (Runs s .dbx) ∧ (s.isRoot = true) ∧ (s.is F.selStatusMaster = true) ∧ ((s.dbx.lfn + 1) % 1024 = 16) ∧ (s.d.civNext = some (inc, none)) :=
  ⟨7, (rootAt 15).modD fun d => { d with civNext := some (7, none) }, by decide⟩

theorem test_meets_CivilTimeIsBroadcastAndApplied_3 : ∃ (inc sec frac : Nat) (s : State),
    (Runs s .dbx) ∧ (s.isRoot = true) ∧ (s.is F.selStatusMaster = true) ∧ ((s.dbx.lfn + 1) % 1024 = 16) ∧ (s.d.civNext = some (inc, some (sec, frac))) :=
  ⟨7, 8, 9, (rootAt 15).modD fun d => { d with civNext := some (7, some (8, 9)) }, by decide⟩

theorem test_meets_CivilTimeIsBroadcastAndApplied_4 : ∃ (apply sec frac inc civilState : Nat) (s : State),
    (Runs s .tsu) :=
  ⟨1, 1, 2, 3, 1, State.reset, by decide⟩

theorem test_meets_CivilTimeIsBroadcastAndApplied_5 : ∃ (apply sec frac inc civilState : Nat) (s : State),
    (Runs s .dbx) :=
  ⟨1, 1, 2, 3, 1, State.reset, by decide⟩

theorem test_meets_CivilTimeIsBroadcastAndApplied_6 : ∃ (p : Part) (pg : CivilPage) (s : State),
    (Runs s p) ∧ ((s.node p).civHold = some pg) ∧ (pg.apply = (s.node p).lfn) ∧ (pg.civilState = 1) ∧ ((s.node p).civSec = pg.sec) ∧ ((s.node p).civFrac = pg.frac) :=
  ⟨Part.tsu, ⟨0, 0, 0, 3, 1⟩, State.reset.modNode .tsu fun n => { n with civHold := some ⟨0, 0, 0, 3, 1⟩ }, by decide⟩

theorem test_meets_CivilTimeIsBroadcastAndApplied_7 : ∃ (p : Part) (pg : CivilPage) (s : State),
    (Runs s p) ∧ ((s.node p).civHold = some pg) ∧ (pg.apply = (s.node p).lfn) ∧ (pg.civilState = 1) ∧ ((s.node p).civSec ≠ pg.sec ∨ (s.node p).civFrac ≠ pg.frac) :=
  ⟨Part.tsu, ⟨0, 9, 0, 3, 1⟩, State.reset.modNode .tsu fun n => { n with civHold := some ⟨0, 9, 0, 3, 1⟩ }, by decide⟩

theorem test_meets_CivilTimeIsBroadcastAndApplied_8 : ∃ (p : Part) (pg : CivilPage) (s : State),
    (Runs s p) ∧ ((s.node p).civHold = some pg) ∧ (pg.apply = (s.node p).lfn) ∧ (pg.civilState = 0) ∧ (s.rd (F.timeStatusCivilState p) = 1) :=
  ⟨Part.tsu, ⟨0, 9, 0, 3, 0⟩, (State.reset.wr (F.timeStatusCivilState .tsu) 1).modNode .tsu fun n => { n with civHold := some ⟨0, 9, 0, 3, 0⟩ }, by decide⟩

theorem test_meets_CivilTimeIsBroadcastAndApplied_9 : ∃ (p : Part) (pg : CivilPage) (s : State),
    (Runs s p) ∧ ((s.node p).civHold = some pg) ∧ (pg.apply = (s.node p).lfn) ∧ (pg.civilState = 0) ∧ (s.rd (F.timeStatusCivilState p) ≠ 1) :=
  ⟨Part.tsu, ⟨0, 9, 0, 3, 0⟩, State.reset.modNode .tsu fun n => { n with civHold := some ⟨0, 9, 0, 3, 0⟩ }, by decide⟩

theorem test_meets_CivilTimeIsBroadcastAndApplied_10 : ∃ (p : Part) (pg : CivilPage) (s : State),
    (Runs s p) ∧ ((s.node p).civHold = some pg) ∧ (pg.apply = (s.node p).lfn) ∧ (2 ≤ pg.civilState) :=
  ⟨Part.tsu, ⟨0, 9, 0, 3, 2⟩, State.reset.modNode .tsu fun n => { n with civHold := some ⟨0, 9, 0, 3, 2⟩ }, by decide⟩

theorem test_meets_CivilTimeIsBroadcastAndApplied_11 : ∃ (p : Part) (s : State),
    (Runs s p) ∧ (s.rd (F.timeStatusCivilState p) = 1) ∧ ((s.node p).civLast + 4096 ≤ s.lfn p) :=
  ⟨Part.tsu, (State.reset.wr (F.timeStatusCivilState .tsu) 1).modNode .tsu fun n => { n with lfn := 4096 }, by decide⟩

theorem test_meets_CivilTimeIsBroadcastAndApplied_12 : ∃ (ring seq : Nat) (f : InFlight) (s : State),
    (Runs s .dbx) ∧ (Asked s .dbx ring seq 0x32 f) ∧ (civilNominal ≤ leNat f.desc.ext 0 8 + civilRange) ∧ (leNat f.desc.ext 0 8 ≤ civilNominal + civilRange) ∧ (bit (opnd f.desc 40 1) 0 = false) :=
  ⟨0, 5, civilAsk, civilAsked, by decide⟩

theorem test_meets_CivilTimeIsBroadcastAndApplied_13 : ∃ (ring seq : Nat) (f : InFlight) (s : State),
    (Runs s .dbx) ∧ (Asked s .dbx ring seq 0x32 f) ∧ (civilNominal ≤ leNat f.desc.ext 0 8 + civilRange) ∧ (leNat f.desc.ext 0 8 ≤ civilNominal + civilRange) ∧ (bit (opnd f.desc 40 1) 0 = true) ∧ (s.rd (F.timeStatusCivilState .dbx) = 0) :=
  ⟨0, 5, civilAskInit, civilAskedInit, by decide⟩

theorem test_meets_CivilTimeIsBroadcastAndApplied_14 : ∃ (ring seq : Nat) (f : InFlight) (s : State),
    (Runs s .dbx) ∧ (Asked s .dbx ring seq 0x32 f) ∧ (civilNominal ≤ leNat f.desc.ext 0 8 + civilRange) ∧ (leNat f.desc.ext 0 8 ≤ civilNominal + civilRange) ∧ (bit (opnd f.desc 40 1) 0 = true) ∧ (s.rd (F.timeStatusCivilState .dbx) ≠ 0) :=
  ⟨0, 5, civilAskInit, civilAskedInit.wr (F.timeStatusCivilState .dbx) 1, by decide⟩

theorem test_meets_CivilTimeIsBroadcastAndApplied_15 : ∃ (ring seq : Nat) (f : InFlight) (s : State),
    (Runs s .dbx) ∧ (Asked s .dbx ring seq 0x32 f) ∧ (leNat f.desc.ext 0 8 + civilRange < civilNominal ∨ civilNominal + civilRange < leNat f.desc.ext 0 8) :=
  ⟨0, 5, askFor 0x32, asked .dbx 0x32, by decide⟩


theorem test_meets_MeasurementSetsRun_1 : ∃ (p : Part) (v : Word) (s : State),
    (Runs s p) ∧ (bit v.toNat 31 = true) ∧ ((((s.wr (F.tdcCtrlPort p) (bits v.toNat 0 8)).wr (F.tdcCtrlMode p) (bits v.toNat 8 3)).wr (F.tdcCtrlNM1 p) (bits v.toNat 12 16)).is (F.tdcStatusBusy p) = false) ∧ (bits v.toNat 8 3 = 0) :=
  ⟨Part.tsu, 0x80000000, State.reset, by decide⟩

theorem test_meets_MeasurementSetsRun_2 : ∃ (p : Part) (v : Word) (s : State),
    (Runs s p) ∧ (bit v.toNat 31 = true) ∧ ((((s.wr (F.tdcCtrlPort p) (bits v.toNat 0 8)).wr (F.tdcCtrlMode p) (bits v.toNat 8 3)).wr (F.tdcCtrlNM1 p) (bits v.toNat 12 16)).is (F.tdcStatusBusy p) = false) ∧ (1 ≤ bits v.toNat 8 3) ∧ (bits v.toNat 8 3 ≤ 4) ∧ ((p = .tsu → bits v.toNat 8 3 ≤ 2)) ∧ ((((s.wr (F.tdcCtrlPort p) (bits v.toNat 0 8)).wr (F.tdcCtrlMode p) (bits v.toNat 8 3)).wr (F.tdcCtrlNM1 p) (bits v.toNat 12 16)).suppliesTime p (bits v.toNat 0 8) = false) :=
  ⟨Part.tsu, 0x80000100, State.reset, by decide⟩

theorem test_meets_MeasurementSetsRun_3 : ∃ (p : Part) (v : Word) (s : State),
    (Runs s p) ∧ (bit v.toNat 31 = true) ∧ ((((s.wr (F.tdcCtrlPort p) (bits v.toNat 0 8)).wr (F.tdcCtrlMode p) (bits v.toNat 8 3)).wr (F.tdcCtrlNM1 p) (bits v.toNat 12 16)).is (F.tdcStatusBusy p) = false) ∧ (5 ≤ bits v.toNat 8 3 ∨ (p = .tsu ∧ 3 ≤ bits v.toNat 8 3) ∨ (1 ≤ bits v.toNat 8 3 ∧ bits v.toNat 8 3 ≤ 4 ∧ (((s.wr (F.tdcCtrlPort p) (bits v.toNat 0 8)).wr (F.tdcCtrlMode p) (bits v.toNat 8 3)).wr (F.tdcCtrlNM1 p) (bits v.toNat 12 16)).suppliesTime p (bits v.toNat 0 8) = true)) :=
  ⟨Part.tsu, 0x80000500, State.reset, by decide⟩

theorem test_meets_MeasurementSetsRun_4 : ∃ (p : Part) (v : Word) (s : State),
    (Runs s p) ∧ (bit v.toNat 31 = false ∨ (((s.wr (F.tdcCtrlPort p) (bits v.toNat 0 8)).wr (F.tdcCtrlMode p) (bits v.toNat 8 3)).wr (F.tdcCtrlNM1 p) (bits v.toNat 12 16)).is (F.tdcStatusBusy p) = true) :=
  ⟨Part.tsu, 0, State.reset, by decide⟩

theorem test_meets_MeasurementSetsRun_5 : ∃ (p : Part) (t : TdcSet) (s : State),
    (Runs s p) ∧ ((s.node p).tdc = some t) ∧ (t.acc.tried < t.req) ∧ (mtBefore (s.now p) (mtAdd t.since (s.tdcTimeout p)) = false) :=
  ⟨Part.tsu, ⟨0, 1, 2, {}, ⟨0, 0⟩⟩, State.reset.modNode .tsu fun n => { n with lfn := 2 ^ 20, tdc := some ⟨0, 1, 2, {}, ⟨0, 0⟩⟩ }, by decide⟩

theorem test_meets_MeasurementSetsRun_6 : ∃ (p : Part) (interval : Nat) (t : TdcSet) (s : State),
    (Runs s p) ∧ ((s.node p).tdc = some t) ∧ (t.acc.tried < t.req) ∧ (s.tdcEdges p t = true) ∧ (interval ≤ 16 * s.tdcTimeout p) :=
  ⟨Part.tsu, 7, ⟨0, 1, 2, {}, ⟨0, 0⟩⟩, State.reset.modNode .tsu fun n => { n with tdc := some ⟨0, 1, 2, {}, ⟨0, 0⟩⟩ }, by decide⟩

theorem test_meets_MeasurementSetsRun_7 : ∃ (p : Part) (interval : Nat) (t : TdcSet) (s : State),
    (Runs s p) ∧ ((s.node p).tdc = some t) ∧ (t.acc.tried < t.req) ∧ (s.tdcEdges p t = true) ∧ (16 * s.tdcTimeout p < interval) :=
  ⟨Part.tsu, 2 ^ 40, ⟨0, 1, 2, {}, ⟨0, 0⟩⟩, State.reset.modNode .tsu fun n => { n with tdc := some ⟨0, 1, 2, {}, ⟨0, 0⟩⟩ }, by decide⟩

theorem test_meets_MeasurementSetsRun_8 : ∃ (p : Part) (t : TdcSet) (s : State),
    (Runs s p) ∧ ((s.node p).tdc = some t) ∧ (t.acc.tried = t.req) ∧ (t.mode ≠ 0 ∨ t.acc.n = 0) :=
  ⟨Part.tsu, ⟨0, 1, 1, { n := 1 }, ⟨0, 0⟩⟩, State.reset.modNode .tsu fun n => { n with tdc := some ⟨0, 1, 1, { n := 1 }, ⟨0, 0⟩⟩ }, by decide⟩

theorem test_meets_MeasurementSetsRun_9 : ∃ (p : Part) (t : TdcSet) (s : State),
    (Runs s p) ∧ ((s.node p).tdc = some t) ∧ (t.acc.tried = t.req) ∧ (t.mode = 0) ∧ (0 < t.acc.n) :=
  ⟨Part.tsu, ⟨0, 0, 1, { n := 1 }, ⟨0, 0⟩⟩, State.reset.modNode .tsu fun n => { n with tdc := some ⟨0, 0, 1, { n := 1 }, ⟨0, 0⟩⟩ }, by decide⟩

theorem test_meets_MeasurementSetsRun_10 : ∃ (p : Part) (port : Nat) (a1 a2 a3 : List (Option Nat)) (s : State),
    (Runs s p) ∧ ((s.port p port).selfDue ≤ s.lfn p) ∧ (tapBad p port 1 a1 = false) ∧ (tapBad p port 2 a2 = false) ∧ (tapBad p port 3 a3 = false) :=
  ⟨Part.tsu, 0, [some (Config.tapExpected 0x5407 0 1)], [some (Config.tapExpected 0x5407 0 2)], [some (Config.tapExpected 0x5407 0 3)], State.reset, ⟨by decide, by decide, goodTap .tsu 0 1, goodTap .tsu 0 2, goodTap .tsu 0 3⟩⟩

theorem test_meets_MeasurementSetsRun_11 : ∃ (p : Part) (port : Nat) (a1 a2 a3 : List (Option Nat)) (s : State),
    (Runs s p) ∧ ((s.port p port).selfDue ≤ s.lfn p) ∧ (tapBad p port 1 a1 = true) ∧ (tapBad p port 2 a2 = true) ∧ (tapBad p port 3 a3 = true) :=
  ⟨Part.tsu, 0, [], [], [], State.reset, by decide⟩


theorem test_meets_LoopClosureJudgesCables_1 : ∃ (port p0 p1 p2 p3 : Nat) (s : State),
    (Runs s .dbx) ∧ (port < 128) :=
  ⟨3, 1, 2, 3, 4, State.reset, by decide⟩

theorem test_meets_LoopClosureJudgesCables_2 : ∃ (port p0 p1 p2 p3 : Nat) (s : State),
    (Runs s .dbx) ∧ (port = 130 ∨ (port = 131 ∧ s.is F.x1CfgActive = true)) :=
  ⟨130, 1, 2, 3, 4, State.reset, by decide⟩

theorem test_meets_LoopClosureJudgesCables_3 : ∃ (port p0 p1 p2 p3 : Nat) (s : State),
    (Runs s .dbx) ∧ (128 ≤ port) ∧ (port ≠ 130) ∧ ((port = 131 → s.is F.x1CfgActive = false)) :=
  ⟨129, 1, 2, 3, 4, State.reset, by decide⟩

theorem test_meets_LoopClosureJudgesCables_4 : ∃ (port p0 p1 p2 p3 : Nat) (s : State),
    (Runs s .tsu) :=
  ⟨0, 1, 2, 3, 4, State.reset, by decide⟩

theorem test_meets_LoopClosureJudgesCables_5 : ∃ (v : Word) (s : State),
    (Runs s .dbx) ∧ (bit v.toNat 0 = true) :=
  ⟨1, State.reset, by decide⟩

theorem test_meets_LoopClosureJudgesCables_6 : ∃ (v : Word) (s : State),
    (Runs s .dbx) ∧ (bit v.toNat 0 = false) :=
  ⟨2, State.reset, by decide⟩

theorem test_meets_LoopClosureJudgesCables_7 : ∃ (s : State),
    (Runs s .dbx) ∧ (s.is F.closeCtrlPeriodic = true) ∧ (s.d.closeDue ≤ s.dbx.lfn) :=
  ⟨State.reset.wr F.closeCtrlPeriodic 1, by decide⟩


theorem test_meets_ReferenceInputsChangeState_1 : ∃ (i : Nat) (delta : Int) (s : State),
    (Runs s .dbx) ∧ (s.isRoot = true) ∧ (i < 2) ∧ (s.refEnabled i = true) ∧ (s.refState i ≠ 0) :=
  ⟨0, 0, rootRef 0 3, by decide⟩

theorem test_meets_ReferenceInputsChangeState_2 : ∃ (i : Nat) (s : State),
    (Runs s .dbx) ∧ (s.isRoot = true) ∧ (i < 2) ∧ (s.refState i = 1) :=
  ⟨0, rootRef 0 1, by decide⟩

theorem test_meets_ReferenceInputsChangeState_3 : ∃ (i ssm : Nat) (event : Bool) (freqOff delta : Int) (s : State),
    (Runs s .dbx) ∧ (s.isRoot = true) ∧ (i < 2) ∧ (s.refState i = 2 ∨ s.refState i = 4) ∧ ((s.takePdu i event ssm freqOff).pduQualifies i ssm freqOff = true) :=
  ⟨0, 2, false, 0, 0, rootPdu, by decide⟩

theorem test_meets_ReferenceInputsChangeState_4 : ∃ (i ssm : Nat) (event : Bool) (freqOff delta : Int) (s : State),
    (Runs s .dbx) ∧ (s.isRoot = true) ∧ (i < 2) ∧ (s.refState i = 2 ∨ s.refState i = 4) ∧ ((s.takePdu i event ssm freqOff).pduQualifies i ssm freqOff = false) :=
  ⟨0, 15, false, 0, 0, rootPdu, by decide⟩

theorem test_meets_ReferenceInputsChangeState_5 : ∃ (i ssm : Nat) (event : Bool) (freqOff delta : Int) (s : State),
    (Runs s .dbx) ∧ (s.isRoot = true) ∧ (i < 2) ∧ (s.refState i = 3) ∧ (treeOfSsm (ssm % 16) = 0 ∨ treeOfSsm (s.rd F.refStatSsm i) < treeOfSsm (ssm % 16) ∨ freqOk freqOff = false) :=
  ⟨0, 15, false, 0, 0, rootRef 0 3, by decide⟩

theorem test_meets_ReferenceInputsChangeState_6 : ∃ (i ssm : Nat) (event : Bool) (freqOff delta : Int) (s : State),
    (Runs s .dbx) ∧ (s.isRoot = true) ∧ (i < 2) ∧ (s.refState i = 3) ∧ (1 ≤ treeOfSsm (ssm % 16)) ∧ (treeOfSsm (ssm % 16) ≤ treeOfSsm (s.rd F.refStatSsm i)) ∧ (freqOk freqOff = true) :=
  ⟨0, 2, false, 0, 0, (rootRef 0 3).wr F.refStatSsm 2 0, by decide⟩

theorem test_meets_ReferenceInputsChangeState_7 : ∃ (i ssm : Nat) (freqOff : Int) (r : RefIn) (s : State),
    (r = fgetD s.d.refs i {}) ∧ (r.infoSsm = ssm % 16) ∧ (1 ≤ r.run) ∧ (1 ≤ treeOfSsm (ssm % 16)) ∧ (treeOfSsm (ssm % 16) ≤ (s.takePdu i false ssm freqOff).qlMin i) ∧ (i < 2) ∧ (freqOk freqOff = true) :=
  ⟨0, 2, 0, { run := 1, infoSsm := 2 }, rootPdu, by decide⟩

theorem test_meets_ReferenceInputsChangeState_8 : ∃ (i : Nat) (s : State),
    (Runs s .dbx) ∧ (s.isRoot = true) ∧ (i < 2) ∧ (s.refState i = 2) ∧ ((fgetD s.d.refs i {}).qualAt + lfOfS 10 ≤ s.dbx.lfn) :=
  ⟨0, (rootRef 0 2).modNode .dbx fun n => { n with lfn := 2 ^ 30 }, by decide⟩

theorem test_meets_ReferenceInputsChangeState_9 : ∃ (i : Nat) (delta : Int) (s : State),
    (Runs s .dbx) ∧ (s.isRoot = true) ∧ (i < 2) ∧ (s.refState i = 2 ∨ s.refState i = 4) ∧ ((fgetD s.d.refs i {}).lastPdu + lfOfS 5 ≤ s.dbx.lfn) :=
  ⟨0, 0, (rootRef 0 2).modNode .dbx fun n => { n with lfn := 2 ^ 30 }, by decide⟩

theorem test_meets_ReferenceInputsChangeState_10 : ∃ (i : Nat) (delta : Int) (s : State),
    (Runs s .dbx) ∧ (s.isRoot = true) ∧ (i < 2) ∧ (s.refState i = 3) ∧ ((fgetD s.d.refs i {}).lastPdu + lfOfS 5 ≤ s.dbx.lfn) :=
  ⟨0, 0, (rootRef 0 3).modNode .dbx fun n => { n with lfn := 2 ^ 30 }, by decide⟩

theorem test_meets_ReferenceInputsChangeState_11 : ∃ (freqOff delta : Int) (s : State),
    (Runs s .dbx) ∧ (s.isRoot = true) ∧ (s.refEnabled 2 = true) ∧ (s.refState 2 ≠ 3) ∧ (freqOff.natAbs ≤ 9200) :=
  ⟨0, 0, rootRef 2 1, by decide⟩

theorem test_meets_ReferenceInputsChangeState_12 : ∃ (delta : Int) (s : State),
    (Runs s .dbx) ∧ (s.isRoot = true) ∧ (s.refEnabled 2 = true) ∧ (s.refState 2 ≠ 0) :=
  ⟨0, rootRef 2 3, by decide⟩

theorem test_meets_ReferenceInputsChangeState_13 : ∃ (i : Nat) (freqOff delta : Int) (s : State),
    (Runs s .dbx) ∧ (s.isRoot = true) ∧ (i < 3) ∧ (s.refState i = 3) ∧ (9200 < freqOff.natAbs) :=
  ⟨0, 10000, 0, rootRef 0 3, by decide⟩

theorem test_meets_ReferenceInputsChangeState_14 : ∃ (i : Nat) (s : State),
    (Runs s .dbx) ∧ (s.isRoot = true) ∧ (s.rd F.selStatusSelState = 1) ∧ (s.rd F.selStatusSelected = i) :=
  ⟨0, ((rootRef 0 3).wr F.selStatusSelState 1).wr F.selStatusSelected 0, by decide⟩


theorem test_meets_PhaseStepsArePlannedAndEnded_1 : ∃ (p : Part) (delta : Int) (l0 : Nat) (s : State),
    (Runs s p) ∧ ((s.node p).ramp = none) ∧ ((s.node p).lfn < l0 + 1536) :=
  ⟨Part.tsu, 5, 512, State.reset, by decide⟩

theorem test_meets_PhaseStepsArePlannedAndEnded_2 : ∃ (p : Part) (delta : Int) (r : Ramp) (s : State),
    (Runs s p) ∧ ((s.node p).ramp = some r) ∧ (r.l0 + 1536 ≤ s.lfn p) ∧ ((p = .dbx → s.d.deferred = none)) :=
  ⟨Part.tsu, 0, ⟨1, 0, 0⟩, State.reset.modNode .tsu fun n => { n with ramp := some ⟨1, 0, 0⟩, lfn := 2000 }, by decide⟩

theorem test_meets_PhaseStepsArePlannedAndEnded_3 : ∃ (delta : Int) (r : Ramp) (a b c : Nat) (s : State),
    (Runs s .dbx) ∧ (s.dbx.ramp = some r) ∧ (r.l0 + 1536 ≤ s.lfn .dbx) ∧ (s.d.deferred = some (a, b, c)) :=
  ⟨0, ⟨1, 0, 0⟩, 0, 1, 2, (State.reset.modNode .dbx fun n => { n with ramp := some ⟨1, 0, 0⟩, lfn := 2000 }).modD fun d => { d with deferred := some (0, 1, 2) }, by decide⟩

theorem test_meets_PhaseStepsArePlannedAndEnded_4 : ∃ (warm : Bool) (s : State),
    (Runs s .dbx) ∧ (s.isRoot = true) ∧ (s.is F.selStatusOcxoWarm ≠ warm) :=
  ⟨true, rootRef 0 0, by decide⟩

theorem test_meets_PhaseStepsArePlannedAndEnded_5 : ∃ (delta : Int) (s : State),
    (Runs s .dbx) ∧ (s.isRoot = true) ∧ (s.is F.selStatusMaster = false) ∧ (s.masterFailed = true) ∧ ((((s.wr F.selStatusMaster 1).modNode .dbx fun n =>
        { n with fromHold := s.timeState .dbx == 3 || (s.timeState .dbx == 1 && s.dbx.fromHold) }).rootValid).rd F.selStatusSelState = 1) :=
  ⟨0, (followerState 1).wr F.selStatusSelState 1, by decide⟩

theorem test_meets_PhaseStepsArePlannedAndEnded_6 : ∃ (delta : Int) (s : State),
    (Runs s .dbx) ∧ (s.isRoot = true) ∧ (s.is F.selStatusMaster = false) ∧ (s.masterFailed = true) ∧ ((((s.wr F.selStatusMaster 1).modNode .dbx fun n =>
        { n with fromHold := s.timeState .dbx == 3 || (s.timeState .dbx == 1 && s.dbx.fromHold) }).rootValid).rd F.selStatusSelState ≠ 1) :=
  ⟨0, followerState 0, by decide⟩


theorem test_meets_OutputsFollowTimeAndAnchors_1 : ∃ (i sub : Nat) (s : State),
    (Runs s .dbx) ∧ (s.isRoot = true) ∧ (i < 2) :=
  ⟨0, 1, rootRef 0 0, by decide⟩

theorem test_meets_OutputsFollowTimeAndAnchors_2 : ∃ (k : Nat) (e : MTime) (s : State),
    (Runs s .dbx) ∧ (s.isRoot = true) ∧ (k < 6) ∧ (s.rd F.outCfgMode k = 2) ∧ (e = (fget? s.d.anchors (s.rd F.outCfgSrc k)).getD (fgetD s.d.outCfgAt k ⟨0, 0⟩)) ∧ (mtBefore (s.now .dbx) (mtAdd e (2 * s.outPeriod k)) = false) :=
  ⟨0, ⟨0, 0⟩, anchorState, by decide⟩

theorem test_meets_OutputsFollowTimeAndAnchors_3 : ∃ (k sub : Nat) (s : State),
    (Runs s .dbx) ∧ (k < 6) ∧ (s.timeValid .dbx = true) ∧ (s.is (F.bootStatusHalted .dbx) = false) ∧ (s.edgeDue k ⟨s.dbx.lfn, sub % 8192⟩ = true) ∧ (fget? s.d.outLast k ≠ some ⟨s.dbx.lfn, sub % 8192⟩) :=
  ⟨0, 0, outputState, by decide⟩

theorem test_meets_OutputsFollowTimeAndAnchors_4 : ∃ (sub : Nat) (s : State),
    (Runs s .dbx) ∧ (s.timeValid .dbx = true) ∧ (s.is (F.bootStatusHalted .dbx) = false) ∧ (s.edgeDue 6 ⟨s.dbx.lfn, sub % 8192⟩ = true) ∧ (fget? s.d.outLast 6 ≠ some ⟨s.dbx.lfn, sub % 8192⟩) :=
  ⟨0, outputState.wr F.ref10mCtrlEn 1, by decide⟩

theorem test_meets_OutputsFollowTimeAndAnchors_5 : ∃ (s : State),
    (Runs s .dbx) ∧ (s.isRoot = true) :=
  ⟨rootRef 0 0, by decide⟩


theorem test_meets_OpticsAreSampledAndJudged_1 : ∃ (p : Part) (rec_ : DynRec) (s : State),
    (Runs s p) ∧ ((p = .dbx → rec_.type = 3 → rec_.code ≠ 3)) :=
  ⟨Part.tsu, ⟨1, 2, 3, 0, 0, 0, 0, 0, 0⟩, State.reset, by decide⟩

theorem test_meets_OpticsAreSampledAndJudged_2 : ∃ (k b0 bias1 : Nat) (pwr0 pwr1 : Int) (rx : List (Nat × Int × Int)) (s : State),
    (Runs s .dbx) ∧ (k < 8) ∧ ((rx.foldl (fun s x => s.takeRx .dbx x.1 x.2.1 x.2.2) s).is F.elsStatPresent k = true) :=
  ⟨0, 1, 2, 3, 4, [], State.reset.wr F.elsStatPresent 1 0, by decide⟩

theorem test_meets_OpticsAreSampledAndJudged_3 : ∃ (k bias1 : Nat) (pwr0 pwr1 : Int) (rx : List (Nat × Int × Int)) (s : State),
    (Runs s .dbx) ∧ (k < 8) ∧ ((rx.foldl (fun s x => s.takeRx .dbx x.1 x.2.1 x.2.2) s).is F.elsStatPresent k = true) :=
  ⟨0, 2, 3, 4, [], State.reset.wr F.elsStatPresent 1 0, by decide⟩

theorem test_meets_OpticsAreSampledAndJudged_4 : ∃ (k bias1 : Nat) (b0 : Option Nat) (pwr0 pwr1 : Int) (rx : List (Nat × Int × Int)) (s : State),
    (Runs s .dbx) ∧ ((rx.foldl (fun s x => s.takeRx .dbx x.1 x.2.1 x.2.2) s).is F.elsStatPresent k = false) :=
  ⟨0, 2, none, 3, 4, [], State.reset, by decide⟩

theorem test_meets_OpticsAreSampledAndJudged_5 : ∃ (k c : Nat) (s : State),
    (Runs s .dbx) ∧ (fget? s.d.elsSince k = some c) ∧ (k < 8) ∧ (s.elsOn k = true) ∧ (s.rd F.elsBolBiasCh0 k + s.rd F.elsBolBiasCh1 k + s.rd F.elsBolPwrCh0 k + s.rd F.elsBolPwrCh1 k = 0) ∧ (c + 2 ^ 30 ≤ s.dbx.lfn) :=
  ⟨0, 0, bolState, by decide⟩

theorem test_meets_OpticsAreSampledAndJudged_6 : ∃ (v : Word) (s : State),
    (Runs s .dbx) :=
  ⟨1, State.reset, by decide⟩

theorem test_meets_OpticsAreSampledAndJudged_7 : ∃ (k : Nat) (s : State),
    (Runs s .dbx) ∧ (k < 8) ∧ (s.is F.elsStatPresent k = false) :=
  ⟨0, State.reset, by decide⟩

theorem test_meets_OpticsAreSampledAndJudged_8 : ∃ (k : Nat) (s : State),
    (Runs s .dbx) ∧ (k < 8) ∧ (s.is F.elsStatPresent k = true) :=
  ⟨0, State.reset.wr F.elsStatPresent 1 0, by decide⟩

theorem test_meets_OpticsAreSampledAndJudged_9 : ∃ (off : Nat) (v : Word) (s : State),
    (Runs s .tsu) ∧ (0x2800 ≤ off) ∧ (off < 0x3000) ∧ (s.tsuTmplLocked ((off - 0x2800) / 0x200) = false) :=
  ⟨0x2800, 1, State.reset, ⟨by decide, by decide, by decide, by simp [State.tsuTmplLocked, State.reset]⟩⟩

theorem test_meets_OpticsAreSampledAndJudged_10 : ∃ (off : Nat) (v : Word) (s : State),
    (Runs s .tsu) ∧ (0x2800 ≤ off) ∧ (off < 0x3000) ∧ (s.tsuTmplLocked ((off - 0x2800) / 0x200) = true) :=
  ⟨0x2800, 1, lockedTsuTmpl, by decide +kernel⟩

theorem test_meets_OpticsAreSampledAndJudged_11 : ∃ (off : Nat) (v : Word) (s : State),
    (Runs s .dbx) ∧ (0x40000 ≤ off) ∧ (off < 0x48000) ∧ (s.tmplLocked ((off - 0x40000) / 0x200) = false) :=
  ⟨0x40200, 1, State.reset, by decide +kernel⟩

theorem test_meets_OpticsAreSampledAndJudged_12 : ∃ (off : Nat) (v : Word) (s : State),
    (Runs s .dbx) ∧ (0x40000 ≤ off) ∧ (off < 0x48000) ∧ (s.tmplLocked ((off - 0x40000) / 0x200) = true) :=
  ⟨0x40000, 1, lockedTmpl, by decide +kernel⟩

theorem test_meets_OpticsAreSampledAndJudged_13 : ∃ (off : Nat) (v : Word) (s : State),
    (Runs s .dbx) ∧ (0x48000 ≤ off) ∧ (off < 0x4C000) ∧ (s.shareLocked ((off - 0x48000) / 8) = false) :=
  ⟨0x48000, 1, State.reset, by decide +kernel⟩

theorem test_meets_OpticsAreSampledAndJudged_14 : ∃ (off : Nat) (v : Word) (s : State),
    (Runs s .dbx) ∧ (0x48000 ≤ off) ∧ (off < 0x4C000) ∧ (s.shareLocked ((off - 0x48000) / 8) = true) :=
  ⟨0x48000, 1, lockedTmpl, by decide +kernel⟩


theorem test_meets_LinkFramesAreCountedAndSent_1 : ∃ (s : State),
    (Runs s .tsu) :=
  ⟨State.reset, by decide⟩

theorem test_meets_LinkFramesAreCountedAndSent_2 : ∃ (s : State),
    (Runs s .dbx) :=
  ⟨State.reset, by decide⟩

theorem test_meets_LinkFramesAreCountedAndSent_3 : ∃ (p : Part) (port : Nat) (s : State),
    (s.rd (F.portStateState p) port ≠ 4) :=
  ⟨Part.tsu, 0, State.reset, by decide⟩


theorem test_meets_LinkFramesAreReceived_1 : ∃ (p : Part) (port : Nat) (frame : LinkFrame) (s : State),
    (Runs s p) ∧ (2 ≤ s.rd (F.portStateState p) port) :=
  ⟨Part.tsu, 0, ⟨1, 0, []⟩, State.reset.wr (F.portStateState .tsu) 4 0, by decide⟩

theorem test_meets_LinkFramesAreReceived_2 : ∃ (p : Part) (port : Nat) (frame : LinkFrame) (s : State),
    (Runs s p) ∧ (s.rd (F.portStateState p) port < 2) :=
  ⟨Part.tsu, 0, ⟨1, 0, []⟩, State.reset, by decide⟩

theorem test_meets_LinkFramesAreReceived_3 : ∃ (p : Part) (port lfnLow mask : Nat) (r : LinkFrame) (s : State),
    (Runs s p) ∧ (s.up p port = true) ∧ (((s.port p port).retry.find? fun r => r.label % 256 == lfnLow % 256) = some r) :=
  ⟨Part.tsu, 0, 1, 3, ⟨1, 0, []⟩, upPort fun t => { t with retry := [⟨1, 0, []⟩] }, by decide⟩

theorem test_meets_LinkFramesAreReceived_4 : ∃ (p : Part) (port lfnLow mask : Nat) (s : State),
    (Runs s p) ∧ (s.up p port = true) ∧ (((s.port p port).retry.find? fun r => r.label % 256 == lfnLow % 256) = none) :=
  ⟨Part.tsu, 0, 1, 3, upPort fun t => t, by decide⟩

theorem test_meets_LinkFramesAreReceived_5 : ∃ (p : Part) (port label : Nat) (m : Missing) (s : State),
    (Runs s p) ∧ (((s.port p port).missing.find? fun m => m.label == label) = some m) ∧ (m.nakAt + s.nakWait p port ≤ s.lfn p) ∧ (m.naks < max 1 (s.rd (F.linkCfgNakMax p))) :=
  ⟨Part.tsu, 0, 1, { label := 1, layout := 0, slots := [], mask := 1, naks := 0, nakAt := 0, copies := 0 }, missPort 0, by decide⟩

theorem test_meets_LinkFramesAreReceived_6 : ∃ (p : Part) (port label : Nat) (m : Missing) (s : State),
    (Runs s p) ∧ (((s.port p port).missing.find? fun m => m.label == label) = some m) ∧ (m.nakAt + s.nakWait p port ≤ s.lfn p) ∧ (max 1 (s.rd (F.linkCfgNakMax p)) ≤ m.naks) :=
  ⟨Part.tsu, 0, 1, { label := 1, layout := 0, slots := [], mask := 1, naks := 255, nakAt := 0, copies := 0 }, missPort 255, by decide⟩

theorem test_meets_LinkFramesAreReceived_7 : ∃ (p : Part) (port : Nat) (s : State),
    ((s.port p port).missing = []) :=
  ⟨Part.tsu, 0, State.reset, by decide⟩


theorem test_meets_PortsChangeStateByLockAndControl_1 : ∃ (p : Part) (port : Nat) (lane : LaneHeaders) (s : State),
    (Runs s p) ∧ (port < portCount p) ∧ (lane.lane < 2) ∧ (64 ≤ lane.headers.length) ∧ (headerErrors lane = 0) ∧ ((((s.setLock p port lane.lane true).setClean p port lane.lane (some (s.lfn p))).modNode p fun n => { n with lockLane := fset n.lockLane port lane.lane }).rd (F.portStateState p) port ≤ 1) ∧ ((((s.setLock p port lane.lane true).setClean p port lane.lane (some (s.lfn p))).modNode p fun n => { n with lockLane := fset n.lockLane port lane.lane }).is (F.portCtrlEnable p) port = true) :=
  ⟨Part.tsu, 0, ⟨0, List.replicate 64 1⟩, State.reset.wr (F.portCtrlEnable .tsu) 1 0, by decide +kernel⟩

theorem test_meets_PortsChangeStateByLockAndControl_2 : ∃ (p : Part) (port : Nat) (lane : LaneHeaders) (s : State),
    (Runs s p) ∧ (port < portCount p) ∧ (lane.lane < 2) ∧ (64 ≤ lane.headers.length) ∧ (headerErrors lane = 0) ∧ (2 ≤ (((s.setLock p port lane.lane true).setClean p port lane.lane (some (s.lfn p))).modNode p fun n => { n with lockLane := fset n.lockLane port lane.lane }).rd (F.portStateState p) port) :=
  ⟨Part.tsu, 0, ⟨1, List.replicate 64 2⟩, upPort fun t => t, by decide +kernel⟩

theorem test_meets_PortsChangeStateByLockAndControl_3 : ∃ (p : Part) (port : Nat) (s : State),
    (s.is (F.bootPortOneLane p) port = false) :=
  ⟨Part.tsu, 0, State.reset, by decide⟩

theorem test_meets_PortsChangeStateByLockAndControl_4 : ∃ (p : Part) (port : Nat) (lane : LaneHeaders) (s : State),
    (Runs s p) ∧ (port < portCount p) ∧ (lane.lane < 2) ∧ ((if lane.lane = 0 then (s.port p port).lock0 else (s.port p port).lock1) = true) ∧ (16 ≤ headerErrors lane) ∧ (2 ≤ ((s.setLock p port lane.lane false).setClean p port lane.lane none).rd (F.portStateState p) port) ∧ ((if lane.lane = 0 then (s.port p port).lock1 else (s.port p port).lock0) = true) :=
  ⟨Part.tsu, 0, ⟨0, List.replicate 64 0⟩, upPort fun t => { t with lock0 := true, lock1 := true }, by decide +kernel⟩

theorem test_meets_PortsChangeStateByLockAndControl_5 : ∃ (p : Part) (port : Nat) (lane : LaneHeaders) (s : State),
    (Runs s p) ∧ (port < portCount p) ∧ (lane.lane < 2) ∧ ((if lane.lane = 0 then (s.port p port).lock0 else (s.port p port).lock1) = true) ∧ (16 ≤ headerErrors lane) ∧ (((s.setLock p port lane.lane false).setClean p port lane.lane none).rd (F.portStateState p) port < 2 ∨ (if lane.lane = 0 then (s.port p port).lock1 else (s.port p port).lock0) = false) :=
  ⟨Part.tsu, 0, ⟨1, List.replicate 64 3⟩, upPort fun t => { t with lock1 := true }, by decide +kernel⟩

theorem test_meets_PortsChangeStateByLockAndControl_6 : ∃ (p : Part) (port : Nat) (lane : LaneHeaders) (s : State),
    (Runs s p) ∧ (port < portCount p) ∧ (lane.lane < 2) ∧ ((if lane.lane = 0 then (s.port p port).lock0 else (s.port p port).lock1) = true) ∧ (1 ≤ headerErrors lane) ∧ (headerErrors lane < 16) :=
  ⟨Part.tsu, 0, ⟨1, [0, 1, 2]⟩, upPort fun t => { t with lock1 := true }, by decide +kernel⟩

theorem test_meets_PortsChangeStateByLockAndControl_7 : ∃ (p : Part) (port : Nat) (s : State),
    (Runs s p) ∧ (s.darkLong p port = true) ∧ (port < portCount p) ∧ (s.rd (F.portStateState p) port ≠ 1) ∧ (s.rd (F.portCtrlLoop p) port ≠ 1) ∧ (s.is (F.portCtrlEnable p) port = true) ∧ ((((s.setPort p port 1).forgetPeer p port).modPort p port fun t => { t with lock0 := false, lock1 := false, clean0 := none, clean1 := none }).is (F.portCtrlExpected p) port = true) :=
  ⟨Part.tsu, 0, (darkPort.wr (F.portCtrlExpected .tsu) 1 0), by decide +kernel⟩

theorem test_meets_PortsChangeStateByLockAndControl_8 : ∃ (p : Part) (port : Nat) (s : State),
    (Runs s p) ∧ (s.darkLong p port = true) ∧ (port < portCount p) ∧ (s.rd (F.portStateState p) port ≠ 1) ∧ (s.rd (F.portCtrlLoop p) port ≠ 1) ∧ (s.is (F.portCtrlEnable p) port = true) ∧ ((((s.setPort p port 1).forgetPeer p port).modPort p port fun t => { t with lock0 := false, lock1 := false, clean0 := none, clean1 := none }).is (F.portCtrlExpected p) port = false) :=
  ⟨Part.tsu, 0, (darkPort.wr (F.portCtrlExpected .tsu) 0 0), by decide +kernel⟩

theorem test_meets_PortsChangeStateByLockAndControl_9 : ∃ (p : Part) (port : Nat) (s : State),
    (Runs s p) ∧ (s.rd (F.portStateState p) port = 2) ∧ ((s.port p port).trainAt + lfOfMs 150 ≤ s.lfn p) :=
  ⟨Part.tsu, 0, (State.reset.wr (F.portStateState .tsu) 2 0).modNode .tsu fun n => { n with lfn := 2 ^ 30 }, by decide⟩

theorem test_meets_PortsChangeStateByLockAndControl_10 : ∃ (p : Part) (port : Nat) (s : State),
    (Runs s p) ∧ (port < portCount p) :=
  ⟨Part.dbx, 131, State.reset, by decide⟩

theorem test_meets_PortsChangeStateByLockAndControl_11 : ∃ (p : Part) (port : Nat) (s : State),
    (Runs s p) ∧ (port < portCount p) ∧ (s.is (F.portCtrlEnable p) port = false) ∧ ((s.port p port).lock0 = true ∨ (s.port p port).lock1 = true) :=
  ⟨Part.dbx, 131, (State.reset.wr (F.portCtrlEnable .dbx) 0 131).modPort .dbx 131 fun t => { t with lock1 := true }, by decide⟩

theorem test_meets_PortsChangeStateByLockAndControl_12 : ∃ (p : Part) (port : Nat) (s : State),
    (Runs s p) ∧ (port < portCount p) ∧ (s.is (F.portCtrlEnable p) port = false) ∧ ((s.port p port).lock0 = false) ∧ ((s.port p port).lock1 = false) :=
  ⟨Part.dbx, 131, State.reset.wr (F.portCtrlEnable .dbx) 0 131, by decide⟩

theorem test_meets_PortsChangeStateByLockAndControl_13 : ∃ (p : Part) (port : Nat) (s : State),
    (Runs s p) ∧ (port < portCount p) ∧ ((p = .dbx → s.othersIsolated port = false)) ∧ ((s.wr (F.portCtrlIsolate p) 1 port).is (F.portCtrlEnable p) port = true) :=
  ⟨Part.tsu, 0, State.reset.wr (F.portCtrlEnable .tsu) 1 0, by decide⟩

theorem test_meets_PortsChangeStateByLockAndControl_14 : ∃ (port : Nat) (s : State),
    (Runs s .dbx) ∧ (port < 132) ∧ (s.othersIsolated port = true) :=
  ⟨0, State.reset.wr (F.portStateState .dbx) 5 1, by decide⟩

theorem test_meets_PortsChangeStateByLockAndControl_15 : ∃ (p : Part) (port : Nat) (s : State),
    (Runs s p) ∧ (port < portCount p) ∧ ((s.wr (F.portCtrlIsolate p) 0 port).is (F.portCtrlEnable p) port = true) ∧ ((s.wr (F.portCtrlIsolate p) 0 port).rd (F.portStateState p) port = 5) ∧ ((s.wr (F.portCtrlIsolate p) 0 port).rd (F.portCtrlLoop p) port % 3 = 0) :=
  ⟨Part.tsu, 0, (State.reset.wr (F.portCtrlEnable .tsu) 1 0).wr (F.portStateState .tsu) 5 0, by decide⟩

theorem test_meets_PortsChangeStateByLockAndControl_16 : ∃ (port mode : Nat) (s : State),
    (Runs s .tsu) ∧ (port < 2) ∧ (mode = 1 ∨ mode = 2) ∧ (s.up .tsu (1 - port) = true) ∧ (s.timeValid .tsu = true) ∧ ((s.wr (F.portCtrlLoop .tsu) mode port).is (F.portCtrlEnable .tsu) port = true) :=
  ⟨0, 1, ((State.reset.wr (F.portCtrlEnable .tsu) 1 0).wr (F.portStateState .tsu) 4 1).wr (F.timeStatusTimeState .tsu) 2, by decide⟩

theorem test_meets_PortsChangeStateByLockAndControl_17 : ∃ (port mode : Nat) (s : State),
    (Runs s .dbx) ∧ (port < 132) ∧ (mode = 1 ∨ mode = 2) ∧ (s.othersIsolated port = false) ∧ ((s.wr (F.portCtrlLoop .dbx) mode port).is (F.portCtrlEnable .dbx) port = true) :=
  ⟨0, 2, State.reset.wr (F.portCtrlEnable .dbx) 1 0, by decide⟩

theorem test_meets_PortsChangeStateByLockAndControl_18 : ∃ (port mode : Nat) (s : State),
    (Runs s .tsu) ∧ (port < 2) ∧ (mode = 1 ∨ mode = 2) ∧ (s.up .tsu (1 - port) = false) :=
  ⟨0, 1, State.reset, by decide⟩

theorem test_meets_PortsChangeStateByLockAndControl_19 : ∃ (port mode : Nat) (s : State),
    (Runs s .dbx) ∧ (port < 132) ∧ (mode = 1 ∨ mode = 2) ∧ (s.othersIsolated port = true) :=
  ⟨0, 1, State.reset.wr (F.portStateState .dbx) 5 1, by decide⟩

theorem test_meets_PortsChangeStateByLockAndControl_20 : ∃ (p : Part) (port : Nat) (s : State),
    (Runs s p) ∧ (port < portCount p) ∧ ((s.wr (F.portCtrlLoop p) 0 port).is (F.portCtrlEnable p) port = true) ∧ ((s.wr (F.portCtrlLoop p) 0 port).rd (F.portStateState p) port = 5) ∧ ((s.wr (F.portCtrlLoop p) 0 port).is (F.portCtrlIsolate p) port = false) :=
  ⟨Part.tsu, 0, (State.reset.wr (F.portCtrlEnable .tsu) 1 0).wr (F.portStateState .tsu) 5 0, by decide⟩


theorem test_meets_LanesAreDroppedAndRestored_1 : ∃ (p : Part) (port lane : Nat) (s : State),
    (Runs s p) ∧ (port < portCount p) ∧ (lane < 2) ∧ ((s.port p port).want = 3) :=
  ⟨Part.tsu, 0, 1, State.reset, by decide⟩

theorem test_meets_LanesAreDroppedAndRestored_2 : ∃ (p : Part) (port lane : Nat) (s : State),
    (Runs s p) ∧ (port < portCount p) ∧ (lane < 2) ∧ ((s.port p port).want ≠ 3) :=
  ⟨Part.tsu, 0, 1, upPort fun t => { t with want := 1 }, by decide⟩

theorem test_meets_LanesAreDroppedAndRestored_3 : ∃ (p : Part) (port lane : Nat) (s : State),
    (Runs s p) ∧ (port < portCount p) ∧ (lane < 2) :=
  ⟨Part.tsu, 0, 1, State.reset, by decide⟩

theorem test_meets_LanesAreDroppedAndRestored_4 : ∃ (p : Part) (port : Nat) (s : State),
    (Runs s p) ∧ (port < portCount p) :=
  ⟨Part.dbx, 131, State.reset, by decide⟩

theorem test_meets_LanesAreDroppedAndRestored_5 : ∃ (p : Part) (port want : Nat) (s : State),
    (Runs s p) ∧ (port < portCount p) ∧ (1 ≤ want) ∧ (want ≤ 3) ∧ (2 ≤ s.rd (F.portStateState p) port) ∧ (s.rd (F.portStateTxLanes p) port ≠ want) :=
  ⟨Part.tsu, 0, 1, upPort fun t => t, by decide⟩

theorem test_meets_LanesAreDroppedAndRestored_6 : ∃ (p : Part) (port c lanes : Nat) (s : State),
    (Runs s p) ∧ ((s.port p port).switchAt = some (c, lanes)) ∧ (c ≤ s.lfn p) :=
  ⟨Part.tsu, 0, 0, 1, upPort fun t => { t with switchAt := some (0, 1) }, by decide⟩

theorem test_meets_LanesAreDroppedAndRestored_7 : ∃ (p : Part) (port c : Nat) (s : State),
    (Runs s p) ∧ ((s.port p port).switched = some c) ∧ (c + 16 ≤ s.lfn p) :=
  ⟨Part.tsu, 0, 0, (upPort fun t => { t with switched := some 0 }).modNode .tsu fun n => { n with lfn := 16 }, by decide⟩

theorem test_meets_LanesAreDroppedAndRestored_8 : ∃ (p : Part) (port lane c : Nat) (s : State),
    (Runs s p) ∧ (lane < 2) ∧ ((if lane = 0 then (s.port p port).clean0 else (s.port p port).clean1) = some c) ∧ ((s.port p port).want = otherLane lane) ∧ (c + 2 ^ 20 ≤ s.lfn p) ∧ (s.is (dropF p lane) port = false) ∧ (s.is (pinnedF p lane) port = false) :=
  ⟨Part.tsu, 0, 0, 0, (upPort fun t => { t with clean0 := some 0, want := 2 }).modNode .tsu fun n => { n with lfn := 2 ^ 20 }, by decide⟩


theorem test_meets_LinkKeysAreAgreedAndRatcheted_1 : ∃ (p : Part) (port : Nat) (s : State),
    (Runs s p) ∧ ((s.port p port).keyed = true) ∧ (s.up p port = true) ∧ (2 ^ 31 ≤ s.lfn p % 2 ^ 32) ∧ ((s.port p port).nextOk = false ∨ (s.port p port).nextEpoch ≠ s.lfn p / 2 ^ 32 + 1) ∧ ((s.port p port).exch = false ∨ (s.port p port).exEpoch ≠ s.lfn p / 2 ^ 32 + 1) :=
  ⟨Part.tsu, 0, (upPort fun t => { t with keyed := true }).modNode .tsu fun n => { n with lfn := 2 ^ 31 }, by decide⟩

theorem test_meets_LinkKeysAreAgreedAndRatcheted_2 : ∃ (p : Part) (port : Nat) (s : State),
    (Runs s p) ∧ ((s.port p port).keyed = true) ∧ (0xFF000000 ≤ s.lfn p % 2 ^ 32) ∧ (((s.port p port).nextOk = false ∧ (s.port p port).nextRat = false) ∨ (s.port p port).nextEpoch ≠ s.lfn p / 2 ^ 32 + 1) ∧ (s.rd (F.portStateRatchets p) port < 2) :=
  ⟨Part.tsu, 0, (upPort fun t => { t with keyed := true }).modNode .tsu fun n => { n with lfn := 0xFF000000 }, by decide⟩

theorem test_meets_LinkKeysAreAgreedAndRatcheted_3 : ∃ (p : Part) (port : Nat) (s : State),
    (Runs s p) ∧ ((s.port p port).keyed = true) ∧ ((s.port p port).txEpoch < s.label p / 2 ^ 32) ∧ ((s.port p port).nextOk = true ∨ (s.port p port).nextRat = true) ∧ ((s.port p port).nextEpoch = s.label p / 2 ^ 32) :=
  ⟨Part.tsu, 0, (upPort fun t => { t with keyed := true, nextOk := true, nextEpoch := 1 }).modNode .tsu fun n => { n with lfn := 2 ^ 32, labelled := true }, by decide⟩

theorem test_meets_LinkKeysAreAgreedAndRatcheted_4 : ∃ (p : Part) (port : Nat) (s : State),
    (Runs s p) ∧ ((s.port p port).keyed = true) ∧ (s.label p / 2 ^ 32 = (s.port p port).txEpoch + 1) ∧ ((s.node p).jumpTo ≠ some (s.label p / 2 ^ 32)) ∧ ((s.port p port).nextOk = false) ∧ ((s.port p port).nextRat = false) ∧ (s.rd (F.portStateRatchets p) port = 2) :=
  ⟨Part.tsu, 0, ((upPort fun t => { t with keyed := true }).modNode .tsu fun n => { n with lfn := 2 ^ 32, labelled := true }).wr (F.portStateRatchets .tsu) 2 0, by decide⟩

theorem test_meets_LinkKeysAreAgreedAndRatcheted_5 : ∃ (p : Part) (port : Nat) (s : State),
    (Runs s p) ∧ ((s.port p port).keyed = true) ∧ ((s.port p port).txEpoch < s.label p / 2 ^ 32) ∧ ((s.node p).jumpTo = some (s.label p / 2 ^ 32)) ∧ ((s.port p port).nextOk = false) ∧ ((s.port p port).nextRat = false) :=
  ⟨Part.tsu, 0, (upPort fun t => { t with keyed := true }).modNode .tsu fun n => { n with lfn := 2 ^ 32, labelled := true, jumpTo := some 1 }, by decide⟩

theorem test_meets_LinkKeysAreAgreedAndRatcheted_6 : ∃ (port : Nat) (cert : PeerCert) (s : State),
    (Runs s .dbx) ∧ (port < 132) ∧ (s.acceptPeer .dbx port cert = true) :=
  ⟨130, ⟨true, 0, true, 0, []⟩, goodPeer, by decide⟩

theorem test_meets_LinkKeysAreAgreedAndRatcheted_7 : ∃ (port : Nat) (cert : PeerCert) (s : State),
    (Runs s .dbx) ∧ (port < 132) ∧ (s.acceptPeer .dbx port cert = false) :=
  ⟨0, ⟨false, 0, false, 0, []⟩, State.reset, by decide⟩

theorem test_meets_LinkKeysAreAgreedAndRatcheted_8 : ∃ (port : Nat) (cert : PeerCert) (s : State),
    (Runs s .tsu) ∧ (port < 2) ∧ ((s.mbLink port (toLe 8 1 ++ toLe 4 cert.chain.length ++ cert.chain)).acceptPeer .tsu port cert = true) :=
  ⟨1, ⟨true, 0, true, 0, []⟩, State.reset.wr F.mbReqValid 1, by decide +kernel⟩

theorem test_meets_LinkKeysAreAgreedAndRatcheted_9 : ∃ (port : Nat) (cert : PeerCert) (s : State),
    (Runs s .tsu) ∧ (port < 2) ∧ ((s.mbLink port (toLe 8 1 ++ toLe 4 cert.chain.length ++ cert.chain)).acceptPeer .tsu port cert = false) :=
  ⟨1, ⟨true, 0, false, 0, []⟩, State.reset.wr F.mbReqValid 1, by decide +kernel⟩

theorem test_meets_LinkKeysAreAgreedAndRatcheted_10 : ∃ (port epoch nonce pub : Nat) (s : State),
    (Runs s .dbx) ∧ (port < 132) ∧ (s.dbx.labelled = true) ∧ (3 ≤ s.rd (F.portStateState .dbx) port) ∧ ((s.port .dbx port).exch = true) ∧ ((s.port .dbx port).exEpoch = epoch) :=
  ⟨0, 0, 1, 2, (dbxPort fun t => { t with exch := true }).modNode .dbx fun n => { n with labelled := true }, by decide⟩

theorem test_meets_LinkKeysAreAgreedAndRatcheted_11 : ∃ (port epoch nonce pub : Nat) (s : State),
    (Runs s .dbx) ∧ (port < 132) ∧ (s.dbx.labelled = true) ∧ (3 ≤ s.rd (F.portStateState .dbx) port) ∧ ((s.port .dbx port).exch = false ∨ (s.port .dbx port).exEpoch ≠ epoch) :=
  ⟨0, 0, 1, 2, (dbxPort fun t => t).modNode .dbx fun n => { n with labelled := true }, by decide⟩

theorem test_meets_LinkKeysAreAgreedAndRatcheted_12 : ∃ (port epoch nonce pub : Nat) (s : State),
    (Runs s .tsu) ∧ (port < 2) ∧ (s.tsu.labelled = true) ∧ (3 ≤ s.rd (F.portStateState .tsu) port) :=
  ⟨0, 0, 1, 2, (State.reset.wr (F.portStateState .tsu) 3 0).modNode .tsu fun n => { n with labelled := true }, by decide⟩

theorem test_meets_LinkKeysAreAgreedAndRatcheted_13 : ∃ (port sig : Nat) (c : PeerCert) (s : State),
    (Runs s .dbx) ∧ (port < 132) ∧ ((s.port .dbx port).cert = some c) ∧ ((s.port .dbx port).exch = true) ∧ ((s.port .dbx port).shared = true) :=
  ⟨0, 1, ⟨true, 0, true, 0, []⟩, dbxPort fun t => { t with cert := some ⟨true, 0, true, 0, []⟩, exch := true, shared := true }, by decide⟩

theorem test_meets_LinkKeysAreAgreedAndRatcheted_14 : ∃ (port sig : Nat) (s : State),
    (Runs s .dbx) ∧ (port < 132) ∧ ((s.port .dbx port).cert = none) ∧ ((s.port .dbx port).exch = true) :=
  ⟨0, 1, dbxPort fun t => { t with exch := true }, by decide⟩

theorem test_meets_LinkKeysAreAgreedAndRatcheted_15 : ∃ (port sig : Nat) (s : State),
    (Runs s .tsu) ∧ (port < 2) :=
  ⟨0, 1, State.reset, by decide⟩

theorem test_meets_LinkKeysAreAgreedAndRatcheted_16 : ∃ (port mac : Nat) (s : State),
    (Runs s .dbx) ∧ (port < 132) ∧ ((s.port .dbx port).exch = true) ∧ ((s.port .dbx port).shared = true) ∧ ((s.port .dbx port).sigOk = true) :=
  ⟨0, 1, dbxPort fun t => { t with exch := true, shared := true, sigOk := true }, by decide⟩

theorem test_meets_LinkKeysAreAgreedAndRatcheted_17 : ∃ (port mac : Nat) (s : State),
    (Runs s .tsu) ∧ (port < 2) :=
  ⟨0, 1, State.reset, by decide⟩

theorem test_meets_LinkKeysAreAgreedAndRatcheted_18 : ∃ (p : Part) (port epoch tx rx : Nat) (s : State),
    ((s.port p port).keyed = true) :=
  ⟨Part.dbx, 0, 1, 2, 3, dbxPort fun t => { t with keyed := true }, by decide⟩


theorem test_meets_CroziersAreForwardedOnce_1 : ∃ (port share : Nat) (cz : Crozier) (s : State),
    (Runs s .dbx) ∧ (czIdle cz = true ∨ s.is F.shareValid share = false) :=
  ⟨0, 0, goodCz, State.reset, by decide⟩

theorem test_meets_CroziersAreForwardedOnce_2 : ∃ (port share : Nat) (cz : Crozier) (s : State),
    (Runs s .dbx) ∧ (czIdle cz = false) ∧ (s.is F.shareValid share = true) ∧ (czMalformed cz = true) :=
  ⟨0, 0, { goodCz with rsv0 := 1 }, State.reset.wr F.shareValid 1 0, by decide⟩

theorem test_meets_CroziersAreForwardedOnce_3 : ∃ (port share : Nat) (cz : Crozier) (s : State),
    (Runs s .dbx) ∧ (czIdle cz = false) ∧ (s.is F.shareValid share = true) ∧ (czMalformed cz = false) ∧ (s.d.czKeys.find? (fun k => k.partition == s.rd F.sharePartition share && czSameKey k.cz cz && decide (s.dbx.lfn < k.atLfn + s.czWindow)) = none) :=
  ⟨128, 0, goodCz, State.reset.wr F.shareValid 1 0, by decide⟩

theorem test_meets_CroziersAreForwardedOnce_4 : ∃ (port share : Nat) (cz : Crozier) (k : CzKey) (s : State),
    (Runs s .dbx) ∧ (czIdle cz = false) ∧ (s.is F.shareValid share = true) ∧ (czMalformed cz = false) ∧ (s.d.czKeys.find? (fun k => k.partition == s.rd F.sharePartition share && czSameKey k.cz cz && decide (s.dbx.lfn < k.atLfn + s.czWindow)) = some k) ∧ (czDiffers k.cz cz = none) :=
  ⟨129, 0, goodCz, ⟨0, goodCz, 128, 0, false⟩, (State.reset.wr F.shareValid 1 0).modD fun d => { d with czKeys := [⟨0, goodCz, 128, 0, false⟩] }, by decide⟩

theorem test_meets_CroziersAreForwardedOnce_5 : ∃ (port share byte : Nat) (cz : Crozier) (k : CzKey) (s : State),
    (Runs s .dbx) ∧ (czIdle cz = false) ∧ (s.is F.shareValid share = true) ∧ (czMalformed cz = false) ∧ (s.d.czKeys.find? (fun k => k.partition == s.rd F.sharePartition share && czSameKey k.cz cz && decide (s.dbx.lfn < k.atLfn + s.czWindow)) = some k) ∧ (czDiffers k.cz cz = some byte) :=
  ⟨129, 0, 26, { goodCz with payload := 1 }, ⟨0, goodCz, 128, 0, false⟩, (State.reset.wr F.shareValid 1 0).modD fun d => { d with czKeys := [⟨0, goodCz, 128, 0, false⟩] }, by decide⟩

theorem test_meets_CroziersAreForwardedOnce_6 : ∃ (s : State),
    (Runs s .dbx) ∧ (((s.d.czKeys.filter fun k => k.atLfn + s.czWindow ≤ s.dbx.lfn).filter fun k => !k.second) = []) :=
  ⟨State.reset, by decide⟩

theorem test_meets_CroziersAreForwardedOnce_7 : ∃ (k : CzKey) (s : State),
    (Runs s .dbx) ∧ (((s.d.czKeys.filter fun k => k.atLfn + s.czWindow ≤ s.dbx.lfn).filter fun k => !k.second) = [k]) ∧ (((s.modD fun d => { d with czKeys := d.czKeys.filter fun k => !(k.atLfn + s.czWindow ≤ s.dbx.lfn) }).bump F.dczSingleCount).upSince .dbx (otherUplink k.port) k.atLfn = true) :=
  ⟨⟨0, goodCz, 129, 0, false⟩, ((State.reset.wr (F.portStateState .dbx) 4 128).modNode .dbx fun n => { n with lfn := 2 ^ 20 }).modD fun d => { d with czKeys := [⟨0, goodCz, 129, 0, false⟩] }, by decide +kernel⟩

theorem test_meets_CroziersAreForwardedOnce_8 : ∃ (k : CzKey) (s : State),
    (Runs s .dbx) ∧ (((s.d.czKeys.filter fun k => k.atLfn + s.czWindow ≤ s.dbx.lfn).filter fun k => !k.second) = [k]) ∧ (((s.modD fun d => { d with czKeys := d.czKeys.filter fun k => !(k.atLfn + s.czWindow ≤ s.dbx.lfn) }).bump F.dczSingleCount).upSince .dbx (otherUplink k.port) k.atLfn = false) :=
  ⟨⟨0, goodCz, 129, 0, false⟩, (State.reset.modNode .dbx fun n => { n with lfn := 2 ^ 20 }).modD fun d => { d with czKeys := [⟨0, goodCz, 129, 0, false⟩] }, by decide +kernel⟩

theorem test_meets_CroziersAreForwardedOnce_9 : ∃ (v : Word) (s : State),
    (Runs s .dbx) ∧ (bit v.toNat 18 = true) ∧ ((s.regPut .dbx 0x58080 v.toNat false true).tblRefuses ((s.regPut .dbx 0x58080 v.toNat false true).rd F.tblSelTable) ((s.regPut .dbx 0x58080 v.toNat false true).rd F.tblSelIndex) (sumNat ((List.range 4).map fun k => fgetD s.d.tblStage k 0 * 2 ^ (32 * k))) = true) :=
  ⟨0x70000, State.reset, by decide⟩

theorem test_meets_CroziersAreForwardedOnce_10 : ∃ (v : Word) (s : State),
    (Runs s .dbx) ∧ (bit v.toNat 18 = true) ∧ ((s.regPut .dbx 0x58080 v.toNat false true).tblRefuses ((s.regPut .dbx 0x58080 v.toNat false true).rd F.tblSelTable) ((s.regPut .dbx 0x58080 v.toNat false true).rd F.tblSelIndex) (sumNat ((List.range 4).map fun k => fgetD s.d.tblStage k 0 * 2 ^ (32 * k))) = false) :=
  ⟨0x40000, State.reset, by decide⟩

theorem test_meets_CroziersAreForwardedOnce_11 : ∃ (v : Word) (s : State),
    (Runs s .dbx) ∧ (bit v.toNat 18 = false) :=
  ⟨0x10005, State.reset, by decide⟩


theorem test_meets_CroziersAreAdmittedAndStaged_1 : ∃ (port sub : Nat) (cz : Crozier) (s : State),
    (Runs s .tsu) ∧ (czIdle cz = true) :=
  ⟨0, 0, ⟨0, 0, 0, 0, 0, 0, 0, 0, 0, 0, 0, 0⟩, State.reset, by decide⟩

theorem test_meets_CroziersAreAdmittedAndStaged_2 : ∃ (port sub : Nat) (cz : Crozier) (t : State) (s : State),
    (Runs s .tsu) ∧ (czIdle cz = false) ∧ (s.knownCopy cz = some t) :=
  ⟨0, 0, goodCz, ((armState ({ cz := goodCz, fire := ⟨0, 0⟩, state := 2, targets := [], port := 0, twoSeen := true } : ArmEntry)).knownCopy goodCz).get (by decide), armState ({ cz := goodCz, fire := ⟨0, 0⟩, state := 2, targets := [], port := 0, twoSeen := true } : ArmEntry), by decide⟩

theorem test_meets_CroziersAreAdmittedAndStaged_3 : ∃ (port sub e : Nat) (cz : Crozier) (m : Int) (s : State),
    (Runs s .tsu) ∧ (czIdle cz = false) ∧ (s.knownCopy cz = none) ∧ (czMalformed cz = false) ∧ (s.targetsMe cz = true) ∧ (s.timeValid .tsu = true) ∧ (m = mtDiff ⟨extend32 cz.fireLfn s.tsu.lfn, cz.fireSub % 8192⟩ ⟨s.tsu.lfn, sub % 8192⟩) ∧ (m ≤ s.maxLeadUnits) ∧ (cz.ctype = 1) ∧ ((s.noteMargin m).guardUnits ≤ m) ∧ ((s.noteMargin m).gen .tsu (hIndex cz.handle) = hGen cz.handle) ∧ (((s.noteMargin m).chanOf cz.handle).any (fun ch => ch.state == 2) = true) ∧ ((s.noteMargin m).t.chans.length ≤ 4096) ∧ ((s.noteMargin m).is F.thealthRolePending = false) ∧ ((s.noteMargin m).freeEntry? = some e) :=
  ⟨0, 0, 0, launchCz, 600 * 8192, admitState, by decide +kernel⟩

theorem test_meets_CroziersAreAdmittedAndStaged_4 : ∃ (port sub : Nat) (cz : Crozier) (m : Int) (s : State),
    (Runs s .tsu) ∧ (czIdle cz = false) ∧ (s.knownCopy cz = none) ∧ (czMalformed cz = false) ∧ (s.targetsMe cz = true) ∧ (s.timeValid .tsu = true) ∧ (m = mtDiff ⟨extend32 cz.fireLfn s.tsu.lfn, cz.fireSub % 8192⟩ ⟨s.tsu.lfn, sub % 8192⟩) ∧ (m ≤ s.maxLeadUnits) ∧ (cz.ctype ≠ 3) ∧ (m < (s.noteMargin m).guardUnits) :=
  ⟨0, 0, { launchCz with fireLfn := 1 }, 8192, admitState, by decide +kernel⟩

theorem test_meets_CroziersAreAdmittedAndStaged_5 : ∃ (port sub : Nat) (cz : Crozier) (m : Int) (s : State),
    (Runs s .tsu) ∧ (czIdle cz = false) ∧ (s.knownCopy cz = none) ∧ (czMalformed cz = false) ∧ (s.targetsMe cz = true) ∧ (s.timeValid .tsu = true) ∧ (m = mtDiff ⟨extend32 cz.fireLfn s.tsu.lfn, cz.fireSub % 8192⟩ ⟨s.tsu.lfn, sub % 8192⟩) ∧ (m ≤ s.maxLeadUnits) ∧ (cz.ctype = 3) ∧ (s.gen .tsu (hIndex cz.handle) = hGen cz.handle) :=
  ⟨0, 0, { launchCz with ctype := 3, fireLfn := 1 }, 8192, admitState, by decide +kernel⟩

theorem test_meets_CroziersAreAdmittedAndStaged_6 : ∃ (entry : Nat) (fullRegions : List Nat) (a : ArmEntry) (s : State),
    (Runs s .tsu) ∧ (s.dueStage entry = some a) ∧ (s.stageFits a = true ∧ (a.targets.any fun t => fullRegions.contains (s.regionOf t)) = false) :=
  ⟨0, [], { cz := goodCz, fire := ⟨0, 0⟩, state := 2, targets := [], port := 0, twoSeen := true }, armState ({ cz := goodCz, fire := ⟨0, 0⟩, state := 2, targets := [], port := 0, twoSeen := true } : ArmEntry), by decide⟩

theorem test_meets_CroziersAreAdmittedAndStaged_7 : ∃ (entry : Nat) (fullRegions : List Nat) (a : ArmEntry) (s : State),
    (Runs s .tsu) ∧ (s.dueStage entry = some a) ∧ (a.cz.ctype = 1) ∧ (s.stageFits a = false ∨ (a.targets.any fun t => fullRegions.contains (s.regionOf t)) = true) :=
  ⟨0, [0], { cz := goodCz, fire := ⟨0, 0⟩, state := 2, targets := [0], port := 0, twoSeen := true }, armState ({ cz := goodCz, fire := ⟨0, 0⟩, state := 2, targets := [0], port := 0, twoSeen := true } : ArmEntry), by decide⟩

theorem test_meets_CroziersAreAdmittedAndStaged_8 : ∃ (entry : Nat) (fullRegions : List Nat) (a : ArmEntry) (s : State),
    (Runs s .tsu) ∧ (s.dueStage entry = some a) ∧ (a.cz.ctype ≠ 1) ∧ (s.stageFits a = false ∨ (a.targets.any fun t => fullRegions.contains (s.regionOf t)) = true) :=
  ⟨0, [0], { cz := { goodCz with ctype := 6 }, fire := ⟨0, 0⟩, state := 2, targets := [0], port := 0, twoSeen := true }, armState ({ cz := { goodCz with ctype := 6 }, fire := ⟨0, 0⟩, state := 2, targets := [0], port := 0, twoSeen := true } : ArmEntry), by decide⟩

theorem test_meets_CroziersAreAdmittedAndStaged_9 : ∃ (entry : Nat) (a : ArmEntry) (s : State),
    (Runs s .tsu) ∧ (s.liveEntry entry 1 = some a) ∧ ((fireEdge a.fire).lfn = s.tsu.lfn) ∧ (s.abortCovers a = false) ∧ (s.t.cmpAck = false) ∧ (s.timeValid .tsu = true) ∧ (3 ≤ a.state ∨ s.stageFits a = true) ∧ ((a.targets.any fun t => !s.regionValid (s.regionOf t)) = false) :=
  ⟨0, { cz := goodCz, fire := ⟨0, 0⟩, state := 2, targets := [], port := 0, twoSeen := true }, (armState ({ cz := goodCz, fire := ⟨0, 0⟩, state := 2, targets := [], port := 0, twoSeen := true } : ArmEntry)).wr (F.timeStatusTimeState .tsu) 2, by decide⟩

theorem test_meets_CroziersAreAdmittedAndStaged_10 : ∃ (entry : Nat) (a : ArmEntry) (s : State),
    (Runs s .tsu) ∧ (s.liveEntry entry 1 = some a) ∧ ((fireEdge a.fire).lfn = s.tsu.lfn) ∧ (s.abortCovers a = false) ∧ (s.t.cmpAck = false) ∧ (s.timeValid .tsu = true) ∧ (3 ≤ a.state ∨ s.stageFits a = true) ∧ ((a.targets.any fun t => !s.regionValid (s.regionOf t)) = true) :=
  ⟨0, { cz := goodCz, fire := ⟨0, 0⟩, state := 2, targets := [0], port := 0, twoSeen := true }, (armState ({ cz := goodCz, fire := ⟨0, 0⟩, state := 2, targets := [0], port := 0, twoSeen := true } : ArmEntry)).wr (F.timeStatusTimeState .tsu) 2, by decide⟩

theorem test_meets_CroziersAreAdmittedAndStaged_11 : ∃ (entry : Nat) (a : ArmEntry) (s : State),
    (Runs s .tsu) ∧ (s.liveEntry entry 1 = some a) ∧ ((fireEdge a.fire).lfn ≤ s.tsu.lfn) ∧ (s.abortCovers a = false) ∧ (s.t.cmpAck = false) ∧ (s.timeValid .tsu = false ∨ (fireEdge a.fire).lfn < s.tsu.lfn) :=
  ⟨0, { cz := goodCz, fire := ⟨0, 0⟩, state := 2, targets := [], port := 0, twoSeen := true }, armState ({ cz := goodCz, fire := ⟨0, 0⟩, state := 2, targets := [], port := 0, twoSeen := true } : ArmEntry), by decide⟩

theorem test_meets_CroziersAreAdmittedAndStaged_12 : ∃ (entry : Nat) (a : ArmEntry) (s : State),
    (Runs s .tsu) ∧ (s.liveEntry entry 1 = some a) ∧ ((fireEdge a.fire).lfn = s.tsu.lfn) ∧ (s.abortCovers a = true) :=
  ⟨0, { cz := { goodCz with handle := 2 ^ 18 }, fire := ⟨0, 0⟩, state := 2, targets := [], port := 0, twoSeen := true }, ((armState ({ cz := { goodCz with handle := 2 ^ 18 }, fire := ⟨0, 0⟩, state := 2, targets := [], port := 0, twoSeen := true } : ArmEntry)).wr (F.timeStatusTimeState .tsu) 2).modT fun t => { t with chans := [(0, { state := 2, gen := 1, tenant := 0 })], aborts := [⟨{ goodCz with ctype := 3, handle := 2 ^ 18 }, ⟨0, 0⟩, 0, false⟩] }, by decide⟩

theorem test_meets_CroziersAreAdmittedAndStaged_13 : ∃ (entry : Nat) (a : ArmEntry) (s : State),
    (Runs s .tsu) ∧ (s.liveEntry entry 1 = some a) ∧ ((fireEdge a.fire).lfn = s.tsu.lfn) ∧ (s.abortCovers a = false) ∧ (s.t.cmpAck = true) :=
  ⟨0, { cz := goodCz, fire := ⟨0, 0⟩, state := 2, targets := [], port := 0, twoSeen := true }, ((armState ({ cz := goodCz, fire := ⟨0, 0⟩, state := 2, targets := [], port := 0, twoSeen := true } : ArmEntry)).wr (F.timeStatusTimeState .tsu) 2).modT fun t => { t with cmpAck := true }, by decide⟩

theorem test_meets_CroziersAreAdmittedAndStaged_14 : ∃ (entry : Nat) (a : ArmEntry) (s : State),
    (Runs s .tsu) ∧ (fget? s.t.arm entry = some a) ∧ (a.state = 4) ∧ (a.cz.ctype = 1) ∧ (mtBefore (s.now .tsu) ⟨s.tickOf a.fire.lfn + s.frameLen, 0⟩ = false) :=
  ⟨0, { cz := goodCz, fire := ⟨0, 0⟩, state := 4, targets := [], port := 0, twoSeen := true }, (armState ({ cz := goodCz, fire := ⟨0, 0⟩, state := 4, targets := [], port := 0, twoSeen := true } : ArmEntry)).modNode .tsu fun n => { n with lfn := 2 ^ 32 }, by decide⟩

theorem test_meets_CroziersAreAdmittedAndStaged_15 : ∃ (entry : Nat) (a : ArmEntry) (s : State),
    (Runs s .tsu) ∧ (fget? s.t.arm entry = some a) ∧ (a.state = 4) ∧ (a.cz.ctype ≠ 1) ∧ (mtBefore (s.now .tsu) ⟨a.fire.lfn + 16, a.fire.sub⟩ = false) :=
  ⟨0, { cz := { goodCz with ctype := 5 }, fire := ⟨0, 0⟩, state := 4, targets := [], port := 0, twoSeen := true }, (armState ({ cz := { goodCz with ctype := 5 }, fire := ⟨0, 0⟩, state := 4, targets := [], port := 0, twoSeen := true } : ArmEntry)).modNode .tsu fun n => { n with lfn := 16 }, by decide⟩

theorem test_meets_CroziersAreAdmittedAndStaged_16 : ∃ (s : State),
    (Runs s .tsu) :=
  ⟨State.reset, by decide⟩


theorem test_meets_OtherCroziersAct_1 : ∃ (entry : Nat) (a : ArmEntry) (s : State),
    (Runs s .tsu) ∧ (s.liveEntry entry 5 = some a) ∧ ((fireEdge a.fire).lfn ≤ s.tsu.lfn) ∧ (s.abortCovers a = false) ∧ (s.timeValid .tsu = true) :=
  ⟨0, { cz := { goodCz with ctype := 5 }, fire := ⟨0, 0⟩, state := 2, targets := [], port := 0, twoSeen := true }, (armState ({ cz := { goodCz with ctype := 5 }, fire := ⟨0, 0⟩, state := 2, targets := [], port := 0, twoSeen := true } : ArmEntry)).wr (F.timeStatusTimeState .tsu) 2, by decide⟩

theorem test_meets_OtherCroziersAct_2 : ∃ (entry : Nat) (a : ArmEntry) (s : State),
    (Runs s .tsu) ∧ (s.liveEntry entry 5 = some a) ∧ ((fireEdge a.fire).lfn ≤ s.tsu.lfn) ∧ (s.abortCovers a = false) ∧ (s.timeValid .tsu = false) :=
  ⟨0, { cz := { goodCz with ctype := 5 }, fire := ⟨0, 0⟩, state := 2, targets := [], port := 0, twoSeen := true }, armState ({ cz := { goodCz with ctype := 5 }, fire := ⟨0, 0⟩, state := 2, targets := [], port := 0, twoSeen := true } : ArmEntry), by decide⟩

theorem test_meets_OtherCroziersAct_3 : ∃ (entry : Nat) (a : ArmEntry) (s : State),
    (Runs s .tsu) ∧ (s.liveEntry entry 6 = some a) ∧ ((fireEdge a.fire).lfn ≤ s.tsu.lfn) ∧ (s.abortCovers a = false) ∧ (s.timeValid .tsu = true) :=
  ⟨0, { cz := { goodCz with ctype := 6 }, fire := ⟨0, 0⟩, state := 2, targets := [], port := 0, twoSeen := true }, (armState ({ cz := { goodCz with ctype := 6 }, fire := ⟨0, 0⟩, state := 2, targets := [], port := 0, twoSeen := true } : ArmEntry)).wr (F.timeStatusTimeState .tsu) 2, by decide⟩

theorem test_meets_OtherCroziersAct_4 : ∃ (entry : Nat) (a : ArmEntry) (s : State),
    (Runs s .tsu) ∧ (s.liveEntry entry 6 = some a) ∧ ((fireEdge a.fire).lfn ≤ s.tsu.lfn) ∧ (s.abortCovers a = false) ∧ (s.timeValid .tsu = false) :=
  ⟨0, { cz := { goodCz with ctype := 6 }, fire := ⟨0, 0⟩, state := 2, targets := [], port := 0, twoSeen := true }, armState ({ cz := { goodCz with ctype := 6 }, fire := ⟨0, 0⟩, state := 2, targets := [], port := 0, twoSeen := true } : ArmEntry), by decide⟩

theorem test_meets_OtherCroziersAct_5 : ∃ (entry : Nat) (a : ArmEntry) (s : State),
    (s.t.cmpAck = false) ∧ (s.tsu.lfn ≤ (fireEdge a.fire).lfn) ∧ (3 ≤ a.state ∨ s.stageFits a = true) :=
  ⟨0, { cz := { goodCz with ctype := 6 }, fire := ⟨0, 0⟩, state := 2, targets := [], port := 0, twoSeen := true }, (armState ({ cz := { goodCz with ctype := 6 }, fire := ⟨0, 0⟩, state := 2, targets := [], port := 0, twoSeen := true } : ArmEntry)).wr (F.timeStatusTimeState .tsu) 2, by decide⟩

theorem test_meets_OtherCroziersAct_6 : ∃ (entry : Nat) (a : ArmEntry) (s : State),
    (Runs s .tsu) ∧ (s.dueEntry entry 4 = some a) ∧ (s.abortCovers a = false) ∧ (s.timeValid .tsu = true) :=
  ⟨0, { cz := { goodCz with ctype := 4 }, fire := ⟨0, 0⟩, state := 2, targets := [], port := 0, twoSeen := true }, (armState ({ cz := { goodCz with ctype := 4 }, fire := ⟨0, 0⟩, state := 2, targets := [], port := 0, twoSeen := true } : ArmEntry)).wr (F.timeStatusTimeState .tsu) 2, by decide⟩

theorem test_meets_OtherCroziersAct_7 : ∃ (entry : Nat) (lvlReq : List Nat) (a : ArmEntry) (s : State),
    (Runs s .tsu) ∧ (s.dueEntry entry 2 = some a) ∧ (s.timeValid .tsu = true) ∧ (s.isTick s.tsu.lfn = true) :=
  ⟨0, [], { cz := { goodCz with ctype := 2 }, fire := ⟨0, 0⟩, state := 2, targets := [], port := 0, twoSeen := true }, ((armState ({ cz := { goodCz with ctype := 2 }, fire := ⟨0, 0⟩, state := 2, targets := [], port := 0, twoSeen := true } : ArmEntry)).wr (F.timeStatusTimeState .tsu) 2).wr (F.timeStatusGridValid .tsu) 1, by decide⟩

theorem test_meets_OtherCroziersAct_8 : ∃ (x : PendAbort) (s : State),
    (Runs s .tsu) ∧ (s.dueAbort = some x) ∧ (x.cz.payload = 2) :=
  ⟨⟨{ goodCz with ctype := 3, payload := 2 }, ⟨0, 0⟩, 0, false⟩, State.reset.modT fun t => { t with aborts := [⟨{ goodCz with ctype := 3, payload := 2 }, ⟨0, 0⟩, 0, false⟩] }, by decide⟩

theorem test_meets_OtherCroziersAct_9 : ∃ (x : PendAbort) (s : State),
    (Runs s .tsu) ∧ (s.dueAbort = some x) ∧ (x.cz.payload ≠ 2) :=
  ⟨⟨{ goodCz with ctype := 3, payload := 1 }, ⟨0, 0⟩, 0, false⟩, State.reset.modT fun t => { t with aborts := [⟨{ goodCz with ctype := 3, payload := 1 }, ⟨0, 0⟩, 0, false⟩] }, by decide⟩

theorem test_meets_OtherCroziersAct_10 : ∃ (lvlReq : List Nat) (s : State),
    (Runs s .tsu) ∧ (s.isTick s.tsu.lfn = true) ∧ (s.timeState .tsu ≠ 0) :=
  ⟨[], (State.reset.wr (F.timeStatusTimeState .tsu) 2).wr (F.timeStatusGridValid .tsu) 1, by decide⟩

theorem test_meets_OtherCroziersAct_11 : ∃ (lvlReq : List Nat) (s : State),
    (Runs s .tsu) ∧ (s.isTick s.tsu.lfn = false ∨ s.timeState .tsu = 0) :=
  ⟨[], State.reset, by decide⟩

theorem test_meets_OtherCroziersAct_12 : ∃ (o : OpenStep) (s : State),
    (o.tick + s.frameLen ≠ s.tsu.lfn) :=
  ⟨openStep0, State.reset.modNode .tsu fun n => { n with lfn := 5 }, by decide⟩


theorem test_meets_TsuTablesAreLoaded_1 : ∃ (index source arg : Nat) (s : State),
    (Runs s .tsu) ∧ (index < 256) ∧ (source < 7) :=
  ⟨0, 1, 2, State.reset, by decide⟩

theorem test_meets_TsuTablesAreLoaded_2 : ∃ (index source arg : Nat) (s : State),
    (Runs s .tsu) ∧ (256 ≤ index ∨ 7 ≤ source) :=
  ⟨0, 7, 2, State.reset, by decide⟩

theorem test_meets_TsuTablesAreLoaded_3 : ∃ (s : State),
    (Runs s .tsu) ∧ (s.tsu.lfn % 64 = 0) ∧ (((List.range 256).filter fun k => s.rd F.periCfgSource k != 0).isEmpty = false) :=
  ⟨State.reset.wr F.periCfgSource 1 3, by decide⟩

theorem test_meets_TsuTablesAreLoaded_4 : ∃ (tbl : ScopeTable) (pend : Bool) (r : Nat) (s : State),
    (Runs s .tsu) ∧ (tbl.role = some r) :=
  ⟨⟨some 1, 2, 3, false, 4, 5, 6, []⟩, true, 1, State.reset, by decide⟩

theorem test_meets_TsuTablesAreLoaded_5 : ∃ (tbl : ScopeTable) (pend : Bool) (s : State),
    (Runs s .tsu) ∧ (tbl.role = none) :=
  ⟨⟨none, 2, 3, false, 4, 5, 6, []⟩, true, State.reset, by decide⟩

theorem test_meets_TsuTablesAreLoaded_6 : ∃ (k origin : Nat) (s : State),
    (Runs s .tsu) ∧ (3 ≤ k) ∧ (k ≤ 20) ∧ (s.tsu.lfn + 1024 ≤ origin ∨ s.is F.thealthRolePending = true) ∧ (s.gridValid = false ∨ s.rd F.frameCfgFLog2 ≠ k ∨ s.gridOrigin ≠ origin) :=
  ⟨3, 1024, State.reset, by decide⟩

theorem test_meets_TsuTablesAreLoaded_7 : ∃ (k origin : Nat) (s : State),
    (Runs s .tsu) ∧ (3 ≤ k) ∧ (k ≤ 20) ∧ (s.tsu.lfn + 1024 ≤ origin ∨ s.is F.thealthRolePending = true) ∧ (s.gridValid = true) ∧ (s.rd F.frameCfgFLog2 = k) ∧ (s.gridOrigin = origin) :=
  ⟨4, 2048, (((State.reset.wr F.frameCfgFLog2 4).wr64 F.frameOriginLoOrigin F.frameOriginHiOrigin 2048).wr (F.timeStatusGridValid .tsu) 1), by decide⟩

theorem test_meets_TsuTablesAreLoaded_8 : ∃ (k origin : Nat) (s : State),
    (Runs s .tsu) ∧ (3 ≤ k) ∧ (k ≤ 20) ∧ (origin < s.tsu.lfn + 1024) ∧ (s.is F.thealthRolePending = false) :=
  ⟨3, 1023, State.reset, by decide⟩

theorem test_meets_TsuTablesAreLoaded_9 : ∃ (v : Word) (s : State),
    (Runs s .tsu) ∧ (bit v.toNat 31 = true) :=
  ⟨0x80000000, State.reset, by decide⟩


theorem test_meets_BoundaryWordsActAtTheTsu_1 : ∃ (entry target handle : Nat) (s : State),
    (Runs s .tsu) ∧ ((fget? s.t.arm entry).filter (fun a => a.cz.handle == handle) = none) :=
  ⟨0, 0, 1, State.reset, by decide⟩

theorem test_meets_BoundaryWordsActAtTheTsu_2 : ∃ (entry target handle : Nat) (a : ArmEntry) (s : State),
    (Runs s .tsu) ∧ ((fget? s.t.arm entry).filter (fun a => a.cz.handle == handle) = some a) :=
  ⟨0, 0, 1, ({ cz := goodCz, fire := ⟨0, 0⟩, state := 2, targets := [], port := 0, twoSeen := true } : ArmEntry), armState ({ cz := goodCz, fire := ⟨0, 0⟩, state := 2, targets := [], port := 0, twoSeen := true } : ArmEntry), by decide⟩

theorem test_meets_BoundaryWordsActAtTheTsu_3 : ∃ (region target entry : Nat) (s : State),
    (Runs s .tsu) ∧ (((s.region region).staged.any fun w => w.1 == entry && w.2.1 == target) = true) :=
  ⟨0, 3, 0, State.reset.modRegion 0 fun g => { g with staged := [(0, 3, 0)] }, by decide⟩

theorem test_meets_BoundaryWordsActAtTheTsu_4 : ∃ (s : State),
    (Runs s .tsu) ∧ (s.t.genSynced = false) ∧ (s.ended .tsu 3 = true) :=
  ⟨State.reset.modNode .tsu fun n => { n with bootDone := [3] }, by decide⟩

theorem test_meets_BoundaryWordsActAtTheTsu_5 : ∃ (s : State),
    (Runs s .tsu) ∧ (s.t.genSynced = true ∨ s.ended .tsu 3 = false) :=
  ⟨State.reset, by decide⟩

theorem test_meets_BoundaryWordsActAtTheTsu_6 : ∃ (tag r : Nat) (w : Bool) (s : State),
    (Runs s .tsu) ∧ (fget? s.t.memReqs tag = some (.ring r w)) :=
  ⟨0, 1, true, memState (.ring 1 true), by decide⟩

theorem test_meets_BoundaryWordsActAtTheTsu_7 : ∃ (tag r : Nat) (w : Bool) (s : State),
    (Runs s .tsu) ∧ (fget? s.t.memReqs tag = some (.ring r w)) :=
  ⟨0, 1, true, memState (.ring 1 true), by decide⟩

theorem test_meets_BoundaryWordsActAtTheTsu_8 : ∃ (tag r seq : Nat) (err : Bool) (s : State),
    (Runs s .tsu) ∧ (fget? s.t.memReqs tag = some (.result r seq)) :=
  ⟨0, 1, 5, true, memState (.result 1 5), by decide⟩

theorem test_meets_BoundaryWordsActAtTheTsu_9 : ∃ (tag r : Nat) (s : State),
    (Runs s .tsu) ∧ (fget? s.t.memReqs tag = some (.msix (some r))) :=
  ⟨0, 1, memState (.msix (some 1)), by decide⟩

theorem test_meets_BoundaryWordsActAtTheTsu_10 : ∃ (tag i : Nat) (s : State),
    (Runs s .tsu) ∧ (fget? s.t.memReqs tag = some (.carve i false)) :=
  ⟨0, 1, memState (.carve 1 false), by decide⟩

theorem test_meets_BoundaryWordsActAtTheTsu_11 : ∃ (tag i : Nat) (s : State),
    (Runs s .tsu) ∧ (fget? s.t.memReqs tag = some (.carve i true)) :=
  ⟨0, 1, memState (.carve 1 true), by decide⟩

theorem test_meets_BoundaryWordsActAtTheTsu_12 : ∃ (q : MemReq) (l : List MemReq) (s : State),
    (s.t.memWait = q :: l) :=
  ⟨.carve 1 false, [], State.reset.modT fun t => { t with memWait := [.carve 1 false] }, by decide⟩

theorem test_meets_BoundaryWordsActAtTheTsu_13 : ∃ (r : Nat) (x : Nat × Completion) (s : State),
    ((s.ring .tsu r).held = [x]) ∧ (s.memOpen (.result r x.1) = false) ∧ ((((s.modRing .tsu r fun t => { t with held := [] }).complete .tsu r x.2).ring .tsu r).irqOwed = false) :=
  ⟨1, (5, ⟨0, 0, 0, 0, 0, 0, 0, false⟩), State.reset.modRing .tsu 1 fun t => { t with held := [(5, ⟨0, 0, 0, 0, 0, 0, 0, false⟩)] }, by decide +kernel⟩

theorem test_meets_BoundaryWordsActAtTheTsu_14 : ∃ (status : Nat) (rx : List Int) (s : State),
    (Runs s .tsu) :=
  ⟨0, [], State.reset, by decide⟩

theorem test_meets_BoundaryWordsActAtTheTsu_15 : ∃ (status : Nat) (rx : List Int) (s : State),
    (Runs s .tsu) ∧ (s.tsu.lfn % 2 ^ 20 = 0) :=
  ⟨0, [], State.reset, by decide⟩

theorem test_meets_BoundaryWordsActAtTheTsu_16 : ∃ (status : Nat) (rx : List Int) (s : State),
    (Runs s .tsu) ∧ (s.tsu.lfn % 2 ^ 20 ≠ 0) :=
  ⟨0, [], State.reset.modNode .tsu fun n => { n with lfn := 5 }, by decide⟩


theorem test_meets_ConductorInputsAreHeldAndCommitted_1 : ∃ (pos : Nat) (second : Bool) (c : CompContrib) (s : State),
    (Runs s .dbx) ∧ ((s.rolesAt c.partition pos).isEmpty = true) :=
  ⟨0, false, ⟨0, 0, 0, 0, 0, 0, 0⟩, State.reset, by decide⟩

theorem test_meets_ConductorInputsAreHeldAndCommitted_2 : ∃ (pos : Nat) (c : CompContrib) (s : State),
    (Runs s .dbx) ∧ ((s.rolesAt c.partition pos).isEmpty = false) :=
  ⟨0, ⟨0, 0, 0, 0, 0, 0, 0⟩, roleState 1, by decide⟩

theorem test_meets_ConductorInputsAreHeldAndCommitted_3 : ∃ (pos : Nat) (c : CompContrib) (k : Nat) (s : State),
    (Runs s .dbx) ∧ ((s.rolesAt c.partition pos).isEmpty = false) ∧ (s.apexSlot c.partition = some k) :=
  ⟨0, ⟨0, 0, 0, 0, 0, 0, 0⟩, 0, roleState 1, by decide⟩

theorem test_meets_ConductorInputsAreHeldAndCommitted_4 : ∃ (pos : Nat) (c : CompContrib) (s : State),
    (Runs s .dbx) ∧ ((s.rolesAt c.partition pos).isEmpty = false) ∧ (s.apexSlot c.partition = none) :=
  ⟨0, ⟨0, 0, 0, 0, 0, 0, 0⟩, roleState 0, by decide⟩

theorem test_meets_ConductorInputsAreHeldAndCommitted_5 : ∃ (partition uid port dir k : Nat) (degraded : Bool) (s : State),
    (Runs s .dbx) ∧ (s.apexSlot partition = some k) :=
  ⟨0, 0, 0, 0, 0, true, roleState 1, by decide⟩

theorem test_meets_ConductorInputsAreHeldAndCommitted_6 : ∃ (partition uid port dir : Nat) (degraded : Bool) (s : State),
    (Runs s .dbx) ∧ (s.apexSlot partition = none) :=
  ⟨0, 0, 0, 0, true, State.reset, by decide⟩

theorem test_meets_ConductorInputsAreHeldAndCommitted_7 : ∃ (slot : Option Nat) (k : InputKind) (s : State),
    (s.condRole = 0) ∧ (s.d.notices = []) :=
  ⟨none, .divergence, inputState none 0, by decide⟩

theorem test_meets_ConductorInputsAreHeldAndCommitted_8 : ∃ (id t : Nat) (x : Input) (s : State),
    (Runs s .dbx) ∧ ((s.d.inputs.find? fun x => x.id == id) = some x) ∧ (x.commitAt = some t) ∧ (t ≤ s.dbx.lfn) ∧ (s.condRole ≠ 3) ∧ ((s.d.inputs.any fun y => y.commitAt.isSome && inputBefore y x) = false) :=
  ⟨0, 0, { id := 0, kind := .divergence, heldAt := 0, commitAt := some 0 }, inputState (some 0) 0, by decide⟩

theorem test_meets_ConductorInputsAreHeldAndCommitted_9 : ∃ (id t : Nat) (x : Input) (s : State),
    (Runs s .dbx) ∧ ((s.d.inputs.find? fun x => x.id == id) = some x) ∧ (x.commitAt = some t) ∧ (s.dbx.lfn < t) :=
  ⟨0, 7, { id := 0, kind := .divergence, heldAt := 0, commitAt := some 7 }, inputState (some 7) 0, by decide⟩

theorem test_meets_ConductorInputsAreHeldAndCommitted_10 : ∃ (k : InputKind) (commitLfn : Nat) (s : State),
    (Runs s .dbx) ∧ (s.condRole = 0) ∧ ((s.d.inputs.any fun x => x.kind == k) = false) :=
  ⟨.stepEvent, 5, inputState none 0, by decide⟩

theorem test_meets_ConductorInputsAreHeldAndCommitted_11 : ∃ (k : InputKind) (commitLfn : Nat) (s : State),
    (Runs s .dbx) ∧ (s.condRole = 0) ∧ ((s.d.inputs.any fun x => x.kind == k) = true) :=
  ⟨.divergence, 5, inputState none 0, by decide⟩

theorem test_meets_ConductorInputsAreHeldAndCommitted_12 : ∃ (k : InputKind) (commitLfn : Nat) (x : Input) (s : State),
    (Runs s .dbx) ∧ (s.condRole = 1) ∧ ((s.d.inputs.find? fun x => x.kind == k && x.commitAt.isNone) = some x) ∧ (s.dbx.lfn ≤ commitLfn) :=
  ⟨.divergence, 5, { id := 0, kind := .divergence, heldAt := 0, commitAt := none }, inputState none 1, by decide⟩

theorem test_meets_ConductorInputsAreHeldAndCommitted_13 : ∃ (k : InputKind) (commitLfn : Nat) (x : Input) (s : State),
    (Runs s .dbx) ∧ (s.condRole = 1) ∧ ((s.d.inputs.find? fun x => x.kind == k && x.commitAt.isNone) = some x) ∧ (commitLfn < s.dbx.lfn) :=
  ⟨.divergence, 0, { id := 0, kind := .divergence, heldAt := 0, commitAt := none }, (inputState none 1).modNode .dbx fun n => { n with lfn := 9 }, by decide⟩

theorem test_meets_ConductorInputsAreHeldAndCommitted_14 : ∃ (k : InputKind) (commitLfn : Nat) (s : State),
    (Runs s .dbx) ∧ (s.condRole = 1) ∧ ((s.d.inputs.find? fun x => x.kind == k && x.commitAt.isNone) = none) ∧ (commitLfn < s.dbx.lfn) :=
  ⟨.stepEvent, 0, (inputState none 1).modNode .dbx fun n => { n with lfn := 9 }, by decide⟩

theorem test_meets_ConductorInputsAreHeldAndCommitted_15 : ∃ (ring seq tenant kind commitLfn : Nat) (dsc : Desc) (s : State),
    (Runs s .dbx) ∧ (s.condRole = 1) ∧ ((s.d.inputs.find? fun x => x.kind == .descriptor ring seq dsc tenant kind && x.commitAt.isNone) = none) ∧ (s.dbx.lfn ≤ commitLfn) :=
  ⟨0, 5, 0, 1, 8, descOf 0x10, inputState none 1, by decide⟩

theorem test_meets_ConductorInputsAreHeldAndCommitted_16 : ∃ (k : InputKind) (commitLfn : Nat) (s : State),
    (Runs s .dbx) ∧ (s.condRole = 1) ∧ ((s.d.inputs.find? fun x => x.kind == k && x.commitAt.isNone) = none) ∧ (s.dbx.lfn ≤ commitLfn) ∧ ((∀ ring seq dsc tenant kind, k ≠ .descriptor ring seq dsc tenant kind)) :=
  ⟨.stepEvent, 8, inputState none 1, ⟨by decide, by decide, by decide, by decide, by simp⟩⟩

theorem test_meets_ConductorInputsAreHeldAndCommitted_17 : ∃ (id : Nat) (x : Input) (s : State),
    (Runs s .dbx) ∧ ((s.d.inputs.find? fun x => x.id == id) = some x) ∧ (s.condRole = 1) ∧ (x.commitAt = none) ∧ (x.heldAt + 2 * s.commitLf x.slot ≤ s.dbx.lfn) :=
  ⟨0, { id := 0, kind := .divergence, heldAt := 0, commitAt := none }, (inputState none 1).modNode .dbx fun n => { n with lfn := 1000 }, by decide⟩

theorem test_meets_ConductorInputsAreHeldAndCommitted_18 : ∃ (id : Nat) (x : Input) (s : State),
    (Runs s .dbx) ∧ ((s.d.inputs.find? fun x => x.id == id) = some x) ∧ (s.condRole = 1) ∧ (x.commitAt = none) ∧ (s.dbx.lfn < x.heldAt + 2 * s.commitLf x.slot) :=
  ⟨0, { id := 0, kind := .divergence, heldAt := 0, commitAt := none }, inputState none 1, by decide⟩


theorem test_meets_ConductorPairStaysInStep_1 : ∃ (slot : Nat) (s : State),
    (Runs s .dbx) ∧ (s.condRole ≠ 3) ∧ (s.slotServes slot = true) ∧ (((s.czQueue slot).filter fun x => x.at_ ≤ s.dbx.lfn + 1) = []) :=
  ⟨0, roleState 1, by decide⟩

theorem test_meets_ConductorPairStaysInStep_2 : ∃ (slot : Nat) (x : CzQ) (s : State),
    (Runs s .dbx) ∧ (s.condRole ≠ 3) ∧ (s.slotServes slot = true) ∧ (s.czQueue slot = [x]) ∧ (x.at_ = s.dbx.lfn + 1) ∧ (fget? s.d.czSent slot = none) ∧ (0 < s.czCap slot) ∧ (x.abort = true) :=
  ⟨0, ⟨goodCz, 1, true, 0, 0⟩, emitState, by decide⟩

theorem test_meets_ConductorPairStaysInStep_3 : ∃ (slot : Nat) (x : CzQ) (s : State),
    (Runs s .dbx) ∧ (s.condRole ≠ 3) ∧ (s.slotServes slot = true) ∧ (s.czQueue slot = [x]) ∧ (x.at_ = s.dbx.lfn + 1) ∧ (fget? s.d.czSent slot = none) ∧ (0 < s.czCap slot) ∧ (x.abort = false) ∧ (fget? s.d.czMeter x.plan = none) :=
  ⟨0, ⟨goodCz, 1, false, 0, 0⟩, emitState.modD fun d => { d with czq := [(0, [⟨goodCz, 1, false, 0, 0⟩])] }, by decide⟩

theorem test_meets_ConductorPairStaysInStep_4 : ∃ (s : State),
    (Runs s .dbx) ∧ (s.dbx.lfn % 16 = 0) :=
  ⟨State.reset, by decide⟩

theorem test_meets_ConductorPairStaysInStep_5 : ∃ (s : State),
    (Runs s .dbx) ∧ (s.dbx.lfn % 16 ≠ 0) :=
  ⟨State.reset.modNode .dbx fun n => { n with lfn := 3 }, by decide⟩

theorem test_meets_ConductorPairStaysInStep_6 : ∃ (twin : List Nat) (differing : List (Nat × List Nat)) (msg : TwinMsg) (s : State),
    (Runs s .dbx) ∧ (s.pairUp = true) ∧ (s.compareDue = true) ∧ (s.d.resync = []) ∧ (twin = (List.range 64).map s.groupDigest) ∧ (s.condRole = 0) ∧ (s.d.handing = false) :=
  ⟨(List.range 64).map compareState.groupDigest, [], ⟨[], false⟩, compareState, ⟨by decide, by decide, by decide, by decide, rfl, by decide, by decide⟩⟩

theorem test_meets_ConductorPairStaysInStep_7 : ∃ (twin : List Nat) (differing : List (Nat × List Nat)) (msg : TwinMsg) (s : State),
    (Runs s .dbx) ∧ (s.pairUp = true) ∧ (s.compareDue = true) ∧ (s.d.resync = []) ∧ (twin = (List.range 64).map s.groupDigest) ∧ (s.condRole = 0) ∧ (s.d.handing = true) :=
  ⟨(List.range 64).map (compareState.modD fun d => { d with handing := true }).groupDigest, [], ⟨[], false⟩, compareState.modD fun d => { d with handing := true }, ⟨by decide, by decide, by decide, by decide, rfl, by decide, by decide⟩⟩

theorem test_meets_ConductorPairStaysInStep_8 : ∃ (twin : List Nat) (differing : List (Nat × List Nat)) (msg : TwinMsg) (s : State),
    (Runs s .dbx) ∧ (s.pairUp = true) ∧ (s.compareDue = true) ∧ (s.d.resync = []) ∧ (twin = (List.range 64).map s.groupDigest) ∧ (s.condRole = 1) ∧ (msg.handback = true) :=
  ⟨(List.range 64).map (compareState.wr F.condStatusRole 1).groupDigest, [], ⟨[], true⟩, compareState.wr F.condStatusRole 1, ⟨by decide, by decide, by decide, by decide, rfl, by decide, by decide⟩⟩

theorem test_meets_ConductorPairStaysInStep_9 : ∃ (twin : List Nat) (differing : List (Nat × List Nat)) (msg : TwinMsg) (s : State),
    (Runs s .dbx) ∧ (s.pairUp = true) ∧ (s.compareDue = true) ∧ (s.d.resync = []) ∧ (twin = (List.range 64).map s.groupDigest) ∧ (s.condRole = 1) ∧ (msg.handback = false) :=
  ⟨(List.range 64).map (compareState.wr F.condStatusRole 1).groupDigest, [], ⟨[], false⟩, compareState.wr F.condStatusRole 1, ⟨by decide, by decide, by decide, by decide, rfl, by decide, by decide⟩⟩

theorem test_meets_ConductorPairStaysInStep_10 : ∃ (group : Nat) (records : List (Nat × CondChan)) (s : State),
    (Runs s .dbx) ∧ (s.d.resync.contains group = true) ∧ (s.condRole ≠ 1) ∧ (s.d.badRecs = []) :=
  ⟨3, [], State.reset.modD fun d => { d with resync := [3] }, by decide⟩

theorem test_meets_ConductorPairStaysInStep_11 : ∃ (group : Nat) (records : List (Nat × CondChan)) (s : State),
    (Runs s .dbx) ∧ (s.d.resync.contains group = true) ∧ (s.condRole = 1) :=
  ⟨3, [], (State.reset.wr F.condStatusRole 1).modD fun d => { d with resync := [3] }, by decide⟩

theorem test_meets_ConductorPairStaysInStep_12 : ∃ (ch : Nat) (c : CondChan) (s : State),
    (Runs s .dbx) ∧ (s.chan ch = some c) ∧ (c.r.exec = 6) ∧ (c.wait = .none) ∧ (c.replayAt ≤ s.dbx.lfn) ∧ (s.condRole ≠ 3) :=
  ⟨0, { chan0 with r := { chan0.r with exec := 6 } }, chanState fun c => { c with r := { c.r with exec := 6 } }, by decide⟩

theorem test_meets_ConductorPairStaysInStep_13 : ∃ (s : State),
    (Runs s .dbx) ∧ (s.condRole = 1) ∧ (s.dbx.lfn % 64 = 0) ∧ (s.pairUp = false) ∧ (s.twinLost = true) :=
  ⟨lostTwin 0, by decide⟩

theorem test_meets_ConductorPairStaysInStep_14 : ∃ (s : State),
    (Runs s .dbx) ∧ (s.condRole = 1) ∧ (s.dbx.lfn % 64 = 0) ∧ (s.pairUp = false) ∧ (s.twinLost = false) :=
  ⟨State.reset.wr F.condStatusRole 1, by decide⟩

theorem test_meets_ConductorPairStaysInStep_15 : ∃ (s : State),
    (Runs s .dbx) ∧ (s.condRole = 1) ∧ (s.dbx.lfn % 64 = 0) ∧ (s.pairUp = true) ∧ (s.d.lastCmp + 128 ≤ s.dbx.lfn) :=
  ⟨(compareState.wr F.condStatusRole 1).modNode .dbx fun n => { n with lfn := 128 }, by decide⟩

theorem test_meets_ConductorPairStaysInStep_16 : ∃ (v : Word) (s : State),
    (Runs s .dbx) ∧ (bit v.toNat 0 = true) ∧ ((s.regWrite .dbx 0x50000 v.toNat false true).condRole = 0) ∧ ((s.regWrite .dbx 0x50000 v.toNat false true).is F.condStatusInStep = true) ∧ ((s.regWrite .dbx 0x50000 v.toNat false true).pairUp = true) ∧ ((s.regWrite .dbx 0x50000 v.toNat false true).d.resync = []) :=
  ⟨1, (compareState).wr F.condStatusInStep 1, by decide⟩

theorem test_meets_ConductorPairStaysInStep_17 : ∃ (v : Word) (s : State),
    (Runs s .dbx) ∧ (bit v.toNat 0 = true) ∧ ((s.regWrite .dbx 0x50000 v.toNat false true).condRole ≠ 0) :=
  ⟨1, State.reset.wr F.condStatusRole 1, by decide⟩

theorem test_meets_ConductorPairStaysInStep_18 : ∃ (v : Word) (c : CondChan) (s : State),
    (Runs s .dbx) ∧ ((s.regWrite .dbx 0x57000 v.toNat false true).chan ((s.regWrite .dbx 0x57000 v.toNat false true).rd F.condChSelIndex) = some c) :=
  ⟨0, chan0, chanState fun c => c, by decide⟩

theorem test_meets_ConductorPairStaysInStep_19 : ∃ (v : Word) (s : State),
    (Runs s .dbx) ∧ ((s.regWrite .dbx 0x57000 v.toNat false true).chan ((s.regWrite .dbx 0x57000 v.toNat false true).rd F.condChSelIndex) = none) :=
  ⟨0, State.reset, by decide⟩


theorem test_meets_PlanStoreLoadsAndRetires_1 : ∃ (ring seq : Nat) (f : InFlight) (s : State),
    (Runs s .dbx) ∧ (Asked s .dbx ring seq 0x10 f) ∧ (imTenant f.desc.ext ≠ f.tenant) :=
  ⟨0, 5, { askFor 0x10 with tenant := 9 }, State.reset.modRing .dbx 0 fun t => { t with flight := [{ askFor 0x10 with tenant := 9 }] }, by decide⟩

theorem test_meets_PlanStoreLoadsAndRetires_2 : ∃ (ring seq : Nat) (f : InFlight) (s : State),
    (Runs s .dbx) ∧ (Asked s .dbx ring seq 0x10 f) ∧ (imTenant f.desc.ext = f.tenant) :=
  ⟨0, 5, askFor 0x10, asked .dbx 0x10, by decide⟩

theorem test_meets_PlanStoreLoadsAndRetires_3 : ∃ (ring seq : Nat) (f : InFlight) (q : Plan) (s : State),
    (Runs s .dbx) ∧ (Asked s .dbx ring seq 0x11 f) ∧ (fget? s.d.plans (opnd f.desc 40 2) = some q) ∧ (q.retiring = false) ∧ (q.tenant = f.tenant) :=
  ⟨0, 5, askFor 0x11, plan1 0, (asked .dbx 0x11).modD fun d => { d with plans := [(0, plan1 0)] }, by decide⟩

theorem test_meets_PlanStoreLoadsAndRetires_4 : ∃ (ring seq : Nat) (f : InFlight) (q : Plan) (s : State),
    (Runs s .dbx) ∧ (Asked s .dbx ring seq 0x11 f) ∧ (fget? s.d.plans (opnd f.desc 40 2) = some q) ∧ (q.retiring = false) ∧ (q.tenant ≠ f.tenant) :=
  ⟨0, 5, askFor 0x11, { plan1 0 with tenant := 3 }, (asked .dbx 0x11).modD fun d => { d with plans := [(0, { plan1 0 with tenant := 3 })] }, by decide⟩

theorem test_meets_PlanStoreLoadsAndRetires_5 : ∃ (ring seq : Nat) (f : InFlight) (q : Plan) (s : State),
    (Runs s .dbx) ∧ (Asked s .dbx ring seq 0x11 f) ∧ (fget? s.d.plans (opnd f.desc 40 2) = some q) ∧ (q.retiring = true) :=
  ⟨0, 5, askFor 0x11, { plan1 0 with retiring := true }, (asked .dbx 0x11).modD fun d => { d with plans := [(0, { plan1 0 with retiring := true })] }, by decide⟩

theorem test_meets_PlanStoreLoadsAndRetires_6 : ∃ (ring seq : Nat) (f : InFlight) (s : State),
    (Runs s .dbx) ∧ (Asked s .dbx ring seq 0x11 f) ∧ (fget? s.d.plans (opnd f.desc 40 2) = none) :=
  ⟨0, 5, askFor 0x11, asked .dbx 0x11, by decide⟩

theorem test_meets_PlanStoreLoadsAndRetires_7 : ∃ (i : Nat) (q : Plan) (s : State),
    (fget? s.d.plans i = some q) ∧ (q.retiring = true) ∧ (s.planChans i = []) :=
  ⟨0, { plan1 0 with retiring := true }, State.reset.modD fun d => { d with plans := [(0, { plan1 0 with retiring := true })] }, by decide⟩

theorem test_meets_PlanStoreLoadsAndRetires_8 : ∃ (ch : Nat) (c : CondChan) (s : State),
    (Runs s .dbx) ∧ (s.chan ch = some c) ∧ (c.wait = .reload) :=
  ⟨0, { chan0 with wait := .reload }, chanState fun c => { c with wait := .reload }, by decide⟩

theorem test_meets_PlanStoreLoadsAndRetires_9 : ∃ (records : List (Nat × CondChan)) (images : List PlanCopy) (s : State),
    (Runs s .dbx) ∧ (s.pairUp = true) ∧ (s.condRole = 3 ∨ s.d.chans = []) :=
  ⟨[], [], compareState, by decide⟩


theorem test_meets_LaunchAndEpochWordsGather_1 : ∃ (ch w : Nat) (c : CondChan) (q : Plan) (s : State),
    (Runs s .dbx) ∧ (WordAt s ch 1 c q w) ∧ (((if bits w 45 2 = 3 then [0] else []).any fun g => c.outst.any fun x => x.2 == g) = false) ∧ ((bit w 47 = true → s.czCap c.r.slot ≠ 0)) :=
  ⟨0, 2 ^ 56 + 2 ^ 48 + 2 ^ 47, { runner with inRun := true }, plan1 (2 ^ 56 + 2 ^ 48 + 2 ^ 47), atWord (2 ^ 56 + 2 ^ 48 + 2 ^ 47) (fun c => { c with inRun := true }), by decide⟩

theorem test_meets_LaunchAndEpochWordsGather_2 : ∃ (ch w : Nat) (c : CondChan) (q : Plan) (s : State),
    (Runs s .dbx) ∧ (s.condRole ≠ 3) ∧ (s.chan ch = some c) ∧ (chanReady c = true) ∧ (s.turn ch c = true) ∧ (s.planOf c = some q) ∧ (q.word c.r.variant c.r.pc = some w) ∧ (bits w 56 8 = 1) ∧ (q.wordsMp ≤ s.wordsUsed c.r.plan) ∧ (s.d.badRecs.contains ch = false) ∧ (s.d.foundRecs.contains ch = false) ∧ (s.d.badWords.contains (c.r.plan, c.r.variant, c.r.pc) = false) :=
  ⟨0, 2 ^ 56, runner, plan1 (2 ^ 56), (atWord (2 ^ 56) fun c => c).modD fun d => { d with meters := [(0, 4)] }, by decide⟩

theorem test_meets_LaunchAndEpochWordsGather_3 : ∃ (ch w : Nat) (c : CondChan) (q : Plan) (s : State),
    (Runs s .dbx) ∧ (WordAt s ch 9 c q w) ∧ (((if bit w 13 then [bits w 14 3] else []).any fun g => c.outst.any fun x => x.2 == g) = false) :=
  ⟨0, 9 * 2 ^ 56, runner, plan1 (9 * 2 ^ 56), atWord (9 * 2 ^ 56) (fun c => c), by decide⟩

theorem test_meets_LaunchAndEpochWordsGather_4 : ∃ (ch w : Nat) (q : Plan) (f : Nat → State → State) (c : CondChan) (s : State),
    (s.chan ch = some c) :=
  ⟨0, 0, plan1 0, fun _ s => s, runner, atWord 0 fun c => c, by decide⟩

theorem test_meets_LaunchAndEpochWordsGather_5 : ∃ (ch w : Nat) (q : Plan) (f : Nat → State → State) (c : CondChan) (s : State),
    (s.chan ch = some c) ∧ (c.pauseBy ≠ []) :=
  ⟨0, 0, plan1 0, fun _ s => s, { runner with pauseBy := [(0, 5)] }, atWord 0 fun c => { c with pauseBy := [(0, 5)] }, by decide⟩


theorem test_meets_WaitWordsAndDeadlines_1 : ∃ (ch w : Nat) (c : CondChan) (q : Plan) (s : State),
    (Runs s .dbx) ∧ (WordAt s ch 2 c q w) ∧ (c.r.stepOpen = false) :=
  ⟨0, 2 * 2 ^ 56, runner, plan1 (2 * 2 ^ 56), atWord (2 * 2 ^ 56) (fun c => c), by decide⟩

theorem test_meets_WaitWordsAndDeadlines_2 : ∃ (ch w : Nat) (c : CondChan) (q : Plan) (s : State),
    (Runs s .dbx) ∧ (WordAt s ch 2 c q w) ∧ (c.r.stepOpen = true) ∧ (c.done = true) :=
  ⟨0, 2 * 2 ^ 56, { runner with done := true, r := { runner.r with stepOpen := true } }, plan1 (2 * 2 ^ 56), atWord (2 * 2 ^ 56) (fun c => { c with done := true, r := { c.r with stepOpen := true } }), by decide⟩

theorem test_meets_WaitWordsAndDeadlines_3 : ∃ (ch w : Nat) (c : CondChan) (q : Plan) (s : State),
    (Runs s .dbx) ∧ (WordAt s ch 2 c q w) ∧ (c.r.stepOpen = true) ∧ (c.done = false) :=
  ⟨0, 2 * 2 ^ 56, { runner with r := { runner.r with stepOpen := true } }, plan1 (2 * 2 ^ 56), atWord (2 * 2 ^ 56) (fun c => { c with r := { c.r with stepOpen := true } }), by decide⟩

theorem test_meets_WaitWordsAndDeadlines_4 : ∃ (ch : Nat) (c c2 : CondChan) (s : State),
    (Runs s .dbx) ∧ (s.chan ch = some c) ∧ (c.wait = .aggregate) ∧ (c.r.exec = 2) ∧ (c.r.stepOpen = true) ∧ (c.done = false) ∧ (c.deadline ≤ s.dbx.lfn) ∧ ((((s.modCh ch fun c => { c with r := { c.r with aggStatus := orSt c.r.aggStatus stMissing }, shortfall := c.r.expected - c.r.aggCount, dead := true }).bump F.condMissingCount).judgeFaults ch).chan ch = some c2) ∧ (c2.wait = .aggregate) ∧ (c2.r.exec = 2) :=
  ⟨0, lateChan, lateAfter 0, lateStart 0, by decide +kernel⟩

theorem test_meets_WaitWordsAndDeadlines_5 : ∃ (ch : Nat) (c c2 : CondChan) (s : State),
    (Runs s .dbx) ∧ (s.chan ch = some c) ∧ (c.wait = .aggregate) ∧ (c.r.exec = 2) ∧ (c.r.stepOpen = true) ∧ (c.done = false) ∧ (c.deadline ≤ s.dbx.lfn) ∧ ((((s.modCh ch fun c => { c with r := { c.r with aggStatus := orSt c.r.aggStatus stMissing }, shortfall := c.r.expected - c.r.aggCount, dead := true }).bump F.condMissingCount).judgeFaults ch).chan ch = some c2) ∧ (c2.wait ≠ .aggregate ∨ c2.r.exec ≠ 2) :=
  ⟨0, lateChan, lateAfter 1, lateStart 1, by decide +kernel⟩

theorem test_meets_WaitWordsAndDeadlines_6 : ∃ (ch : Nat) (c : CondChan) (s : State),
    (Runs s .dbx) ∧ (s.chan ch = some c) ∧ (c.wait = .aggregate) ∧ (c.r.exec = 2) ∧ (c.r.stepOpen = true) ∧ (c.done = false) ∧ (s.dbx.lfn < c.deadline) :=
  ⟨0, { lateChan with deadline := 9 }, chanState fun _ => { lateChan with deadline := 9 }, by decide⟩


theorem test_meets_ReduceSampleAcceptWords_1 : ∃ (ch w : Nat) (c : CondChan) (q : Plan) (s : State),
    (Runs s .dbx) ∧ (WordAt s ch 3 c q w) :=
  ⟨0, 3 * 2 ^ 56, runner, plan1 (3 * 2 ^ 56), atWord (3 * 2 ^ 56) (fun c => c), by decide⟩

theorem test_meets_ReduceSampleAcceptWords_2 : ∃ (ch w : Nat) (c : CondChan) (q : Plan) (s : State),
    (Runs s .dbx) ∧ (WordAt s ch 4 c q w) :=
  ⟨0, 4 * 2 ^ 56, runner, plan1 (4 * 2 ^ 56), atWord (4 * 2 ^ 56) (fun c => c), by decide⟩

theorem test_meets_ReduceSampleAcceptWords_3 : ∃ (part w step pos : Nat) (h : PHdr) (roles : Option Ivs) (s : State),
    ((s.d.tau.find? fun k => k.partition == part && samePKey k.first h) = none) :=
  ⟨0, 0, 0, 0, hdr0, none, State.reset, by decide⟩

theorem test_meets_ReduceSampleAcceptWords_4 : ∃ (ch w : Nat) (c : CondChan) (q : Plan) (s : State),
    (Runs s .dbx) ∧ (WordAt s ch 5 c q w) :=
  ⟨0, 5 * 2 ^ 56, runner, plan1 (5 * 2 ^ 56), atWord (5 * 2 ^ 56) (fun c => c), by decide⟩


theorem test_meets_ControlWordsMoveThePlan_1 : ∃ (ch w : Nat) (c : CondChan) (q : Plan) (s : State),
    (Runs s .dbx) ∧ (WordAt s ch 6 c q w) ∧ (((if 1 ≤ bits w 20 4 && bits w 20 4 ≤ 3 then [bits w 24 3] else []).any fun g => c.outst.any fun x => x.2 == g) = false) :=
  ⟨0, 6 * 2 ^ 56 + 7, runner, plan1 (6 * 2 ^ 56 + 7), atWord (6 * 2 ^ 56 + 7) (fun c => c), by decide⟩

theorem test_meets_ControlWordsMoveThePlan_2 : ∃ (ch w : Nat) (c : CondChan) (q : Plan) (s : State),
    (Runs s .dbx) ∧ (WordAt s ch 7 c q w) ∧ (bit w 22 = true) :=
  ⟨0, 7 * 2 ^ 56 + 2 ^ 22, runner, plan1 (7 * 2 ^ 56 + 2 ^ 22), atWord (7 * 2 ^ 56 + 2 ^ 22) (fun c => c), by decide⟩

theorem test_meets_ControlWordsMoveThePlan_3 : ∃ (ch w : Nat) (c : CondChan) (q : Plan) (s : State),
    (Runs s .dbx) ∧ (WordAt s ch 7 c q w) ∧ (bit w 22 = false) :=
  ⟨0, 7 * 2 ^ 56, runner, plan1 (7 * 2 ^ 56), atWord (7 * 2 ^ 56) (fun c => c), by decide⟩

theorem test_meets_ControlWordsMoveThePlan_4 : ∃ (ch w : Nat) (c : CondChan) (q : Plan) (s : State),
    (Runs s .dbx) ∧ (WordAt s ch 11 c q w) ∧ (((if bit w 26 then [bits w 23 3] else [bits w 20 3, bits w 23 3]).any fun g => c.outst.any fun x => x.2 == g) = false) ∧ (c.r.holdLeft ≠ 0) :=
  ⟨0, 11 * 2 ^ 56, { runner with r := { runner.r with holdLeft := 1 } }, plan1 (11 * 2 ^ 56), atWord (11 * 2 ^ 56) (fun c => { c with r := { c.r with holdLeft := 1 } }), by decide⟩

theorem test_meets_ControlWordsMoveThePlan_5 : ∃ (ch w : Nat) (c : CondChan) (q : Plan) (s : State),
    (Runs s .dbx) ∧ (WordAt s ch 11 c q w) ∧ (((if bit w 26 then [bits w 23 3] else [bits w 20 3, bits w 23 3]).any fun g => c.outst.any fun x => x.2 == g) = false) ∧ (c.r.holdLeft = 0) :=
  ⟨0, 11 * 2 ^ 56, runner, plan1 (11 * 2 ^ 56), atWord (11 * 2 ^ 56) (fun c => c), by decide⟩

theorem test_meets_ControlWordsMoveThePlan_6 : ∃ (ch w : Nat) (c : CondChan) (q : Plan) (s : State),
    (Runs s .dbx) ∧ (WordAt s ch 12 c q w) ∧ (((if bit w 6 then [bits w 3 3] else []).any fun g => c.outst.any fun x => x.2 == g) = false) ∧ (digestSor c = none) :=
  ⟨0, 12 * 2 ^ 56, runner, plan1 (12 * 2 ^ 56), atWord (12 * 2 ^ 56) (fun c => c), by decide⟩

theorem test_meets_ControlWordsMoveThePlan_7 : ∃ (ch w : Nat) (c : CondChan) (q : Plan) (x : Soredium) (s : State),
    (Runs s .dbx) ∧ (WordAt s ch 12 c q w) ∧ (((if bit w 6 then [bits w 3 3] else []).any fun g => c.outst.any fun x => x.2 == g) = false) ∧ (digestSor c = some x) ∧ (bit w 7 = false) :=
  ⟨0, 12 * 2 ^ 56, sorChan, plan1 (12 * 2 ^ 56), sor0, atWord (12 * 2 ^ 56) fun _ => sorChan, by decide⟩

theorem test_meets_ControlWordsMoveThePlan_8 : ∃ (ch w : Nat) (c : CondChan) (q : Plan) (x : Soredium) (s : State),
    (Runs s .dbx) ∧ (WordAt s ch 12 c q w) ∧ (((if bit w 6 then [bits w 3 3] else []).any fun g => c.outst.any fun x => x.2 == g) = false) ∧ (digestSor c = some x) ∧ (bit w 7 = true) ∧ (s.ringFree c.r.ring = true) :=
  ⟨0, 12 * 2 ^ 56 + 2 ^ 7, sorChan, plan1 (12 * 2 ^ 56 + 2 ^ 7), sor0, (atWord (12 * 2 ^ 56 + 2 ^ 7) fun _ => sorChan).wr F.condStatusRole 1, by decide⟩

theorem test_meets_ControlWordsMoveThePlan_9 : ∃ (ch w : Nat) (c : CondChan) (q : Plan) (a : CondChan) (s : State),
    (Runs s .dbx) ∧ (WordAt s ch 13 c q w) ∧ ((([bits w 16 3, bits w 19 3]).any fun g => c.outst.any fun x => x.2 == g) = false) ∧ (s.ringFree c.r.ring = true) ∧ (c.resume ≠ 3) ∧ ((((s.countWord ch c).nextPc ch).post ch 1 (bits w 0 16) (c.r.g.getD (bits w 16 3) 0) (c.r.g.getD (bits w 19 3) 0) (bit w 22)).chan ch = some a) ∧ (a.wait ≠ .ring) :=
  ⟨0, 13 * 2 ^ 56, runner, plan1 (13 * 2 ^ 56), postAfter, postState, by decide +kernel⟩

theorem test_meets_ControlWordsMoveThePlan_10 : ∃ (ch w : Nat) (c : CondChan) (q : Plan) (a : CondChan) (s : State),
    (Runs s .dbx) ∧ (WordAt s ch 13 c q w) ∧ ((([bits w 16 3, bits w 19 3]).any fun g => c.outst.any fun x => x.2 == g) = false) ∧ (s.ringFree c.r.ring = false) ∧ ((s.holdCh ch 3 .ring).chan ch = some a) ∧ (a.wait = .ring) :=
  ⟨0, 13 * 2 ^ 56, runner, plan1 (13 * 2 ^ 56), heldAfter, fullState, by decide +kernel⟩

theorem test_meets_ControlWordsMoveThePlan_11 : ∃ (ch w : Nat) (c : CondChan) (q : Plan) (s : State),
    (Runs s .dbx) ∧ (WordAt s ch 15 c q w) ∧ (bit w 0 = false) :=
  ⟨0, 15 * 2 ^ 56, runner, plan1 (15 * 2 ^ 56), atWord (15 * 2 ^ 56) (fun c => c), by decide⟩

theorem test_meets_ControlWordsMoveThePlan_12 : ∃ (ch w : Nat) (c : CondChan) (q : Plan) (a : CondChan) (s : State),
    (Runs s .dbx) ∧ (WordAt s ch 15 c q w) ∧ (bit w 0 = true) ∧ (s.ringFree c.r.ring = true) ∧ ((((s.countWord ch c).event ch 0x81 0 0).holdCh ch 5 .none).chan ch = some a) ∧ (a.wait ≠ .ring) :=
  ⟨0, 15 * 2 ^ 56 + 1, runner, plan1 (15 * 2 ^ 56 + 1), haltAfter, haltState, by decide +kernel⟩


theorem test_meets_PeristomeAndSwapWords_1 : ∃ (ch w : Nat) (c : CondChan) (q : Plan) (s : State),
    (Runs s .dbx) ∧ (WordAt s ch 8 c q w) ∧ (bit w 55 = false) ∧ (c.r.epochStrict = false) ∧ ((((s.countWord ch c).nextPc ch).peri ((s.countWord ch c).rd F.condSharePeriBase c.r.slot + bits w 0 12)).state ≠ 1) :=
  ⟨0, 8 * 2 ^ 56, runner, plan1 (8 * 2 ^ 56), atWord (8 * 2 ^ 56) (fun c => c), by decide⟩

theorem test_meets_PeristomeAndSwapWords_2 : ∃ (ch w : Nat) (c : CondChan) (q : Plan) (s : State),
    (Runs s .dbx) ∧ (WordAt s ch 8 c q w) ∧ (bit w 55 = false) ∧ (c.r.epochStrict = false) ∧ ((((s.countWord ch c).nextPc ch).peri ((s.countWord ch c).rd F.condSharePeriBase c.r.slot + bits w 0 12)).state = 1) ∧ ((((s.countWord ch c).nextPc ch).peri ((s.countWord ch c).rd F.condSharePeriBase c.r.slot + bits w 0 12)).timedOut = false) :=
  ⟨0, 8 * 2 ^ 56, runner, plan1 (8 * 2 ^ 56), (atWord (8 * 2 ^ 56) fun c => c).modD fun d => { d with peris := [(0, { state := 1 })] }, by decide⟩

theorem test_meets_PeristomeAndSwapWords_3 : ∃ (ch w : Nat) (c : CondChan) (q : Plan) (s : State),
    (Runs s .dbx) ∧ (WordAt s ch 8 c q w) ∧ (bit w 55 = false) ∧ (c.r.epochStrict = false) ∧ ((((s.countWord ch c).nextPc ch).peri ((s.countWord ch c).rd F.condSharePeriBase c.r.slot + bits w 0 12)).state = 1) ∧ ((((s.countWord ch c).nextPc ch).peri ((s.countWord ch c).rd F.condSharePeriBase c.r.slot + bits w 0 12)).timedOut = true) :=
  ⟨0, 8 * 2 ^ 56, runner, plan1 (8 * 2 ^ 56), (atWord (8 * 2 ^ 56) fun c => c).modD fun d => { d with peris := [(0, { state := 1, timedOut := true })] }, by decide⟩

theorem test_meets_PeristomeAndSwapWords_4 : ∃ (ch w : Nat) (c : CondChan) (q : Plan) (s : State),
    (Runs s .dbx) ∧ (WordAt s ch 8 c q w) ∧ (bit w 55 = true) ∧ (((s.countWord ch c).peri ((s.countWord ch c).rd F.condSharePeriBase c.r.slot + bits w 0 12)).state ≠ 1) ∧ (c.r.epochStrict = false) ∧ ((((((s.countWord ch c).setPeri ((s.countWord ch c).rd F.condSharePeriBase c.r.slot + bits w 0 12) ⟨1, bits w 12 8, bits w 20 1, c.r.slot, (s.countWord ch c).periDeadline (bits w 48 5), false, false⟩).configPeri
        c.r.slot (q.entry (bits w 21 12)) (bits w 12 8) (bits w 33 3) (bits w 36 12) (bits w 20 1)).nextPc ch).peri ((s.countWord ch c).rd F.condSharePeriBase c.r.slot + bits w 0 12)).state = 1) ∧ ((((((s.countWord ch c).setPeri ((s.countWord ch c).rd F.condSharePeriBase c.r.slot + bits w 0 12) ⟨1, bits w 12 8, bits w 20 1, c.r.slot, (s.countWord ch c).periDeadline (bits w 48 5), false, false⟩).configPeri
        c.r.slot (q.entry (bits w 21 12)) (bits w 12 8) (bits w 33 3) (bits w 36 12) (bits w 20 1)).nextPc ch).peri ((s.countWord ch c).rd F.condSharePeriBase c.r.slot + bits w 0 12)).timedOut = false) :=
  ⟨0, 8 * 2 ^ 56 + 2 ^ 55, runner, plan1 (8 * 2 ^ 56 + 2 ^ 55), atWord (8 * 2 ^ 56 + 2 ^ 55) fun c => c, by decide +kernel⟩

theorem test_meets_PeristomeAndSwapWords_5 : ∃ (ch w : Nat) (c : CondChan) (q : Plan) (s : State),
    (Runs s .dbx) ∧ (WordAt s ch 10 c q w) ∧ ((([bits w 44 3]).any fun g => c.outst.any fun x => x.2 == g) = false) ∧ (s.swapOf c.r.slot = none) :=
  ⟨0, 10 * 2 ^ 56, runner, plan1 (10 * 2 ^ 56), atWord (10 * 2 ^ 56) (fun c => c), by decide⟩

theorem test_meets_PeristomeAndSwapWords_6 : ∃ (ch w : Nat) (c : CondChan) (q : Plan) (x : SwapRt) (s : State),
    (Runs s .dbx) ∧ (WordAt s ch 10 c q w) ∧ ((([bits w 44 3]).any fun g => c.outst.any fun x => x.2 == g) = false) ∧ (s.swapOf c.r.slot = some x) :=
  ⟨0, 10 * 2 ^ 56, runner, plan1 (10 * 2 ^ 56), swap0 0, (atWord (10 * 2 ^ 56) fun c => c).modD fun d => { d with swaps := [(0, swap0 0)] }, by decide⟩

theorem test_meets_PeristomeAndSwapWords_7 : ∃ (slot : Nat) (x : SwapRt) (s : State),
    (Runs s .dbx) ∧ (s.swapOf slot = some x) ∧ (x.phase = 0) ∧ ((∀ i ∈ s.slotChans slot, ∀ d, s.chan i = some d → d.offPeri = true ∨ d.r.periPos ≠ x.at x.cur)) :=
  ⟨0, swap0 0, swapOpen, ⟨by decide, by decide, by decide, by decide⟩⟩

theorem test_meets_PeristomeAndSwapWords_8 : ∃ (slot t : Nat) (x : SwapRt) (s : State),
    (Runs s .dbx) ∧ (s.swapOf slot = some x) ∧ (x.phase ≠ 0) ∧ ((s.peri (x.at x.cur)).state ≠ 2) ∧ ((s.peri (x.at x.cur)).deadline = some t) ∧ (t ≤ s.dbx.lfn) :=
  ⟨0, 0, swap0 1, swapState 1 1, by decide⟩

theorem test_meets_PeristomeAndSwapWords_9 : ∃ (slot : Nat) (x : SwapRt) (s : State),
    (Runs s .dbx) ∧ (s.swapOf slot = some x) ∧ (x.phase ≠ 0) ∧ ((s.peri (x.at x.cur)).state = 2) ∧ (x.cur = x.last) :=
  ⟨0, swap0 1, swapState 1 2, by decide⟩

theorem test_meets_PeristomeAndSwapWords_10 : ∃ (slot : Nat) (x : SwapRt) (s : State),
    (Runs s .dbx) ∧ (s.swapOf slot = some x) ∧ (x.phase ≠ 0) ∧ ((s.peri (x.at x.cur)).state = 2) ∧ (x.cur ≠ x.last) :=
  ⟨0, { swap0 1 with last := 5 }, (swapState 1 2).modD fun d => { d with swaps := [(0, { swap0 1 with last := 5 })] }, by decide⟩

theorem test_meets_PeristomeAndSwapWords_11 : ∃ (index t : Nat) (s : State),
    (Runs s .dbx) ∧ ((s.peri index).deadline = some t) ∧ ((s.peri index).state = 1) ∧ (t ≤ s.dbx.lfn) ∧ ((s.peri index).timedOut = false) :=
  ⟨0, 0, swapState 1 1, by decide⟩


theorem test_meets_ReductionFrontEndContributes_1 : ∃ (hdr : CtHdr) (data : List Byte) (s : State),
    (Runs s .tsu) ∧ (s.hasRole = true) ∧ ((s.chanOf hdr.handle).isSome = true) ∧ (s.attempt (hIndex hdr.handle) = hdr.attempt) ∧ (s.t.closed.any (samePKey (rfeHdr hdr (s.rd F.roleRole))) = false) :=
  ⟨ct0, [], contribState, by decide⟩

theorem test_meets_ReductionFrontEndContributes_2 : ∃ (hdr : CtHdr) (data : List Byte) (s : State),
    (Runs s .tsu) ∧ (s.hasRole = true) ∧ ((s.chanOf hdr.handle).isSome = true) ∧ (s.attempt (hIndex hdr.handle) = hdr.attempt) ∧ (s.t.closed.any (samePKey (rfeHdr hdr (s.rd F.roleRole))) = false) :=
  ⟨ct0, [], contribState, by decide⟩

theorem test_meets_ReductionFrontEndContributes_3 : ∃ (hdr : CtHdr) (data : List Byte) (last : Bool) (s : State),
    (Runs s .tsu) ∧ (s.hasRole = false ∨ s.chanOf hdr.handle = none ∨ s.attempt (hIndex hdr.handle) ≠ hdr.attempt ∨ s.t.closed.any (samePKey (rfeHdr hdr (s.rd F.roleRole))) = true) :=
  ⟨ct0, [], true, State.reset, by decide⟩

theorem test_meets_ReductionFrontEndContributes_4 : ∃ (i : Nat) (port share nowSub : Nat) (hdr : PHdr) (body : List Byte) (s : State),
    (Runs s .tsu) ∧ (((s.modNode .tsu fun n => { n with sub := max n.sub (nowSub % 8192) }).keepBcast port hdr body).2 = true) ∧ (((s.modNode .tsu fun n => { n with sub := max n.sub (nowSub % 8192) }).keepBcast port hdr body).1.freeSlot = some i) ∧ (((s.modNode .tsu fun n => { n with sub := max n.sub (nowSub % 8192) }).keepBcast port hdr body).1.t.slotWait = []) :=
  ⟨0, 0, 0, 0, hdr0, [], State.reset, by decide⟩

theorem test_meets_ReductionFrontEndContributes_5 : ∃ (port share nowSub : Nat) (hdr : PHdr) (body : List Byte) (s : State),
    (Runs s .tsu) ∧ (((s.modNode .tsu fun n => { n with sub := max n.sub (nowSub % 8192) }).keepBcast port hdr body).2 = true) ∧ (((s.modNode .tsu fun n => { n with sub := max n.sub (nowSub % 8192) }).keepBcast port hdr body).1.freeSlot = none ∨ ((s.modNode .tsu fun n => { n with sub := max n.sub (nowSub % 8192) }).keepBcast port hdr body).1.t.slotWait ≠ []) :=
  ⟨0, 0, 0, hdr0, [], fullSlots, by decide +kernel⟩

theorem test_meets_ReductionFrontEndContributes_6 : ∃ (port share nowSub : Nat) (hdr : PHdr) (body : List Byte) (s : State),
    (Runs s .tsu) ∧ (((s.modNode .tsu fun n => { n with sub := max n.sub (nowSub % 8192) }).keepBcast port hdr body).2 = false) :=
  ⟨0, 0, 0, hdr0, [], State.reset.modT fun t => { t with bcasts := [⟨hdr0, [], 0, 0, 0⟩] }, by decide⟩

theorem test_meets_ReductionFrontEndContributes_7 : ∃ (i : Nat) (h : PHdr) (b : List Byte) (rest : List (PHdr × List Byte)) (s : State),
    (Runs s .tsu) ∧ (s.freeSlot = some i) ∧ (s.t.slotWait = (h, b) :: rest) :=
  ⟨0, hdr0, [], [], State.reset.modT fun t => { t with slotWait := [(hdr0, [])] }, by decide⟩

theorem test_meets_ReductionFrontEndContributes_8 : ∃ (s : State),
    (Runs s .tsu) :=
  ⟨State.reset, by decide⟩

theorem test_meets_ReductionFrontEndContributes_9 : ∃ (port share nowSub : Nat) (hdr : PHdr) (body : List Byte) (s : State),
    (Runs s .dbx) ∧ (s.is F.shareValid share = false) :=
  ⟨0, 0, 0, hdr0, [], State.reset, by decide⟩

theorem test_meets_ReductionFrontEndContributes_10 : ∃ (port share nowSub : Nat) (hdr : PHdr) (body : List Byte) (s : State),
    (Runs s .dbx) ∧ (s.is F.shareValid share = true) ∧ ((s.d.bcasts.filter fun b => s.dbx.lfn < b.atLfn + max 1 (s.rd F.czCfgWindow)).find? (fun b => b.partition == (s.rd F.sharePartition share) && samePKey b.hdr hdr) = none) :=
  ⟨0, 0, 0, hdr0, [], State.reset.wr F.shareValid 1 0, by decide⟩

theorem test_meets_ReductionFrontEndContributes_11 : ∃ (port share nowSub : Nat) (hdr : PHdr) (body : List Byte) (b : BcastKey) (s : State),
    (Runs s .dbx) ∧ (s.is F.shareValid share = true) ∧ ((s.d.bcasts.filter fun b => s.dbx.lfn < b.atLfn + max 1 (s.rd F.czCfgWindow)).find? (fun b => b.partition == (s.rd F.sharePartition share) && samePKey b.hdr hdr) = some b) ∧ (b.hdr = hdr ∧ b.body = body) :=
  ⟨0, 0, 0, hdr0, [], (⟨hdr0, [], 0, 0, 0⟩ : BcastKey), (State.reset.wr F.shareValid 1 0).modD fun d => { d with bcasts := [(⟨hdr0, [], 0, 0, 0⟩ : BcastKey)] }, by decide⟩

theorem test_meets_ReductionFrontEndContributes_12 : ∃ (port share nowSub : Nat) (hdr : PHdr) (body : List Byte) (b : BcastKey) (s : State),
    (Runs s .dbx) ∧ (s.is F.shareValid share = true) ∧ ((s.d.bcasts.filter fun b => s.dbx.lfn < b.atLfn + max 1 (s.rd F.czCfgWindow)).find? (fun b => b.partition == (s.rd F.sharePartition share) && samePKey b.hdr hdr) = some b) ∧ ((b.hdr = hdr ∧ b.body = body) = False) :=
  ⟨0, 0, 0, hdr0, [], { (⟨hdr0, [], 0, 0, 0⟩ : BcastKey) with body := [9] }, (State.reset.wr F.shareValid 1 0).modD fun d => { d with bcasts := [{ (⟨hdr0, [], 0, 0, 0⟩ : BcastKey) with body := [9] }] }, by decide⟩

theorem test_meets_ReductionFrontEndContributes_13 : ∃ (port share m w : Nat) (skip : Bool) (hdr : PHdr) (s : State),
    (Runs s .tsu) ∧ ((s.keepBcast port { hdr with op := opPass2 } [m, w, b2n skip]).2 = false) :=
  ⟨0, 0, 1, 2, true, hdr0, State.reset.modT fun t => { t with bcasts := [⟨{ hdr0 with op := opPass2 }, [1, 2, 1], 0, 0, 0⟩] }, by decide⟩

theorem test_meets_ReductionFrontEndContributes_14 : ∃ (port share m w : Nat) (skip : Bool) (hdr : PHdr) (s : State),
    (Runs s .tsu) ∧ ((s.keepBcast port { hdr with op := opPass2 } [m, w, b2n skip]).2 = true) ∧ (skip = true) :=
  ⟨0, 0, 1, 2, true, hdr0, State.reset, by decide⟩

theorem test_meets_ReductionFrontEndContributes_15 : ∃ (port share m w : Nat) (skip : Bool) (hdr : PHdr) (b : LogitBuf) (s : State),
    (Runs s .tsu) ∧ ((s.keepBcast port { hdr with op := opPass2 } [m, w, b2n skip]).2 = true) ∧ (skip = false) ∧ (logitsOf (s.keepBcast port { hdr with op := opPass2 } [m, w, b2n skip]).1.t.logits { hdr with op := opPass2 } = some b) :=
  ⟨0, 0, 1, 2, false, hdr0, ⟨{ hdr0 with op := opPass1 }, [], 0⟩, State.reset.modT fun t => { t with logits := [⟨{ hdr0 with op := opPass1 }, [], 0⟩] }, by decide⟩

theorem test_meets_ReductionFrontEndContributes_16 : ∃ (port share m w : Nat) (skip : Bool) (hdr : PHdr) (s : State),
    (Runs s .tsu) ∧ ((s.keepBcast port { hdr with op := opPass2 } [m, w, b2n skip]).2 = true) ∧ (skip = false) ∧ (logitsOf (s.keepBcast port { hdr with op := opPass2 } [m, w, b2n skip]).1.t.logits { hdr with op := opPass2 } = none) ∧ ((((s.keepBcast port { hdr with op := opPass2 } [m, w, b2n skip]).1.modT fun t => { t with logits := t.logits.filter fun b => some b != logitsOf (s.keepBcast port { hdr with op := opPass2 } [m, w, b2n skip]).1.t.logits { hdr with op := opPass2 } }).showRfe).dieInScope { hdr with op := opPass2 } = true) :=
  ⟨0, 0, 1, 2, false, { hdr0 with scope := 1 }, contribState, by decide⟩

theorem test_meets_ReductionFrontEndContributes_17 : ∃ (port share m w : Nat) (skip : Bool) (hdr : PHdr) (s : State),
    (Runs s .dbx) ∧ (s.is F.shareValid share = false) :=
  ⟨0, 0, 1, 2, true, hdr0, State.reset, by decide⟩

theorem test_meets_ReductionFrontEndContributes_18 : ∃ (port share m w : Nat) (skip : Bool) (hdr : PHdr) (s : State),
    (Runs s .dbx) ∧ (s.is F.shareValid share = true) ∧ ((s.d.bcasts.filter fun b => s.dbx.lfn < b.atLfn + max 1 (s.rd F.czCfgWindow)).find? (fun b => b.partition == (s.rd F.sharePartition share) && samePKey b.hdr { hdr with op := opPass2 }) = none) :=
  ⟨0, 0, 1, 2, true, hdr0, State.reset.wr F.shareValid 1 0, by decide⟩

theorem test_meets_ReductionFrontEndContributes_19 : ∃ (port share m w : Nat) (skip : Bool) (hdr : PHdr) (b : BcastKey) (s : State),
    (Runs s .dbx) ∧ (s.is F.shareValid share = true) ∧ ((s.d.bcasts.filter fun b => s.dbx.lfn < b.atLfn + max 1 (s.rd F.czCfgWindow)).find? (fun b => b.partition == (s.rd F.sharePartition share) && samePKey b.hdr { hdr with op := opPass2 }) = some b) ∧ (b.hdr = { hdr with op := opPass2 } ∧ b.body = [m, w, b2n skip]) :=
  ⟨0, 0, 1, 2, true, hdr0, (⟨{ hdr0 with op := opPass2 }, [1, 2, 1], 0, 0, 0⟩ : BcastKey), (State.reset.wr F.shareValid 1 0).modD fun d => { d with bcasts := [(⟨{ hdr0 with op := opPass2 }, [1, 2, 1], 0, 0, 0⟩ : BcastKey)] }, by decide⟩

theorem test_meets_ReductionFrontEndContributes_20 : ∃ (port share m w : Nat) (skip : Bool) (hdr : PHdr) (b : BcastKey) (s : State),
    (Runs s .dbx) ∧ (s.is F.shareValid share = true) ∧ ((s.d.bcasts.filter fun b => s.dbx.lfn < b.atLfn + max 1 (s.rd F.czCfgWindow)).find? (fun b => b.partition == (s.rd F.sharePartition share) && samePKey b.hdr { hdr with op := opPass2 }) = some b) ∧ ((b.hdr = { hdr with op := opPass2 } ∧ b.body = [m, w, b2n skip]) = False) :=
  ⟨0, 0, 1, 2, true, hdr0, { (⟨{ hdr0 with op := opPass2 }, [1, 2, 1], 0, 0, 0⟩ : BcastKey) with body := [9] }, (State.reset.wr F.shareValid 1 0).modD fun d => { d with bcasts := [{ (⟨{ hdr0 with op := opPass2 }, [1, 2, 1], 0, 0, 0⟩ : BcastKey) with body := [9] }] }, by decide⟩

theorem test_meets_ReductionFrontEndContributes_21 : ∃ (s : State),
    (Runs s .tsu) ∧ ((s.t.logits.filter fun b => b.atLfn + 4096 ≤ s.tsu.lfn) ≠ []) :=
  ⟨(State.reset.modT fun t => { t with logits := [⟨hdr0, [], 0⟩] }).modNode .tsu fun n => { n with lfn := 4096 }, by decide⟩


theorem test_meets_TreeCombinesPartialsAndSoredia_1 : ∃ (port partition : Nat) (part : PPartial) (s : State),
    (Runs s .dbx) ∧ ((ivMeet ((s.bump F.tauInCount).rolesAt partition ((s.bump F.tauInCount).posOf port)) ((s.bump F.tauInCount).scopeRoles partition part.hdr.scope part.hdr.domain part.hdr.blkA)).isEmpty = true) :=
  ⟨0, 0, part0, State.reset, by decide⟩

theorem test_meets_TreeCombinesPartialsAndSoredia_2 : ∃ (port partition : Nat) (part : PPartial) (k : TauKey) (s : State),
    (Runs s .dbx) ∧ ((ivMeet ((s.bump F.tauInCount).rolesAt partition ((s.bump F.tauInCount).posOf port)) ((s.bump F.tauInCount).scopeRoles partition part.hdr.scope part.hdr.domain part.hdr.blkA)).isEmpty = false) ∧ (((s.bump F.tauInCount).d.tau.find? fun k => k.partition == partition && samePKey k.first part.hdr) = none) ∧ (((s.bump F.tauInCount).d.tauShut.find? fun k => k.partition == partition && samePKey k.first part.hdr) = none) ∧ (k = ({ partition := partition, first := part.hdr, atLfn := (s.bump F.tauInCount).dbx.lfn, parts := [(port, part)], deadline := if ((s.bump F.tauInCount).apexSlot partition).isSome then some (s.bump F.tauInCount).firstDeadline else none } : TauKey)) ∧ ((s.bump F.tauInCount).tauRoom k = true) :=
  ⟨0, 0, part0, key0, roleState 0, by decide⟩

theorem test_meets_TreeCombinesPartialsAndSoredia_3 : ∃ (port partition : Nat) (part : PPartial) (k : TauKey) (s : State),
    (Runs s .dbx) ∧ ((ivMeet ((s.bump F.tauInCount).rolesAt partition ((s.bump F.tauInCount).posOf port)) ((s.bump F.tauInCount).scopeRoles partition part.hdr.scope part.hdr.domain part.hdr.blkA)).isEmpty = false) ∧ (((s.bump F.tauInCount).d.tau.find? fun k => k.partition == partition && samePKey k.first part.hdr) = none) ∧ (((s.bump F.tauInCount).d.tauShut.find? fun k => k.partition == partition && samePKey k.first part.hdr) = none) ∧ (k = ({ partition := partition, first := part.hdr, atLfn := (s.bump F.tauInCount).dbx.lfn, parts := [(port, part)], deadline := if ((s.bump F.tauInCount).apexSlot partition).isSome then some (s.bump F.tauInCount).firstDeadline else none } : TauKey)) ∧ ((s.bump F.tauInCount).tauRoom k = false) ∧ (((s.bump F.tauInCount).apexSlot partition).isSome = true) :=
  ⟨0, 0, part0, { key0 with deadline := some (fullTau.firstDeadline) }, fullTau.wr F.condPartApex 1 0, by decide +kernel⟩

theorem test_meets_TreeCombinesPartialsAndSoredia_4 : ∃ (port partition : Nat) (part : PPartial) (s : State),
    (Runs s .dbx) ∧ ((ivMeet ((s.bump F.tauInCount).rolesAt partition ((s.bump F.tauInCount).posOf port)) ((s.bump F.tauInCount).scopeRoles partition part.hdr.scope part.hdr.domain part.hdr.blkA)).isEmpty = false) ∧ (((s.bump F.tauInCount).d.tau.find? fun k => k.partition == partition && samePKey k.first part.hdr) = none) ∧ (((s.bump F.tauInCount).d.tauShut.find? fun k => k.partition == partition && samePKey k.first part.hdr) = none) ∧ (((s.bump F.tauInCount).apexSlot partition).isSome = false) ∧ ((s.bump F.tauInCount).tauRoom (({ partition := partition, first := part.hdr, atLfn := (s.bump F.tauInCount).dbx.lfn, parts := [(port, part)], deadline := if ((s.bump F.tauInCount).apexSlot partition).isSome then some (s.bump F.tauInCount).firstDeadline else none } : TauKey)) = false) :=
  ⟨0, 0, part0, fullTau, by decide +kernel⟩

theorem test_meets_TreeCombinesPartialsAndSoredia_5 : ∃ (port partition : Nat) (part : PPartial) (k : TauKey) (i : Nat) (s : State),
    (Runs s .dbx) ∧ ((ivMeet ((s.bump F.tauInCount).rolesAt partition ((s.bump F.tauInCount).posOf port)) ((s.bump F.tauInCount).scopeRoles partition part.hdr.scope part.hdr.domain part.hdr.blkA)).isEmpty = false) ∧ (((s.bump F.tauInCount).d.tau.find? fun k => k.partition == partition && samePKey k.first part.hdr) = some k) ∧ ((s.bump F.tauInCount).partCopy k port part = .same i) :=
  ⟨1, 0, part0, key0, 0, (roleState 0).modD fun d => { d with tau := [key0], tRoute := [(0, 2 ^ 49)] }, by decide⟩

theorem test_meets_TreeCombinesPartialsAndSoredia_6 : ∃ (port partition : Nat) (part : PPartial) (k : TauKey) (i : Nat) (s : State),
    (Runs s .dbx) ∧ ((ivMeet ((s.bump F.tauInCount).rolesAt partition ((s.bump F.tauInCount).posOf port)) ((s.bump F.tauInCount).scopeRoles partition part.hdr.scope part.hdr.domain part.hdr.blkA)).isEmpty = false) ∧ (((s.bump F.tauInCount).d.tau.find? fun k => k.partition == partition && samePKey k.first part.hdr) = some k) ∧ ((s.bump F.tauInCount).partCopy k port part = .differs i) :=
  ⟨1, 0, { part0 with body := .exact [1] [0] }, key0, 0, (roleState 0).modD fun d => { d with tau := [key0] }, by decide⟩

theorem test_meets_TreeCombinesPartialsAndSoredia_7 : ∃ (port partition : Nat) (part : PPartial) (k : TauKey) (s : State),
    (Runs s .dbx) ∧ ((ivMeet ((s.bump F.tauInCount).rolesAt partition ((s.bump F.tauInCount).posOf port)) ((s.bump F.tauInCount).scopeRoles partition part.hdr.scope part.hdr.domain part.hdr.blkA)).isEmpty = false) ∧ (((s.bump F.tauInCount).d.tau.find? fun k => k.partition == partition && samePKey k.first part.hdr) = some k) ∧ ((s.bump F.tauInCount).partCopy k port part = .surplus) :=
  ⟨0, 0, part0, key0, (roleState 0).modD fun d => { d with tau := [key0] }, by decide⟩

theorem test_meets_TreeCombinesPartialsAndSoredia_8 : ∃ (port partition : Nat) (part : PPartial) (k : TauKey) (s : State),
    (Runs s .dbx) ∧ ((ivMeet ((s.bump F.tauInCount).rolesAt partition ((s.bump F.tauInCount).posOf port)) ((s.bump F.tauInCount).scopeRoles partition part.hdr.scope part.hdr.domain part.hdr.blkA)).isEmpty = false) ∧ (((s.bump F.tauInCount).d.tau.find? fun k => k.partition == partition && samePKey k.first part.hdr) = some k) ∧ ((s.bump F.tauInCount).partCopy k port part = .first) ∧ (k.due = true) :=
  ⟨0, 0, part0, { key0 with due := true }, ((roleState 0).modD fun d => { d with tau := [{ key0 with due := true }], tRoute := [(0, 2 ^ 49 + 2 ^ 21)] }), by decide⟩

theorem test_meets_TreeCombinesPartialsAndSoredia_9 : ∃ (port partition : Nat) (part : PPartial) (k : TauKey) (s : State),
    (Runs s .dbx) ∧ ((ivMeet ((s.bump F.tauInCount).rolesAt partition ((s.bump F.tauInCount).posOf port)) ((s.bump F.tauInCount).scopeRoles partition part.hdr.scope part.hdr.domain part.hdr.blkA)).isEmpty = false) ∧ (((s.bump F.tauInCount).d.tau.find? fun k => k.partition == partition && samePKey k.first part.hdr) = some k) ∧ ((s.bump F.tauInCount).partCopy k port part = .first) ∧ (k.due = false) ∧ (k.through = true) :=
  ⟨0, 0, part0, { key0 with through := true }, ((roleState 0).modD fun d => { d with tau := [{ key0 with through := true }], tRoute := [(0, 2 ^ 49 + 2 ^ 21)] }), by decide⟩

theorem test_meets_TreeCombinesPartialsAndSoredia_10 : ∃ (port partition : Nat) (part : PPartial) (k : TauKey) (s : State),
    (Runs s .dbx) ∧ ((ivMeet ((s.bump F.tauInCount).rolesAt partition ((s.bump F.tauInCount).posOf port)) ((s.bump F.tauInCount).scopeRoles partition part.hdr.scope part.hdr.domain part.hdr.blkA)).isEmpty = false) ∧ (((s.bump F.tauInCount).d.tau.find? fun k => k.partition == partition && samePKey k.first part.hdr) = some k) ∧ ((s.bump F.tauInCount).partCopy k port part = .first) ∧ (k.due = false) ∧ (k.through = false) ∧ (k.parts ≠ [] ∨ (s.bump F.tauInCount).tauRoom { k with first := part.hdr } = true) :=
  ⟨0, 0, part0, key0, ((roleState 0).modD fun d => { d with tau := [key0], tRoute := [(0, 2 ^ 49 + 2 ^ 21)] }), by decide⟩

theorem test_meets_TreeCombinesPartialsAndSoredia_11 : ∃ (port partition : Nat) (part : PPartial) (k : TauKey) (s : State),
    (Runs s .dbx) ∧ ((ivMeet ((s.bump F.tauInCount).rolesAt partition ((s.bump F.tauInCount).posOf port)) ((s.bump F.tauInCount).scopeRoles partition part.hdr.scope part.hdr.domain part.hdr.blkA)).isEmpty = false) ∧ (((s.bump F.tauInCount).d.tau.find? fun k => k.partition == partition && samePKey k.first part.hdr) = some k) ∧ ((s.bump F.tauInCount).partCopy k port part = .first) ∧ (k.due = false) ∧ (k.through = false) ∧ (k.parts = []) ∧ ((s.bump F.tauInCount).tauRoom { k with first := part.hdr } = false) :=
  ⟨0, 0, part0, { key0 with parts := [] }, fullTau.modD fun d => { d with tau := { key0 with parts := [] } :: d.tau }, by decide +kernel⟩

theorem test_meets_TreeCombinesPartialsAndSoredia_12 : ∃ (port partition : Nat) (part : PPartial) (k : TauKey) (i : Nat) (s : State),
    (Runs s .dbx) ∧ ((ivMeet ((s.bump F.tauInCount).rolesAt partition ((s.bump F.tauInCount).posOf port)) ((s.bump F.tauInCount).scopeRoles partition part.hdr.scope part.hdr.domain part.hdr.blkA)).isEmpty = false) ∧ (((s.bump F.tauInCount).d.tau.find? fun k => k.partition == partition && samePKey k.first part.hdr) = none) ∧ (((s.bump F.tauInCount).d.tauShut.find? fun k => k.partition == partition && samePKey k.first part.hdr) = some k) ∧ ((s.bump F.tauInCount).partCopy k port part = .same i) :=
  ⟨1, 0, part0, key0, 0, (roleState 0).modD fun d => { d with tauShut := [key0] }, by decide⟩

theorem test_meets_TreeCombinesPartialsAndSoredia_13 : ∃ (port partition : Nat) (part : PPartial) (k : TauKey) (i : Nat) (s : State),
    (Runs s .dbx) ∧ ((ivMeet ((s.bump F.tauInCount).rolesAt partition ((s.bump F.tauInCount).posOf port)) ((s.bump F.tauInCount).scopeRoles partition part.hdr.scope part.hdr.domain part.hdr.blkA)).isEmpty = false) ∧ (((s.bump F.tauInCount).d.tau.find? fun k => k.partition == partition && samePKey k.first part.hdr) = none) ∧ (((s.bump F.tauInCount).d.tauShut.find? fun k => k.partition == partition && samePKey k.first part.hdr) = some k) ∧ ((s.bump F.tauInCount).partCopy k port part = .differs i) :=
  ⟨1, 0, { part0 with body := .exact [1] [0] }, key0, 0, (roleState 0).modD fun d => { d with tauShut := [key0] }, by decide⟩

theorem test_meets_TreeCombinesPartialsAndSoredia_14 : ∃ (port partition : Nat) (part : PPartial) (k : TauKey) (s : State),
    (Runs s .dbx) ∧ ((ivMeet ((s.bump F.tauInCount).rolesAt partition ((s.bump F.tauInCount).posOf port)) ((s.bump F.tauInCount).scopeRoles partition part.hdr.scope part.hdr.domain part.hdr.blkA)).isEmpty = false) ∧ (((s.bump F.tauInCount).d.tau.find? fun k => k.partition == partition && samePKey k.first part.hdr) = none) ∧ (((s.bump F.tauInCount).d.tauShut.find? fun k => k.partition == partition && samePKey k.first part.hdr) = some k) ∧ (((s.bump F.tauInCount).partCopy k port part = .first) ∨ (s.bump F.tauInCount).partCopy k port part = .surplus) :=
  ⟨0, 0, part0, key0, (roleState 0).modD fun d => { d with tauShut := [key0] }, by decide⟩

theorem test_meets_TreeCombinesPartialsAndSoredia_15 : ∃ (port partition : Nat) (q : Soredium) (s : State),
    (Runs s .dbx) ∧ (((s.bump F.sorInCount).rolesAt partition ((s.bump F.sorInCount).posOf port)).isEmpty = true) :=
  ⟨0, 0, sor0, State.reset, by decide⟩

theorem test_meets_TreeCombinesPartialsAndSoredia_16 : ∃ (port partition : Nat) (q : Soredium) (s : State),
    (Runs s .dbx) ∧ (((s.bump F.sorInCount).rolesAt partition ((s.bump F.sorInCount).posOf port)).isEmpty = false) ∧ (((s.bump F.sorInCount).d.sors.find? fun k => k.partition == partition && sameSor k.acc q) = none) ∧ (((s.bump F.sorInCount).d.sorShut.find? fun k => k.partition == partition && sameSor k.acc q) = none) :=
  ⟨0, 0, sor0, roleState 0, by decide⟩

theorem test_meets_TreeCombinesPartialsAndSoredia_17 : ∃ (port partition : Nat) (q : Soredium) (k : SorKey) (i : Nat) (s : State),
    (Runs s .dbx) ∧ (((s.bump F.sorInCount).rolesAt partition ((s.bump F.sorInCount).posOf port)).isEmpty = false) ∧ (((s.bump F.sorInCount).d.sors.find? fun k => k.partition == partition && sameSor k.acc q) = some k) ∧ ((s.bump F.sorInCount).sorCopy k port q = .same i) :=
  ⟨1, 0, sor0, ⟨0, sor0, 0, [(0, sor0)], [], false⟩, 0, (roleState 0).modD fun d => { d with sors := [⟨0, sor0, 0, [(0, sor0)], [], false⟩] }, by decide⟩

theorem test_meets_TreeCombinesPartialsAndSoredia_18 : ∃ (port partition : Nat) (q : Soredium) (k : SorKey) (i : Nat) (s : State),
    (Runs s .dbx) ∧ (((s.bump F.sorInCount).rolesAt partition ((s.bump F.sorInCount).posOf port)).isEmpty = false) ∧ (((s.bump F.sorInCount).d.sors.find? fun k => k.partition == partition && sameSor k.acc q) = some k) ∧ ((s.bump F.sorInCount).sorCopy k port q = .differs i) :=
  ⟨1, 0, { sor0 with digest := 0, count := 2 }, ⟨0, sor0, 0, [(0, sor0)], [], false⟩, 0, (roleState 0).modD fun d => { d with sors := [⟨0, sor0, 0, [(0, sor0)], [], false⟩] }, by decide⟩

theorem test_meets_TreeCombinesPartialsAndSoredia_19 : ∃ (port partition : Nat) (q : Soredium) (k : SorKey) (s : State),
    (Runs s .dbx) ∧ (((s.bump F.sorInCount).rolesAt partition ((s.bump F.sorInCount).posOf port)).isEmpty = false) ∧ (((s.bump F.sorInCount).d.sors.find? fun k => k.partition == partition && sameSor k.acc q) = some k) ∧ ((s.bump F.sorInCount).sorCopy k port q = .surplus) :=
  ⟨0, 0, { sor0 with count := 2 }, ⟨0, sor0, 0, [(0, sor0)], [], false⟩, (roleState 0).modD fun d => { d with sors := [⟨0, sor0, 0, [(0, sor0)], [], false⟩] }, by decide⟩

theorem test_meets_TreeCombinesPartialsAndSoredia_20 : ∃ (port partition : Nat) (q : Soredium) (k : SorKey) (s : State),
    (Runs s .dbx) ∧ (((s.bump F.sorInCount).rolesAt partition ((s.bump F.sorInCount).posOf port)).isEmpty = false) ∧ (((s.bump F.sorInCount).d.sors.find? fun k => k.partition == partition && sameSor k.acc q) = some k) ∧ ((s.bump F.sorInCount).sorCopy k port q = .first) :=
  ⟨0, 0, sor0, ⟨0, sor0, 0, [], [], false⟩, (roleState 0).modD fun d => { d with sors := [⟨0, sor0, 0, [], [], false⟩] }, by decide⟩

theorem test_meets_TreeCombinesPartialsAndSoredia_21 : ∃ (port partition : Nat) (q : Soredium) (k : SorKey) (i : Nat) (s : State),
    (Runs s .dbx) ∧ (((s.bump F.sorInCount).rolesAt partition ((s.bump F.sorInCount).posOf port)).isEmpty = false) ∧ (((s.bump F.sorInCount).d.sors.find? fun k => k.partition == partition && sameSor k.acc q) = none) ∧ (((s.bump F.sorInCount).d.sorShut.find? fun k => k.partition == partition && sameSor k.acc q) = some k) ∧ ((s.bump F.sorInCount).sorCopy k port q = .same i) :=
  ⟨1, 0, sor0, ⟨0, sor0, 0, [(0, sor0)], [], false⟩, 0, (roleState 0).modD fun d => { d with sorShut := [⟨0, sor0, 0, [(0, sor0)], [], false⟩] }, by decide⟩

theorem test_meets_TreeCombinesPartialsAndSoredia_22 : ∃ (port partition : Nat) (q : Soredium) (k : SorKey) (i : Nat) (s : State),
    (Runs s .dbx) ∧ (((s.bump F.sorInCount).rolesAt partition ((s.bump F.sorInCount).posOf port)).isEmpty = false) ∧ (((s.bump F.sorInCount).d.sors.find? fun k => k.partition == partition && sameSor k.acc q) = none) ∧ (((s.bump F.sorInCount).d.sorShut.find? fun k => k.partition == partition && sameSor k.acc q) = some k) ∧ ((s.bump F.sorInCount).sorCopy k port q = .differs i) :=
  ⟨1, 0, { sor0 with digest := 0, count := 2 }, ⟨0, sor0, 0, [(0, sor0)], [], false⟩, 0, (roleState 0).modD fun d => { d with sorShut := [⟨0, sor0, 0, [(0, sor0)], [], false⟩] }, by decide⟩

theorem test_meets_TreeCombinesPartialsAndSoredia_23 : ∃ (port partition : Nat) (q : Soredium) (k : SorKey) (s : State),
    (Runs s .dbx) ∧ (((s.bump F.sorInCount).rolesAt partition ((s.bump F.sorInCount).posOf port)).isEmpty = false) ∧ (((s.bump F.sorInCount).d.sors.find? fun k => k.partition == partition && sameSor k.acc q) = none) ∧ (((s.bump F.sorInCount).d.sorShut.find? fun k => k.partition == partition && sameSor k.acc q) = some k) ∧ (((s.bump F.sorInCount).sorCopy k port q = .first) ∨ (s.bump F.sorInCount).sorCopy k port q = .surplus) :=
  ⟨0, 0, { sor0 with count := 2 }, ⟨0, sor0, 0, [(0, sor0)], [], false⟩, (roleState 0).modD fun d => { d with sorShut := [⟨0, sor0, 0, [(0, sor0)], [], false⟩] }, by decide⟩

theorem test_meets_TreeCombinesPartialsAndSoredia_24 : ∃ (key : Nat) (k : TauKey) (s : State),
    (Runs s .dbx) ∧ (s.d.tau[key]? = some k) ∧ (k.atLfn + s.flushLf ≤ s.dbx.lfn) ∧ (s.apexSlot k.partition = none) :=
  ⟨0, key0, ((roleState 0).modD fun d => { d with tau := [key0] }).modNode .dbx fun n => { n with lfn := 2 ^ 40 }, by decide⟩

theorem test_meets_TreeCombinesPartialsAndSoredia_25 : ∃ (key slot : Nat) (k : TauKey) (s : State),
    (Runs s .dbx) ∧ (s.d.tau[key]? = some k) ∧ (k.atLfn + s.flushLf ≤ s.dbx.lfn) ∧ (s.apexSlot k.partition = some slot) ∧ (k.first.handle = 0) :=
  ⟨0, 0, { key0 with first := { hdr0 with handle := 0 } }, ((roleState 1).modD fun d => { d with tau := [{ key0 with first := { hdr0 with handle := 0 } }] }).modNode .dbx fun n => { n with lfn := 2 ^ 40 }, by decide⟩

theorem test_meets_TreeCombinesPartialsAndSoredia_26 : ∃ (key : Nat) (k : SorKey) (s : State),
    (Runs s .dbx) ∧ (s.d.tau = []) ∧ (s.d.sors[key]? = some k) ∧ (k.atLfn + s.flushLf ≤ s.dbx.lfn) ∧ (s.apexSlot k.partition = none) :=
  ⟨0, ⟨0, sor0, 0, [(0, sor0)], [], false⟩, ((roleState 0).modD fun d => { d with sors := [⟨0, sor0, 0, [(0, sor0)], [], false⟩] }).modNode .dbx fun n => { n with lfn := 2 ^ 40 }, by decide⟩

theorem test_meets_TreeCombinesPartialsAndSoredia_27 : ∃ (key : Nat) (q : HangQ) (s : State),
    (Runs s .dbx) ∧ (s.d.tau = []) ∧ (s.d.sors = []) ∧ (s.d.waitAcc[key]? = some q) ∧ (q.atLfn + s.flushLf ≤ s.dbx.lfn) :=
  ⟨0, hang0, ((roleState 0).modD fun d => { d with waitAcc := [hang0] }).modNode .dbx fun n => { n with lfn := 2 ^ 40 }, by decide⟩

theorem test_meets_TreeCombinesPartialsAndSoredia_28 : ∃ (key t : Nat) (k : TauKey) (s : State),
    (Runs s .dbx) ∧ (s.d.tau[key]? = some k) ∧ (k.deadline = some t) ∧ (s.keyDeadline k ≤ s.dbx.lfn) ∧ (k.due = false) :=
  ⟨0, 0, { key0 with deadline := some 0 }, State.reset.modD fun d => { d with tau := [{ key0 with deadline := some 0 }] }, by decide⟩

theorem test_meets_TreeCombinesPartialsAndSoredia_29 : ∃ (key : Nat) (k : SorKey) (s : State),
    (Runs s .dbx) ∧ (s.d.tau = []) ∧ (s.d.sors[key]? = some k) ∧ ((s.apexSlot k.partition).isSome = true) ∧ (s.bound k.acc.handle = none) ∧ (k.atLfn + s.flushLf ≤ s.dbx.lfn) :=
  ⟨0, ⟨0, sor0, 0, [(0, sor0)], [], false⟩, ((roleState 1).modD fun d => { d with sors := [⟨0, sor0, 0, [(0, sor0)], [], false⟩] }).modNode .dbx fun n => { n with lfn := 2 ^ 40 }, by decide⟩

theorem test_meets_TreeCombinesPartialsAndSoredia_30 : ∃ (key : Nat) (k : SorKey) (c : CondChan) (s : State),
    (Runs s .dbx) ∧ (s.d.tau = []) ∧ (s.d.sors[key]? = some k) ∧ ((s.apexSlot k.partition).isSome = true) ∧ (s.bound k.acc.handle = some c) ∧ (lastStep c.r = k.acc.step) ∧ (c.deadline + s.flushLf ≤ s.dbx.lfn) :=
  ⟨0, ⟨0, sor0, 0, [(0, sor0)], [], false⟩, sc0, ((roleState 1).modD fun d => { d with sors := [⟨0, sor0, 0, [(0, sor0)], [], false⟩], chans := [(0, sc0)] }).modNode .dbx fun n => { n with lfn := 2 ^ 40 }, by decide⟩

theorem test_meets_TreeCombinesPartialsAndSoredia_31 : ∃ (v : Word) (s : State),
    (Runs s .dbx) ∧ (bit v.toNat 16 = true) :=
  ⟨0x10000, State.reset, by decide⟩


theorem test_meets_RingsMoveTheirCounts_1 : ∃ (p : Part) (ring : Nat) (s : State),
    (Runs s p) ∧ (ring < ringCount p) ∧ (s.is (F.ringCfgEnable p) ring = false) ∧ (s.ringKind p ring ≠ 0) :=
  ⟨Part.tsu, 0, State.reset, by decide⟩

theorem test_meets_RingsMoveTheirCounts_2 : ∃ (p : Part) (ring : Nat) (s : State),
    (Runs s p) ∧ (ring < ringCount p) ∧ (s.is (F.ringCfgEnable p) ring = false) ∧ (s.ringKind p ring = 0) :=
  ⟨Part.tsu, 1, State.reset, by decide⟩

theorem test_meets_RingsMoveTheirCounts_3 : ∃ (p : Part) (ring : Nat) (s : State),
    (Runs s p) ∧ (s.is (F.ringCfgEnable p) ring = true) :=
  ⟨Part.tsu, 0, State.reset.wr (F.ringCfgEnable .tsu) 1 0, by decide⟩

theorem test_meets_RingsMoveTheirCounts_4 : ∃ (p : Part) (ring : Nat) (s : State),
    (Runs s p) ∧ (s.is (F.ringCfgEnable p) ring = true) :=
  ⟨Part.tsu, 0, State.reset.wr (F.ringCfgEnable .tsu) 1 0, by decide⟩

theorem test_meets_RingsMoveTheirCounts_5 : ∃ (p : Part) (ring : Nat) (v : Word) (s : State),
    (Runs s p) ∧ (s.ringRuns p ring = true) ∧ (ahead32 v.toNat (s.ring p ring).sqTail = 0 ∨ 2 ^ 31 ≤ ahead32 v.toNat (s.ring p ring).sqTail) ∧ (ahead32 (s.rd (F.ringSqHeadConsumed p) ring) v.toNat ≤ 2 ^ s.rd (F.ringCfgSqLog2 p) ring) :=
  ⟨Part.tsu, 0, 1, State.reset.wr (F.ringStatusRunning .tsu) 1 0, by decide⟩

theorem test_meets_RingsMoveTheirCounts_6 : ∃ (p : Part) (ring : Nat) (v : Word) (s : State),
    (Runs s p) ∧ (s.ringRuns p ring = true) ∧ ((0 < ahead32 v.toNat (s.ring p ring).sqTail ∧ ahead32 v.toNat (s.ring p ring).sqTail < 2 ^ 31) ∨ 2 ^ s.rd (F.ringCfgSqLog2 p) ring < ahead32 (s.rd (F.ringSqHeadConsumed p) ring) v.toNat) :=
  ⟨Part.tsu, 0, 0x10000000, State.reset.wr (F.ringStatusRunning .tsu) 1 0, by decide⟩

theorem test_meets_RingsMoveTheirCounts_7 : ∃ (p : Part) (ring : Nat) (v : Word) (s : State),
    (Runs s p) ∧ (s.ringRuns p ring = true) ∧ (ahead32 v.toNat (s.rd (F.ringCqTailWritten p) ring) ≤ ahead32 (s.ring p ring).cqHead (s.rd (F.ringCqTailWritten p) ring)) :=
  ⟨Part.tsu, 0, 0, State.reset.wr (F.ringStatusRunning .tsu) 1 0, by decide⟩

theorem test_meets_RingsMoveTheirCounts_8 : ∃ (p : Part) (ring : Nat) (v : Word) (s : State),
    (Runs s p) ∧ (s.ringRuns p ring = true) ∧ (ahead32 (s.ring p ring).cqHead (s.rd (F.ringCqTailWritten p) ring) < ahead32 v.toNat (s.rd (F.ringCqTailWritten p) ring)) :=
  ⟨Part.tsu, 0, 1, State.reset.wr (F.ringStatusRunning .tsu) 1 0, by decide⟩

theorem test_meets_RingsMoveTheirCounts_9 : ∃ (p : Part) (ring : Nat) (c : Completion) (rest : List Completion) (s : State),
    (Runs s p) ∧ ((s.ring p ring).waiting = c :: rest) ∧ (s.cqFull p ring = false) :=
  ⟨Part.tsu, 0, ⟨0, 0, 0, 0, 0, 0, 0, true⟩, [], State.reset.modRing .tsu 0 fun t => { t with waiting := [⟨0, 0, 0, 0, 0, 0, 0, true⟩] }, by decide⟩

theorem test_meets_RingsMoveTheirCounts_10 : ∃ (ring : Nat) (s : State),
    (Runs s .dbx) ∧ ((s.ring .dbx ring).waiting = []) :=
  ⟨0, State.reset, by decide⟩

theorem test_meets_RingsMoveTheirCounts_11 : ∃ (p : Part) (ring t : Nat) (l : List Nat) (s : State),
    (Runs s p) ∧ ((s.ring p ring).unsig = t :: l) ∧ (t + lfOfUs (s.rd (F.ringModModTime p) ring) ≤ s.lfn p) :=
  ⟨Part.tsu, 0, 0, [], State.reset.modRing .tsu 0 fun t => { t with unsig := [0] }, by decide⟩

theorem test_meets_RingsMoveTheirCounts_12 : ∃ (p : Part) (ring : Nat) (d : Desc) (s : State),
    (Runs s p) ∧ (s.ringRuns p ring = true) ∧ ((s.ring p ring).waiting = []) ∧ (s.rd (F.ringSqHeadConsumed p) ring ≠ (s.ring p ring).sqTail) ∧ ((bit d.flags 1 = true → (s.ring p ring).flight = [])) ∧ (((((s.wr (F.ringSqHeadConsumed p) (s.rd (F.ringSqHeadConsumed p) ring + 1) ring).wr64 (F.ringSeqLoSeq p) (F.ringSeqHiSeq p) (s.rd64 (F.ringSeqLoSeq p) (F.ringSeqHiSeq p) ring + 1) ring).fetchAhead p ring)).descStatus p ring (s.rd64 (F.ringSeqLoSeq p) (F.ringSeqHiSeq p) ring) d = 0) ∧ ((opConductor p d.opcode || policyInput p d) = false) :=
  ⟨Part.tsu, 0, { descOf 0x31 with flags := 1, resAddr := 64, resLen := 64 }, fetchState, by decide +kernel⟩

theorem test_meets_RingsMoveTheirCounts_13 : ∃ (p : Part) (ring : Nat) (d : Desc) (s : State),
    (Runs s p) ∧ (s.ringRuns p ring = true) ∧ ((s.ring p ring).waiting = []) ∧ (s.rd (F.ringSqHeadConsumed p) ring ≠ (s.ring p ring).sqTail) ∧ ((bit d.flags 1 = true → (s.ring p ring).flight = [])) ∧ (((((s.wr (F.ringSqHeadConsumed p) (s.rd (F.ringSqHeadConsumed p) ring + 1) ring).wr64 (F.ringSeqLoSeq p) (F.ringSeqHiSeq p) (s.rd64 (F.ringSeqLoSeq p) (F.ringSeqHiSeq p) ring + 1) ring).fetchAhead p ring)).descStatus p ring (s.rd64 (F.ringSeqLoSeq p) (F.ringSeqHiSeq p) ring) d = 0) ∧ ((opConductor p d.opcode || policyInput p d) = true) :=
  ⟨Part.dbx, 1, armAsk, fetchCond, ⟨by decide, by decide, by decide, by decide, by decide, by rw [State.descStatus, show State.tagOk _ _ _ _ armAsk = true by simp [State.tagOk, armAsk]; right; rfl]; decide +kernel, by decide⟩⟩

theorem test_meets_RingsMoveTheirCounts_14 : ∃ (p : Part) (ring : Nat) (d : Desc) (s : State),
    (Runs s p) ∧ (s.ringRuns p ring = true) ∧ ((s.ring p ring).waiting = []) ∧ (s.rd (F.ringSqHeadConsumed p) ring ≠ (s.ring p ring).sqTail) ∧ ((bit d.flags 1 = true → (s.ring p ring).flight = [])) ∧ (((((s.wr (F.ringSqHeadConsumed p) (s.rd (F.ringSqHeadConsumed p) ring + 1) ring).wr64 (F.ringSeqLoSeq p) (F.ringSeqHiSeq p) (s.rd64 (F.ringSeqLoSeq p) (F.ringSeqHiSeq p) ring + 1) ring).fetchAhead p ring)).descStatus p ring (s.rd64 (F.ringSeqLoSeq p) (F.ringSeqHiSeq p) ring) d = 1) :=
  ⟨Part.tsu, 1, badAsk, badTagState, ⟨by decide, by decide, by decide, by decide, by decide, State.descStatus_badTag (by have e : descBody badAsk = descBody (descOf 0) := rfl; simp [State.tagOk, e]; refine ⟨by decide, ?_⟩; intro h; exact absurd h (Nat.succ_ne_self _))⟩⟩

theorem test_meets_RingsMoveTheirCounts_15 : ∃ (p : Part) (ring : Nat) (d : Desc) (st : Nat) (s : State),
    (Runs s p) ∧ (s.ringRuns p ring = true) ∧ ((s.ring p ring).waiting = []) ∧ (s.rd (F.ringSqHeadConsumed p) ring ≠ (s.ring p ring).sqTail) ∧ ((bit d.flags 1 = true → (s.ring p ring).flight = [])) ∧ (((((s.wr (F.ringSqHeadConsumed p) (s.rd (F.ringSqHeadConsumed p) ring + 1) ring).wr64 (F.ringSeqLoSeq p) (F.ringSeqHiSeq p) (s.rd64 (F.ringSeqLoSeq p) (F.ringSeqHiSeq p) ring + 1) ring).fetchAhead p ring)).descStatus p ring (s.rd64 (F.ringSeqLoSeq p) (F.ringSeqHiSeq p) ring) d = st) ∧ (1 < st) :=
  ⟨Part.tsu, 0, descOf 0xEE, 2, fetchState, by decide +kernel⟩

theorem test_meets_RingsMoveTheirCounts_16 : ∃ (p : Part) (ring seq : Nat) (f : InFlight) (s : State),
    (Runs s p) ∧ (Asked s p ring seq 0 f) :=
  ⟨Part.tsu, 0, 5, askFor 0, asked .tsu 0, by decide⟩


theorem test_meets_ChannelsLiveAndEnd_1 : ∃ (ring seq : Nat) (f : InFlight) (s : State),
    (Runs s .dbx) ∧ (Asked s .dbx ring seq 1 f) ∧ ((s.begin_ .dbx ring seq).freeIndex < 2 ^ 18) ∧ (((s.begin_ .dbx ring seq).d.chans.filter fun x => x.2.r.slot == opnd f.desc 40 1).length < (s.begin_ .dbx ring seq).rd F.condShareChChannels (opnd f.desc 40 1)) :=
  ⟨0, 5, askFor 1, (asked .dbx 1).wr F.condShareChChannels 4 0, by decide⟩

theorem test_meets_ChannelsLiveAndEnd_2 : ∃ (ring seq : Nat) (f : InFlight) (s : State),
    (Runs s .dbx) ∧ (Asked s .dbx ring seq 1 f) ∧ (2 ^ 18 ≤ (s.begin_ .dbx ring seq).freeIndex ∨ (s.begin_ .dbx ring seq).rd F.condShareChChannels (opnd f.desc 40 1) ≤ ((s.begin_ .dbx ring seq).d.chans.filter fun x => x.2.r.slot == opnd f.desc 40 1).length) :=
  ⟨0, 5, askFor 1, asked .dbx 1, by decide⟩

theorem test_meets_ChannelsLiveAndEnd_3 : ∃ (ring seq : Nat) (f : InFlight) (s : State),
    (Runs s .tsu) ∧ (Asked s .tsu ring seq 1 f) ∧ (fget? (s.begin_ .tsu ring seq).t.chans (hIndex f.desc.handle) = none) ∧ ((s.begin_ .tsu ring seq).inQuarantine .tsu (hIndex f.desc.handle) = false) ∧ ((s.begin_ .tsu ring seq).gen .tsu (hIndex f.desc.handle) = hGen f.desc.handle) :=
  ⟨0, 5, { seq := 5, desc := { descOf 1 with handle := 2 ^ 18, ops := [], ext := [], extLen := 0 }, committed := true }, (asked .tsu 1).modRing .tsu 0 (fun t => { t with flight := [{ seq := 5, desc := { descOf 1 with handle := 2 ^ 18, ops := [], ext := [], extLen := 0 }, committed := true }] }), by decide⟩

theorem test_meets_ChannelsLiveAndEnd_4 : ∃ (ring seq : Nat) (f : InFlight) (s : State),
    (Runs s .tsu) ∧ (Asked s .tsu ring seq 1 f) ∧ (fget? (s.begin_ .tsu ring seq).t.chans (hIndex f.desc.handle) = none) ∧ ((s.begin_ .tsu ring seq).inQuarantine .tsu (hIndex f.desc.handle) = false) ∧ ((s.begin_ .tsu ring seq).gen .tsu (hIndex f.desc.handle) ≠ hGen f.desc.handle) :=
  ⟨0, 5, { seq := 5, desc := { descOf 1 with handle := 2 ^ 19, ops := [], ext := [], extLen := 0 }, committed := true }, (asked .tsu 1).modRing .tsu 0 (fun t => { t with flight := [{ seq := 5, desc := { descOf 1 with handle := 2 ^ 19, ops := [], ext := [], extLen := 0 }, committed := true }] }), by decide⟩

theorem test_meets_ChannelsLiveAndEnd_5 : ∃ (ring seq : Nat) (f : InFlight) (s : State),
    (Runs s .tsu) ∧ (Asked s .tsu ring seq 1 f) ∧ ((fget? (s.begin_ .tsu ring seq).t.chans (hIndex f.desc.handle)).isSome = true) :=
  ⟨0, 5, { seq := 5, desc := { descOf 1 with handle := 2 ^ 18, ops := [], ext := [], extLen := 0 }, committed := true }, ((asked .tsu 1).modRing .tsu 0 (fun t => { t with flight := [{ seq := 5, desc := { descOf 1 with handle := 2 ^ 18, ops := [], ext := [], extLen := 0 }, committed := true }] })).modT (fun t => { t with chans := [(0, { state := 1, gen := 1, tenant := 0 })] }), by decide⟩

theorem test_meets_ChannelsLiveAndEnd_6 : ∃ (ring seq : Nat) (f : InFlight) (s : State),
    (Runs s .tsu) ∧ (Asked s .tsu ring seq 1 f) ∧ (fget? (s.begin_ .tsu ring seq).t.chans (hIndex f.desc.handle) = none) ∧ ((s.begin_ .tsu ring seq).inQuarantine .tsu (hIndex f.desc.handle) = true) :=
  ⟨0, 5, { seq := 5, desc := { descOf 1 with handle := 2 ^ 18, ops := [], ext := [], extLen := 0 }, committed := true }, ((asked .tsu 1).modRing .tsu 0 (fun t => { t with flight := [{ seq := 5, desc := { descOf 1 with handle := 2 ^ 18, ops := [], ext := [], extLen := 0 }, committed := true }] })).modNode .tsu fun n => { n with quar := [(0, 5)] }, by decide⟩

theorem test_meets_ChannelsLiveAndEnd_7 : ∃ (ring seq : Nat) (f : InFlight) (s : State),
    (Runs s .tsu) ∧ (Asked s .tsu ring seq 2 f) ∧ (gateStatus ((s.begin_ .tsu ring seq).tsuTenant f.desc.handle false) f.tenant f.kind = 0) ∧ (((s.begin_ .tsu ring seq).t.arm.any fun x => x.2.cz.handle == f.desc.handle) = false) :=
  ⟨0, 5, { seq := 5, desc := { descOf 2 with handle := 2 ^ 18, ops := [], ext := [], extLen := 0 }, committed := true }, ((asked .tsu 2).modRing .tsu 0 (fun t => { t with flight := [{ seq := 5, desc := { descOf 2 with handle := 2 ^ 18, ops := [], ext := [], extLen := 0 }, committed := true }] })).modT (fun t => { t with chans := [(0, { state := 1, gen := 1, tenant := 0 })] }), by decide⟩

theorem test_meets_ChannelsLiveAndEnd_8 : ∃ (ring seq : Nat) (f : InFlight) (g : Nat) (s : State),
    (Runs s .tsu) ∧ (Asked s .tsu ring seq 2 f) ∧ (gateStatus ((s.begin_ .tsu ring seq).tsuTenant f.desc.handle false) f.tenant f.kind = g) ∧ (g ≠ 0) :=
  ⟨0, 5, { seq := 5, desc := { descOf 2 with handle := 2 ^ 18, ops := [], ext := [], extLen := 0 }, committed := true }, 8, (asked .tsu 2).modRing .tsu 0 (fun t => { t with flight := [{ seq := 5, desc := { descOf 2 with handle := 2 ^ 18, ops := [], ext := [], extLen := 0 }, committed := true }] }), by decide⟩

theorem test_meets_ChannelsLiveAndEnd_9 : ∃ (ring seq : Nat) (f : InFlight) (s : State),
    (Runs s .tsu) ∧ (Asked s .tsu ring seq 2 f) ∧ (gateStatus ((s.begin_ .tsu ring seq).tsuTenant f.desc.handle false) f.tenant f.kind = 0) ∧ (((s.begin_ .tsu ring seq).t.arm.any fun x => x.2.cz.handle == f.desc.handle) = true) :=
  ⟨0, 5, { seq := 5, desc := { descOf 2 with handle := 2 ^ 18, ops := [], ext := [], extLen := 0 }, committed := true }, (((asked .tsu 2).modRing .tsu 0 (fun t => { t with flight := [{ seq := 5, desc := { descOf 2 with handle := 2 ^ 18, ops := [], ext := [], extLen := 0 }, committed := true }] })).modT (fun t => { t with chans := [(0, { state := 1, gen := 1, tenant := 0 })] })).modT fun t => { t with arm := [(0, { cz := { goodCz with handle := 2 ^ 18 }, fire := ⟨0, 0⟩, state := 2, targets := [], port := 0, twoSeen := true })] }, by decide⟩

theorem test_meets_ChannelsLiveAndEnd_10 : ∃ (ring seq : Nat) (f : InFlight) (c : CondChan) (q : Plan) (s : State),
    (Runs s .dbx) ∧ (Asked s .dbx ring seq 2 f) ∧ (gateStatus ((s.begin_ .dbx ring seq).condTenant f.desc.handle) f.tenant f.kind = 0) ∧ ((s.begin_ .dbx ring seq).chan (hIndex f.desc.handle) = some c) ∧ ((c.state == 1 || restful c) = true) ∧ ((s.begin_ .dbx ring seq).rd F.condGridSlot (opnd f.desc 44 2) = c.r.slot) ∧ (((fget? (s.begin_ .dbx ring seq).d.plans (bits (opnd f.desc 40 2) 0 12)).filter fun q => q.slot == c.r.slot && !q.retiring) = some q) ∧ (opnd f.desc 42 1 < q.variants.length) ∧ (256 ≤ ring ∨ ((s.begin_ .dbx ring seq).ringKind .dbx (opnd f.desc 43 1) = 2 ∧ ((s.begin_ .dbx ring seq).ring .dbx (opnd f.desc 43 1)).tenant = c.tenant)) ∧ ((((s.begin_ .dbx ring seq).d.chans.filter fun x => x.2.state == 2 && x.1 != (hIndex f.desc.handle)).filter fun x => x.2.r.slot == c.r.slot).length < (s.begin_ .dbx ring seq).rd F.condShareChChannels c.r.slot) ∧ ((((s.begin_ .dbx ring seq).d.chans.filter fun x => x.2.state == 2 && x.1 != (hIndex f.desc.handle)).filter fun x => x.2.r.plan == (bits (opnd f.desc 40 2) 0 12)).length < q.maxChannels) ∧ (q.reaches ((s.begin_ .dbx ring seq).condFrame (opnd f.desc 44 2)) = false) ∧ (c.state ≠ 2) :=
  ⟨0, 5, { seq := 5, desc := { descOf 2 with handle := 2 ^ 18, ops := [], ext := [], extLen := 0 }, committed := true }, { chan0 with state := 1 }, plan1 0, ((((asked .dbx 2).modRing .dbx 0 (fun t => { t with flight := [{ seq := 5, desc := { descOf 2 with handle := 2 ^ 18, ops := [], ext := [], extLen := 0 }, committed := true }] })).wr F.condShareChChannels 4 0).wr (F.ringStatusKind .dbx) 2 0).modD fun d => { d with chans := [(0, { chan0 with state := 1 })], plans := [(0, plan1 0)] }, by decide +kernel⟩

theorem test_meets_ChannelsLiveAndEnd_11 : ∃ (ring seq : Nat) (f : InFlight) (c : CondChan) (q : Plan) (s : State),
    (Runs s .dbx) ∧ (Asked s .dbx ring seq 2 f) ∧ (gateStatus ((s.begin_ .dbx ring seq).condTenant f.desc.handle) f.tenant f.kind = 0) ∧ ((s.begin_ .dbx ring seq).chan (hIndex f.desc.handle) = some c) ∧ ((c.state == 1 || restful c) = true) ∧ ((s.begin_ .dbx ring seq).rd F.condGridSlot (opnd f.desc 44 2) = c.r.slot) ∧ (((fget? (s.begin_ .dbx ring seq).d.plans (bits (opnd f.desc 40 2) 0 12)).filter fun q => q.slot == c.r.slot && !q.retiring) = some q) ∧ (opnd f.desc 42 1 < q.variants.length) ∧ (256 ≤ ring ∨ ((s.begin_ .dbx ring seq).ringKind .dbx (opnd f.desc 43 1) = 2 ∧ ((s.begin_ .dbx ring seq).ring .dbx (opnd f.desc 43 1)).tenant = c.tenant)) ∧ ((((s.begin_ .dbx ring seq).d.chans.filter fun x => x.2.state == 2 && x.1 != (hIndex f.desc.handle)).filter fun x => x.2.r.slot == c.r.slot).length < (s.begin_ .dbx ring seq).rd F.condShareChChannels c.r.slot) ∧ ((((s.begin_ .dbx ring seq).d.chans.filter fun x => x.2.state == 2 && x.1 != (hIndex f.desc.handle)).filter fun x => x.2.r.plan == (bits (opnd f.desc 40 2) 0 12)).length < q.maxChannels) ∧ (q.reaches ((s.begin_ .dbx ring seq).condFrame (opnd f.desc 44 2)) = false) ∧ (c.state = 2) :=
  ⟨0, 5, { seq := 5, desc := { descOf 2 with handle := 2 ^ 18, ops := [], ext := [], extLen := 0 }, committed := true }, { chan0 with r := { chan0.r with exec := 0 } }, plan1 0, ((((asked .dbx 2).modRing .dbx 0 (fun t => { t with flight := [{ seq := 5, desc := { descOf 2 with handle := 2 ^ 18, ops := [], ext := [], extLen := 0 }, committed := true }] })).wr F.condShareChChannels 4 0).wr (F.ringStatusKind .dbx) 2 0).modD fun d => { d with chans := [(0, { chan0 with r := { chan0.r with exec := 0 } })], plans := [(0, plan1 0)] }, by decide +kernel⟩

theorem test_meets_ChannelsLiveAndEnd_12 : ∃ (ring seq : Nat) (f : InFlight) (g : Nat) (s : State),
    (Runs s .dbx) ∧ (Asked s .dbx ring seq 2 f) ∧ (gateStatus ((s.begin_ .dbx ring seq).condTenant f.desc.handle) f.tenant f.kind = g) ∧ (g ≠ 0) :=
  ⟨0, 5, { seq := 5, desc := { descOf 2 with handle := 2 ^ 18, ops := [], ext := [], extLen := 0 }, committed := true }, 8, (asked .dbx 2).modRing .dbx 0 (fun t => { t with flight := [{ seq := 5, desc := { descOf 2 with handle := 2 ^ 18, ops := [], ext := [], extLen := 0 }, committed := true }] }), by decide⟩

theorem test_meets_ChannelsLiveAndEnd_13 : ∃ (ring seq : Nat) (f : InFlight) (c : CondChan) (s : State),
    (Runs s .dbx) ∧ (Asked s .dbx ring seq 2 f) ∧ (gateStatus ((s.begin_ .dbx ring seq).condTenant f.desc.handle) f.tenant f.kind = 0) ∧ ((s.begin_ .dbx ring seq).chan (hIndex f.desc.handle) = some c) ∧ ((c.state == 1 || restful c) = false) :=
  ⟨0, 5, { seq := 5, desc := { descOf 2 with handle := 2 ^ 18, ops := [], ext := [], extLen := 0 }, committed := true }, chan0, (((asked .dbx 2).modRing .dbx 0 (fun t => { t with flight := [{ seq := 5, desc := { descOf 2 with handle := 2 ^ 18, ops := [], ext := [], extLen := 0 }, committed := true }] }))).modD fun d => { d with chans := [(0, chan0)], plans := [(0, plan1 0)] }, by decide⟩

theorem test_meets_ChannelsLiveAndEnd_14 : ∃ (ring seq : Nat) (f : InFlight) (c : CondChan) (s : State),
    (Runs s .dbx) ∧ (Asked s .dbx ring seq 2 f) ∧ (gateStatus ((s.begin_ .dbx ring seq).condTenant f.desc.handle) f.tenant f.kind = 0) ∧ ((s.begin_ .dbx ring seq).chan (hIndex f.desc.handle) = some c) ∧ ((c.state == 1 || restful c) = true) ∧ ((s.begin_ .dbx ring seq).rd F.condGridSlot (opnd f.desc 44 2) = c.r.slot) ∧ (((fget? (s.begin_ .dbx ring seq).d.plans (bits (opnd f.desc 40 2) 0 12)).filter fun q => q.slot == c.r.slot && !q.retiring) = none) :=
  ⟨0, 5, { seq := 5, desc := { descOf 2 with handle := 2 ^ 18, ops := [3, 0], ext := [], extLen := 0 }, committed := true }, { chan0 with state := 1 }, (((asked .dbx 2).modRing .dbx 0 (fun t => { t with flight := [{ seq := 5, desc := { descOf 2 with handle := 2 ^ 18, ops := [3, 0], ext := [], extLen := 0 }, committed := true }] }))).modD fun d => { d with chans := [(0, { chan0 with state := 1 })], plans := [(0, plan1 0)] }, by decide⟩

theorem test_meets_ChannelsLiveAndEnd_15 : ∃ (ring seq : Nat) (f : InFlight) (c : CondChan) (s : State),
    (Runs s .dbx) ∧ (Asked s .dbx ring seq 3 f) ∧ (gateStatus ((s.begin_ .dbx ring seq).condTenant f.desc.handle) f.tenant f.kind = 0) ∧ ((s.begin_ .dbx ring seq).chan (hIndex f.desc.handle) = some c) ∧ (c.state = 2) ∧ (restful c = true) ∧ ((((s.begin_ .dbx ring seq).planOf c).any fun q => decide (bits (opnd f.desc 40 4) 0 20 < (q.variants.getD 0 []).length)) = true) :=
  ⟨0, 5, { seq := 5, desc := { descOf 3 with handle := 2 ^ 18, ops := [], ext := [], extLen := 0 }, committed := true }, { chan0 with r := { chan0.r with exec := 0 } }, (((asked .dbx 3).modRing .dbx 0 (fun t => { t with flight := [{ seq := 5, desc := { descOf 3 with handle := 2 ^ 18, ops := [], ext := [], extLen := 0 }, committed := true }] }))).modD fun d => { d with chans := [(0, { chan0 with r := { chan0.r with exec := 0 } })], plans := [(0, plan1 0)] }, by decide⟩

theorem test_meets_ChannelsLiveAndEnd_16 : ∃ (ring seq : Nat) (f : InFlight) (c : CondChan) (s : State),
    (Runs s .dbx) ∧ (Asked s .dbx ring seq 3 f) ∧ (gateStatus ((s.begin_ .dbx ring seq).condTenant f.desc.handle) f.tenant f.kind = 0) ∧ ((s.begin_ .dbx ring seq).chan (hIndex f.desc.handle) = some c) ∧ (c.state ≠ 2 ∨ restful c = false) :=
  ⟨0, 5, { seq := 5, desc := { descOf 3 with handle := 2 ^ 18, ops := [], ext := [], extLen := 0 }, committed := true }, chan0, (((asked .dbx 3).modRing .dbx 0 (fun t => { t with flight := [{ seq := 5, desc := { descOf 3 with handle := 2 ^ 18, ops := [], ext := [], extLen := 0 }, committed := true }] }))).modD fun d => { d with chans := [(0, chan0)], plans := [(0, plan1 0)] }, by decide⟩

theorem test_meets_ChannelsLiveAndEnd_17 : ∃ (ring seq : Nat) (f : InFlight) (c : CondChan) (s : State),
    (Runs s .dbx) ∧ (Asked s .dbx ring seq 3 f) ∧ (gateStatus ((s.begin_ .dbx ring seq).condTenant f.desc.handle) f.tenant f.kind = 0) ∧ ((s.begin_ .dbx ring seq).chan (hIndex f.desc.handle) = some c) ∧ (c.state = 2) ∧ (restful c = true) ∧ ((((s.begin_ .dbx ring seq).planOf c).any fun q => decide (bits (opnd f.desc 40 4) 0 20 < (q.variants.getD 0 []).length)) = false) :=
  ⟨0, 5, { seq := 5, desc := { descOf 3 with handle := 2 ^ 18, ops := [9], ext := [], extLen := 0 }, committed := true }, { chan0 with r := { chan0.r with exec := 0 } }, (((asked .dbx 3).modRing .dbx 0 (fun t => { t with flight := [{ seq := 5, desc := { descOf 3 with handle := 2 ^ 18, ops := [9], ext := [], extLen := 0 }, committed := true }] }))).modD fun d => { d with chans := [(0, { chan0 with r := { chan0.r with exec := 0 } })], plans := [(0, plan1 0)] }, by decide⟩

theorem test_meets_ChannelsLiveAndEnd_18 : ∃ (ring seq : Nat) (f : InFlight) (g : Nat) (s : State),
    (Runs s .dbx) ∧ (Asked s .dbx ring seq 3 f) ∧ (gateStatus ((s.begin_ .dbx ring seq).condTenant f.desc.handle) f.tenant f.kind = g) ∧ (g ≠ 0) :=
  ⟨0, 5, { seq := 5, desc := { descOf 3 with handle := 2 ^ 18, ops := [], ext := [], extLen := 0 }, committed := true }, 8, (asked .dbx 3).modRing .dbx 0 (fun t => { t with flight := [{ seq := 5, desc := { descOf 3 with handle := 2 ^ 18, ops := [], ext := [], extLen := 0 }, committed := true }] }), by decide⟩

theorem test_meets_ChannelsLiveAndEnd_19 : ∃ (ring seq : Nat) (f : InFlight) (c : CondChan) (s : State),
    (Runs s .dbx) ∧ (Asked s .dbx ring seq 4 f) ∧ (gateStatus ((s.begin_ .dbx ring seq).condTenant f.desc.handle) f.tenant f.kind = 0) ∧ ((s.begin_ .dbx ring seq).chan (hIndex f.desc.handle) = some c) ∧ (c.state = 2) ∧ (restful c = false) ∧ (c.r.exec ≠ 4) ∧ (c.r.exec ≠ 6) ∧ (c.pauseBy.contains (ring, seq) = false) :=
  ⟨0, 5, { seq := 5, desc := { descOf 4 with handle := 2 ^ 18, ops := [], ext := [], extLen := 0 }, committed := true }, chan0, (((asked .dbx 4).modRing .dbx 0 (fun t => { t with flight := [{ seq := 5, desc := { descOf 4 with handle := 2 ^ 18, ops := [], ext := [], extLen := 0 }, committed := true }] }))).modD fun d => { d with chans := [(0, chan0)], plans := [(0, plan1 0)] }, by decide⟩

theorem test_meets_ChannelsLiveAndEnd_20 : ∃ (ring seq : Nat) (f : InFlight) (c : CondChan) (s : State),
    (Runs s .dbx) ∧ (Asked s .dbx ring seq 4 f) ∧ (gateStatus ((s.begin_ .dbx ring seq).condTenant f.desc.handle) f.tenant f.kind = 0) ∧ ((s.begin_ .dbx ring seq).chan (hIndex f.desc.handle) = some c) ∧ (c.state = 2) ∧ (c.r.exec = 6) ∧ (c.pauseBy.contains (ring, seq) = false) :=
  ⟨0, 5, { seq := 5, desc := { descOf 4 with handle := 2 ^ 18, ops := [], ext := [], extLen := 0 }, committed := true }, { chan0 with r := { chan0.r with exec := 6 } }, (((asked .dbx 4).modRing .dbx 0 (fun t => { t with flight := [{ seq := 5, desc := { descOf 4 with handle := 2 ^ 18, ops := [], ext := [], extLen := 0 }, committed := true }] }))).modD fun d => { d with chans := [(0, { chan0 with r := { chan0.r with exec := 6 } })], plans := [(0, plan1 0)] }, by decide⟩

theorem test_meets_ChannelsLiveAndEnd_21 : ∃ (ring seq : Nat) (f : InFlight) (c : CondChan) (s : State),
    (Runs s .dbx) ∧ (Asked s .dbx ring seq 4 f) ∧ (gateStatus ((s.begin_ .dbx ring seq).condTenant f.desc.handle) f.tenant f.kind = 0) ∧ ((s.begin_ .dbx ring seq).chan (hIndex f.desc.handle) = some c) ∧ (c.state = 2) ∧ (c.r.exec = 4) :=
  ⟨0, 5, { seq := 5, desc := { descOf 4 with handle := 2 ^ 18, ops := [], ext := [], extLen := 0 }, committed := true }, { chan0 with r := { chan0.r with exec := 4 } }, (((asked .dbx 4).modRing .dbx 0 (fun t => { t with flight := [{ seq := 5, desc := { descOf 4 with handle := 2 ^ 18, ops := [], ext := [], extLen := 0 }, committed := true }] }))).modD fun d => { d with chans := [(0, { chan0 with r := { chan0.r with exec := 4 } })], plans := [(0, plan1 0)] }, by decide⟩

theorem test_meets_ChannelsLiveAndEnd_22 : ∃ (ring seq : Nat) (f : InFlight) (c : CondChan) (s : State),
    (Runs s .dbx) ∧ (Asked s .dbx ring seq 4 f) ∧ (gateStatus ((s.begin_ .dbx ring seq).condTenant f.desc.handle) f.tenant f.kind = 0) ∧ ((s.begin_ .dbx ring seq).chan (hIndex f.desc.handle) = some c) ∧ (c.state ≠ 2 ∨ restful c = true) :=
  ⟨0, 5, { seq := 5, desc := { descOf 4 with handle := 2 ^ 18, ops := [], ext := [], extLen := 0 }, committed := true }, { chan0 with r := { chan0.r with exec := 0 } }, (((asked .dbx 4).modRing .dbx 0 (fun t => { t with flight := [{ seq := 5, desc := { descOf 4 with handle := 2 ^ 18, ops := [], ext := [], extLen := 0 }, committed := true }] }))).modD fun d => { d with chans := [(0, { chan0 with r := { chan0.r with exec := 0 } })], plans := [(0, plan1 0)] }, by decide⟩

theorem test_meets_ChannelsLiveAndEnd_23 : ∃ (ring seq : Nat) (f : InFlight) (g : Nat) (s : State),
    (Runs s .dbx) ∧ (Asked s .dbx ring seq 4 f) ∧ (gateStatus ((s.begin_ .dbx ring seq).condTenant f.desc.handle) f.tenant f.kind = g) ∧ (g ≠ 0) :=
  ⟨0, 5, { seq := 5, desc := { descOf 4 with handle := 2 ^ 18, ops := [], ext := [], extLen := 0 }, committed := true }, 8, (asked .dbx 4).modRing .dbx 0 (fun t => { t with flight := [{ seq := 5, desc := { descOf 4 with handle := 2 ^ 18, ops := [], ext := [], extLen := 0 }, committed := true }] }), by decide⟩

theorem test_meets_ChannelsLiveAndEnd_24 : ∃ (ring seq : Nat) (f : InFlight) (c : CondChan) (s : State),
    (Runs s .dbx) ∧ (Asked s .dbx ring seq 5 f) ∧ (gateStatus ((s.begin_ .dbx ring seq).condTenant f.desc.handle) f.tenant f.kind = 0) ∧ ((s.begin_ .dbx ring seq).chan (hIndex f.desc.handle) = some c) ∧ (c.state = 2) ∧ (c.r.exec = 4) ∧ (c.stLost = false) ∧ (c.resume ≠ 6) :=
  ⟨0, 5, { seq := 5, desc := { descOf 5 with handle := 2 ^ 18, ops := [], ext := [], extLen := 0 }, committed := true }, { chan0 with resume := 2, r := { chan0.r with exec := 4 } }, (((asked .dbx 5).modRing .dbx 0 (fun t => { t with flight := [{ seq := 5, desc := { descOf 5 with handle := 2 ^ 18, ops := [], ext := [], extLen := 0 }, committed := true }] }))).modD fun d => { d with chans := [(0, { chan0 with resume := 2, r := { chan0.r with exec := 4 } })], plans := [(0, plan1 0)] }, by decide⟩

theorem test_meets_ChannelsLiveAndEnd_25 : ∃ (ring seq : Nat) (f : InFlight) (c : CondChan) (s : State),
    (Runs s .dbx) ∧ (Asked s .dbx ring seq 5 f) ∧ (gateStatus ((s.begin_ .dbx ring seq).condTenant f.desc.handle) f.tenant f.kind = 0) ∧ ((s.begin_ .dbx ring seq).chan (hIndex f.desc.handle) = some c) ∧ (c.state = 2) ∧ (c.r.exec = 4) ∧ (c.stLost = false) ∧ (c.resume = 6) ∧ (c.faulted = true) :=
  ⟨0, 5, { seq := 5, desc := { descOf 5 with handle := 2 ^ 18, ops := [], ext := [], extLen := 0 }, committed := true }, { chan0 with resume := 6, faulted := true, r := { chan0.r with exec := 4 } }, (((asked .dbx 5).modRing .dbx 0 (fun t => { t with flight := [{ seq := 5, desc := { descOf 5 with handle := 2 ^ 18, ops := [], ext := [], extLen := 0 }, committed := true }] }))).modD fun d => { d with chans := [(0, { chan0 with resume := 6, faulted := true, r := { chan0.r with exec := 4 } })], plans := [(0, plan1 0)] }, by decide⟩

theorem test_meets_ChannelsLiveAndEnd_26 : ∃ (ring seq : Nat) (f : InFlight) (c : CondChan) (s : State),
    (Runs s .dbx) ∧ (Asked s .dbx ring seq 5 f) ∧ (gateStatus ((s.begin_ .dbx ring seq).condTenant f.desc.handle) f.tenant f.kind = 0) ∧ ((s.begin_ .dbx ring seq).chan (hIndex f.desc.handle) = some c) ∧ (c.state = 2) ∧ (c.r.exec = 4) ∧ (c.stLost = false) ∧ (c.resume = 6) ∧ (c.faulted = false) :=
  ⟨0, 5, { seq := 5, desc := { descOf 5 with handle := 2 ^ 18, ops := [], ext := [], extLen := 0 }, committed := true }, { chan0 with resume := 6, r := { chan0.r with exec := 4 } }, (((asked .dbx 5).modRing .dbx 0 (fun t => { t with flight := [{ seq := 5, desc := { descOf 5 with handle := 2 ^ 18, ops := [], ext := [], extLen := 0 }, committed := true }] }))).modD fun d => { d with chans := [(0, { chan0 with resume := 6, r := { chan0.r with exec := 4 } })], plans := [(0, plan1 0)] }, by decide⟩

theorem test_meets_ChannelsLiveAndEnd_27 : ∃ (ring seq : Nat) (f : InFlight) (c : CondChan) (s : State),
    (Runs s .dbx) ∧ (Asked s .dbx ring seq 5 f) ∧ (gateStatus ((s.begin_ .dbx ring seq).condTenant f.desc.handle) f.tenant f.kind = 0) ∧ ((s.begin_ .dbx ring seq).chan (hIndex f.desc.handle) = some c) ∧ (c.state ≠ 2 ∨ c.r.exec ≠ 4 ∨ c.stLost = true) :=
  ⟨0, 5, { seq := 5, desc := { descOf 5 with handle := 2 ^ 18, ops := [], ext := [], extLen := 0 }, committed := true }, chan0, (((asked .dbx 5).modRing .dbx 0 (fun t => { t with flight := [{ seq := 5, desc := { descOf 5 with handle := 2 ^ 18, ops := [], ext := [], extLen := 0 }, committed := true }] }))).modD fun d => { d with chans := [(0, chan0)], plans := [(0, plan1 0)] }, by decide⟩

theorem test_meets_ChannelsLiveAndEnd_28 : ∃ (ring seq : Nat) (f : InFlight) (g : Nat) (s : State),
    (Runs s .dbx) ∧ (Asked s .dbx ring seq 5 f) ∧ (gateStatus ((s.begin_ .dbx ring seq).condTenant f.desc.handle) f.tenant f.kind = g) ∧ (g ≠ 0) :=
  ⟨0, 5, { seq := 5, desc := { descOf 5 with handle := 2 ^ 18, ops := [], ext := [], extLen := 0 }, committed := true }, 8, (asked .dbx 5).modRing .dbx 0 (fun t => { t with flight := [{ seq := 5, desc := { descOf 5 with handle := 2 ^ 18, ops := [], ext := [], extLen := 0 }, committed := true }] }), by decide⟩

theorem test_meets_ChannelsLiveAndEnd_29 : ∃ (ring seq : Nat) (f : InFlight) (c : CondChan) (s : State),
    (Runs s .dbx) ∧ (Asked s .dbx ring seq 6 f) ∧ (gateStatus ((s.begin_ .dbx ring seq).condTenant f.desc.handle) f.tenant f.kind = 0) ∧ ((s.begin_ .dbx ring seq).chan (hIndex f.desc.handle) = some c) ∧ (((s.begin_ .dbx ring seq).d.destroyed.any fun x => x.2.ring == ring && x.2.seq == seq) = false) :=
  ⟨0, 5, { seq := 5, desc := { descOf 6 with handle := 2 ^ 18, ops := [], ext := [], extLen := 0 }, committed := true }, chan0, (((asked .dbx 6).modRing .dbx 0 (fun t => { t with flight := [{ seq := 5, desc := { descOf 6 with handle := 2 ^ 18, ops := [], ext := [], extLen := 0 }, committed := true }] }))).modD fun d => { d with chans := [(0, chan0)], plans := [(0, plan1 0)] }, by decide⟩

theorem test_meets_ChannelsLiveAndEnd_30 : ∃ (ring seq : Nat) (f : InFlight) (g : Nat) (s : State),
    (Runs s .dbx) ∧ (Asked s .dbx ring seq 6 f) ∧ (gateStatus ((s.begin_ .dbx ring seq).condTenant f.desc.handle) f.tenant f.kind = g) ∧ (g ≠ 0) ∧ (((s.begin_ .dbx ring seq).d.destroyed.any fun x => x.2.ring == ring && x.2.seq == seq) = false) :=
  ⟨0, 5, { seq := 5, desc := { descOf 6 with handle := 2 ^ 18, ops := [], ext := [], extLen := 0 }, committed := true }, 8, (asked .dbx 6).modRing .dbx 0 (fun t => { t with flight := [{ seq := 5, desc := { descOf 6 with handle := 2 ^ 18, ops := [], ext := [], extLen := 0 }, committed := true }] }), by decide⟩

theorem test_meets_ChannelsLiveAndEnd_31 : ∃ (ring seq : Nat) (f : InFlight) (c : TsuChan) (s : State),
    (Runs s .tsu) ∧ (Asked s .tsu ring seq 6 f) ∧ (gateStatus ((s.begin_ .tsu ring seq).tsuTenant f.desc.handle (bit (opnd f.desc 40 1) 0)) f.tenant f.kind = 0) ∧ (fget? (s.begin_ .tsu ring seq).t.chans (hIndex f.desc.handle) = some c) :=
  ⟨0, 5, { seq := 5, desc := { descOf 6 with handle := 2 ^ 18, ops := [], ext := [], extLen := 0 }, committed := true }, { state := 1, gen := 1, tenant := 0 }, ((asked .tsu 6).modRing .tsu 0 (fun t => { t with flight := [{ seq := 5, desc := { descOf 6 with handle := 2 ^ 18, ops := [], ext := [], extLen := 0 }, committed := true }] })).modT (fun t => { t with chans := [(0, { state := 1, gen := 1, tenant := 0 })] }), by decide⟩

theorem test_meets_ChannelsLiveAndEnd_32 : ∃ (ring seq : Nat) (f : InFlight) (g : Nat) (s : State),
    (Runs s .tsu) ∧ (Asked s .tsu ring seq 6 f) ∧ (gateStatus ((s.begin_ .tsu ring seq).tsuTenant f.desc.handle (bit (opnd f.desc 40 1) 0)) f.tenant f.kind = g) ∧ (g ≠ 0) :=
  ⟨0, 5, { seq := 5, desc := { descOf 6 with handle := 2 ^ 18, ops := [], ext := [], extLen := 0 }, committed := true }, 8, (asked .tsu 6).modRing .tsu 0 (fun t => { t with flight := [{ seq := 5, desc := { descOf 6 with handle := 2 ^ 18, ops := [], ext := [], extLen := 0 }, committed := true }] }), by decide⟩

theorem test_meets_ChannelsLiveAndEnd_33 : ∃ (index : Nat) (x : Destroyed) (s : State),
    (Runs s .dbx) ∧ (fget? s.d.destroyed index = some x) ∧ (x.td ≤ s.dbx.lfn) ∧ (x.bound = false) :=
  ⟨0, ⟨0, 5, 0, {}, false⟩, State.reset.modD fun d => { d with destroyed := [(0, ⟨0, 5, 0, {}, false⟩)] }, by decide⟩

theorem test_meets_ChannelsLiveAndEnd_34 : ∃ (index : Nat) (x : Destroyed) (s : State),
    (Runs s .dbx) ∧ (fget? s.d.destroyed index = some x) ∧ (x.td ≤ s.dbx.lfn) ∧ (x.bound = true) ∧ (s.ringFree x.r.ring = true) ∧ (s.isActive = true) :=
  ⟨0, ⟨0, 5, 0, {}, true⟩, ((State.reset.wr F.condStatusRole 0).wr (F.ringCfgEnable .dbx) 1 0).modD fun d => { d with destroyed := [(0, ⟨0, 5, 0, {}, true⟩)] }, by decide⟩

theorem test_meets_ChannelsLiveAndEnd_35 : ∃ (p : Part) (index t : Nat) (s : State),
    (Runs s p) ∧ (fget? (s.node p).quar index = some t) ∧ (t ≤ s.lfn p) :=
  ⟨Part.tsu, 0, 0, State.reset.modNode .tsu fun n => { n with quar := [(0, 0)] }, by decide⟩

theorem test_meets_ChannelsLiveAndEnd_36 : ∃ (p : Part) (index t : Nat) (s : State),
    (Runs s p) ∧ (fget? (s.node p).quar index = none) ∧ ((s.node p).quarAll = some t) ∧ (t ≤ s.lfn p) :=
  ⟨Part.tsu, 0, 0, State.reset.modNode .tsu fun n => { n with quarAll := some 0 }, by decide⟩

theorem test_meets_ChannelsLiveAndEnd_37 : ∃ (ring seq : Nat) (f : InFlight) (s : State),
    (Runs s .dbx) ∧ (Asked s .dbx ring seq 0x21 f) :=
  ⟨0, 5, askFor 0x21, asked .dbx 0x21, by decide⟩


theorem test_meets_WeightGateJudgesWrites_1 : ∃ (tag addr : Nat) (words : List Nat) (o : OpenStep) (s : State),
    (Runs s .tsu) ∧ (bits tag 0 2 = 1) ∧ (s.t.cmpAck = false) ∧ (s.is F.digCfgEnable = true) ∧ ((s.t.steps.find? fun o => hIndex o.handle == bits tag 2 18 && o.step % 256 == bits tag 20 8 && !o.sent) = some o) ∧ (o.layers.any (fun x => x.layer == bits tag 28 10) = true) :=
  ⟨1, 0, [], tapStep, tapState, by decide⟩

theorem test_meets_WeightGateJudgesWrites_2 : ∃ (tag addr : Nat) (words : List Nat) (o : OpenStep) (s : State),
    (Runs s .tsu) ∧ (bits tag 0 2 = 1) ∧ (s.t.cmpAck = false) ∧ (s.is F.digCfgEnable = true) ∧ ((s.t.steps.find? fun o => hIndex o.handle == bits tag 2 18 && o.step % 256 == bits tag 20 8 && !o.sent) = some o) ∧ (o.layers.any (fun x => x.layer == bits tag 28 10) = false) :=
  ⟨1 + 2 ^ 28, 0, [], tapStep, tapState, by decide⟩

theorem test_meets_WeightGateJudgesWrites_3 : ∃ (tag addr : Nat) (words : List Nat) (s : State),
    (Runs s .tsu) ∧ (bits tag 0 2 = 1) ∧ (s.t.cmpAck = true ∨ s.is F.digCfgEnable = false) :=
  ⟨1, 0, [], State.reset.modT fun t => { t with cmpAck := true }, by decide⟩

theorem test_meets_WeightGateJudgesWrites_4 : ∃ (tag addr : Nat) (words : List Nat) (s : State),
    (Runs s .tsu) ∧ (bits tag 0 2 = 1) ∧ (s.t.cmpAck = false) ∧ (s.is F.digCfgEnable = true) ∧ ((s.t.steps.find? fun o => hIndex o.handle == bits tag 2 18 && o.step % 256 == bits tag 20 8 && !o.sent) = none) :=
  ⟨1, 0, [], State.reset.wr F.digCfgEnable 1, by decide⟩

theorem test_meets_WeightGateJudgesWrites_5 : ∃ (tag addr : Nat) (words : List Nat) (m : Manifest) (x : Shard) (s : State),
    (Runs s .tsu) ∧ (bits tag 0 2 = 2) ∧ (((fget? s.t.layers (bits tag 2 10)).bind fun l => s.manifestOf l.epoch) = some m) ∧ ((m.shardsOf (bits tag 2 10)).find? (fun x => x.id == bits tag 12 16) = some x) ∧ (x.state = 1) ∧ (x.blocks.contains (bits tag 28 20) = false) ∧ (64 * bits tag 28 20 < x.len) :=
  ⟨2, 0, [], mf0 1, shard0 1, gateState 1, by decide⟩

theorem test_meets_WeightGateJudgesWrites_6 : ∃ (tag addr : Nat) (words : List Nat) (m : Manifest) (x : Shard) (s : State),
    (Runs s .tsu) ∧ (bits tag 0 2 = 2) ∧ (((fget? s.t.layers (bits tag 2 10)).bind fun l => s.manifestOf l.epoch) = some m) ∧ ((m.shardsOf (bits tag 2 10)).find? (fun x => x.id == bits tag 12 16) = some x) ∧ (x.state = 0) ∧ (x.blocks.contains (bits tag 28 20) = false) ∧ (64 * bits tag 28 20 < x.len) ∧ (s.openShards.length < 256) ∧ (s.bitmapUsed + x.len / 64 ≤ 2097152) :=
  ⟨2, 0, [], mf0 0, shard0 0, gateState 0, by decide⟩

theorem test_meets_WeightGateJudgesWrites_7 : ∃ (tag addr : Nat) (words : List Nat) (m : Manifest) (x : Shard) (s : State),
    (Runs s .tsu) ∧ (bits tag 0 2 = 2) ∧ (((fget? s.t.layers (bits tag 2 10)).bind fun l => s.manifestOf l.epoch) = some m) ∧ ((m.shardsOf (bits tag 2 10)).find? (fun x => x.id == bits tag 12 16) = some x) ∧ (x.state ≠ 4) ∧ (x.state = 2 ∨ x.blocks.contains (bits tag 28 20) = true) :=
  ⟨2, 0, [], mf0 2, shard0 2, gateState 2, by decide⟩

theorem test_meets_WeightGateJudgesWrites_8 : ∃ (tag addr : Nat) (words : List Nat) (m : Manifest) (x : Shard) (s : State),
    (Runs s .tsu) ∧ (bits tag 0 2 = 2) ∧ (((fget? s.t.layers (bits tag 2 10)).bind fun l => s.manifestOf l.epoch) = some m) ∧ ((m.shardsOf (bits tag 2 10)).find? (fun x => x.id == bits tag 12 16) = some x) ∧ (x.state ≠ 4) ∧ (x.state ≠ 2) ∧ (x.blocks.contains (bits tag 28 20) = false) ∧ (x.len ≤ 64 * bits tag 28 20) :=
  ⟨2 + 2 ^ 28, 0, [], mf0 1, shard0 1, gateState 1, by decide⟩

theorem test_meets_WeightGateJudgesWrites_9 : ∃ (tag addr : Nat) (words : List Nat) (m : Manifest) (x : Shard) (s : State),
    (Runs s .tsu) ∧ (bits tag 0 2 = 2) ∧ (((fget? s.t.layers (bits tag 2 10)).bind fun l => s.manifestOf l.epoch) = some m) ∧ ((m.shardsOf (bits tag 2 10)).find? (fun x => x.id == bits tag 12 16) = some x) ∧ (x.state = 0) ∧ (x.blocks.contains (bits tag 28 20) = false) ∧ (64 * bits tag 28 20 < x.len) ∧ (256 ≤ s.openShards.length ∨ 2097152 < s.bitmapUsed + x.len / 64) :=
  ⟨2, 0, [], { mf0 0 with shards := shard0 0 :: fullShards }, shard0 0, fullGate, by decide +kernel⟩

theorem test_meets_WeightGateJudgesWrites_10 : ∃ (tag addr : Nat) (words : List Nat) (m : Manifest) (x : Shard) (s : State),
    (Runs s .tsu) ∧ (bits tag 0 2 = 2) ∧ (((fget? s.t.layers (bits tag 2 10)).bind fun l => s.manifestOf l.epoch) = some m) ∧ ((m.shardsOf (bits tag 2 10)).find? (fun x => x.id == bits tag 12 16) = some x) ∧ (x.state = 4) :=
  ⟨2, 0, [], mf0 4, shard0 4, gateState 4, by decide⟩

theorem test_meets_WeightGateJudgesWrites_11 : ∃ (tag addr : Nat) (words : List Nat) (m : Manifest) (s : State),
    (Runs s .tsu) ∧ (bits tag 0 2 = 2) ∧ (((fget? s.t.layers (bits tag 2 10)).bind fun l => s.manifestOf l.epoch) = some m) ∧ ((m.shardsOf (bits tag 2 10)).find? (fun x => x.id == bits tag 12 16) = none) :=
  ⟨2 + 2 ^ 12, 0, [], mf0 0, gateState 0, by decide⟩

theorem test_meets_WeightGateJudgesWrites_12 : ∃ (tag addr : Nat) (words : List Nat) (s : State),
    (Runs s .tsu) ∧ (bits tag 0 2 = 2) ∧ (((fget? s.t.layers (bits tag 2 10)).bind fun l => s.manifestOf l.epoch) = none) :=
  ⟨2, 0, [], State.reset, by decide⟩

theorem test_meets_WeightGateJudgesWrites_13 : ∃ (layer shard : Nat) (m : Manifest) (x : Shard) (s : State),
    (Runs s .tsu) ∧ (((fget? s.t.layers layer).bind fun l => s.manifestOf l.epoch) = some m) ∧ ((m.shardsOf layer).find? (fun x => x.id == shard) = some x) ∧ (x.state < 2) ∧ (x.deadline ≤ s.tsu.lfn) :=
  ⟨0, 0, mf0 0, shard0 0, gateState 0, by decide⟩

theorem test_meets_WeightGateJudgesWrites_14 : ∃ (layer : Nat) (m : Manifest) (s : State),
    (Runs s .tsu) ∧ (s.t.mfIn = some m) ∧ ((fget? s.t.layers layer).all (fun l => decide (l.epoch < m.epoch)) = true) :=
  ⟨0, mf0 0, State.reset.modT fun t => { t with mfIn := some (mf0 0) }, by decide⟩

theorem test_meets_WeightGateJudgesWrites_15 : ∃ (layer : Nat) (s : State),
    (Runs s .tsu) ∧ (s.t.mfIn = none) :=
  ⟨0, State.reset, by decide⟩

theorem test_meets_WeightGateJudgesWrites_16 : ∃ (layer : Nat) (m : Manifest) (s : State),
    (Runs s .tsu) ∧ (s.t.mfIn = some m) ∧ ((fget? s.t.layers layer).all (fun l => decide (l.epoch < m.epoch)) = false) :=
  ⟨0, mf0 0, State.reset.modT fun t => { t with mfIn := some (mf0 0), layers := [(0, ⟨1, false⟩)] }, by decide⟩

theorem test_meets_WeightGateJudgesWrites_17 : ∃ (ring seq : Nat) (f : InFlight) (s : State),
    (Runs s .tsu) ∧ (Asked s .tsu ring seq 0x20 f) ∧ ((s.begin_ .tsu ring seq).t.mbWait.any (fun x => x.kind == 5 && x.ring == ring && x.seq == seq) = false) ∧ (leNat f.desc.ext 96 16 = f.tenant) :=
  ⟨0, 5, askFor 0x20, asked .tsu 0x20, by decide⟩

theorem test_meets_WeightGateJudgesWrites_18 : ∃ (ring seq : Nat) (f : InFlight) (s : State),
    (Runs s .tsu) ∧ (Asked s .tsu ring seq 0x20 f) ∧ ((s.begin_ .tsu ring seq).t.mbWait.any (fun x => x.kind == 5 && x.ring == ring && x.seq == seq) = false) ∧ (leNat f.desc.ext 96 16 ≠ f.tenant) :=
  ⟨0, 5, { askFor 0x20 with tenant := 9 }, State.reset.modRing .tsu 0 fun t => { t with flight := [{ askFor 0x20 with tenant := 9 }] }, by decide⟩

theorem test_meets_WeightGateJudgesWrites_19 : ∃ (ring seq : Nat) (f : InFlight) (s : State),
    (Runs s .dbx) ∧ (Asked s .dbx ring seq 0x30 f) :=
  ⟨0, 5, askFor 0x30, asked .dbx 0x30, by decide⟩

theorem test_meets_WeightGateJudgesWrites_20 : ∃ (ring seq : Nat) (f : InFlight) (s : State),
    (Runs s .tsu) ∧ (Asked s .tsu ring seq 0x30 f) ∧ (gateStatus ((s.begin_ .tsu ring seq).tsuTenant f.desc.handle false) f.tenant f.kind = 0) :=
  ⟨0, 5, { seq := 5, desc := { descOf 0x30 with handle := 2 ^ 18 }, committed := true }, (State.reset.modRing .tsu 0 fun t => { t with flight := [{ seq := 5, desc := { descOf 0x30 with handle := 2 ^ 18 }, committed := true }] }).modT fun t => { t with chans := [(0, { state := 1, gen := 1, tenant := 0 })] }, by decide⟩

theorem test_meets_WeightGateJudgesWrites_21 : ∃ (ring seq : Nat) (f : InFlight) (g : Nat) (s : State),
    (Runs s .tsu) ∧ (Asked s .tsu ring seq 0x30 f) ∧ (gateStatus ((s.begin_ .tsu ring seq).tsuTenant f.desc.handle false) f.tenant f.kind = g) ∧ (g ≠ 0) :=
  ⟨0, 5, askFor 0x30, 8, asked .tsu 0x30, by decide⟩


theorem test_meets_HealthIsReadAndPolicySet_1 : ∃ (p : Part) (ring seq : Nat) (f : InFlight) (s : State),
    (Runs s p) ∧ (Asked s p ring seq 0x50 f) ∧ (opnd f.desc 40 1 = 0) :=
  ⟨Part.tsu, 0, 5, askFor 0x50, asked .tsu 0x50, by decide⟩

theorem test_meets_HealthIsReadAndPolicySet_2 : ∃ (ring seq : Nat) (f : InFlight) (s : State),
    (Runs s .dbx) ∧ (Asked s .dbx ring seq 0x50 f) ∧ (opnd f.desc 40 1 = 1) :=
  ⟨0, 5, askWith 0x50 [1] [], askedWith .dbx 0x50 [1] [], by decide⟩

theorem test_meets_HealthIsReadAndPolicySet_3 : ∃ (ring seq : Nat) (f : InFlight) (s : State),
    (Runs s .dbx) ∧ (Asked s .dbx ring seq 0x50 f) ∧ (opnd f.desc 40 1 = 2) :=
  ⟨0, 5, askWith 0x50 [2] [], askedWith .dbx 0x50 [2] [], by decide⟩

theorem test_meets_HealthIsReadAndPolicySet_4 : ∃ (ring seq : Nat) (f : InFlight) (s : State),
    (Runs s .tsu) ∧ (Asked s .tsu ring seq 0x51 f) ∧ (policyOp f.desc = 0) :=
  ⟨0, 5, askWith 0x51 [] [0], askedWith .tsu 0x51 [] [0], by decide⟩

theorem test_meets_HealthIsReadAndPolicySet_5 : ∃ (ring seq : Nat) (f : InFlight) (s : State),
    (Runs s .dbx) ∧ (Asked s .dbx ring seq 0x51 f) ∧ (policyOp f.desc = 0) :=
  ⟨0, 5, askWith 0x51 [] [0], askedWith .dbx 0x51 [] [0], by decide⟩

theorem test_meets_HealthIsReadAndPolicySet_6 : ∃ (ring seq i : Nat) (f : InFlight) (s : State),
    (Runs s .dbx) ∧ (Asked s .dbx ring seq 0x51 f) ∧ (policyOp f.desc = 1) ∧ ((List.range 64).find? (fun i => (s.begin_ .dbx ring seq).rd F.insertState i != 1) = some i) :=
  ⟨0, 5, 0, askWith 0x51 [] [1], askedWith .dbx 0x51 [] [1], by decide⟩

theorem test_meets_HealthIsReadAndPolicySet_7 : ∃ (ring seq : Nat) (f : InFlight) (s : State),
    (Runs s .dbx) ∧ (Asked s .dbx ring seq 0x51 f) ∧ (policyOp f.desc = 1) ∧ ((List.range 64).find? (fun i => (s.begin_ .dbx ring seq).rd F.insertState i != 1) = none) :=
  ⟨0, 5, askWith 0x51 [] [1], (List.range 64).foldl (fun t i => t.wr F.insertState 1 i) (askedWith .dbx 0x51 [] [1]), by decide +kernel⟩

theorem test_meets_HealthIsReadAndPolicySet_8 : ∃ (ring seq i : Nat) (f : InFlight) (s : State),
    (Runs s .dbx) ∧ (Asked s .dbx ring seq 0x51 f) ∧ (policyOp f.desc = 2) ∧ ((s.begin_ .dbx ring seq).openRecord (f.desc.ext.getD 4 0) (leNat f.desc.ext 8 4) = some i) :=
  ⟨0, 5, 0, askWith 0x51 [] [2], (askedWith .dbx 0x51 [] [2]).wr F.insertState 1 0, by decide⟩

theorem test_meets_HealthIsReadAndPolicySet_9 : ∃ (ring seq : Nat) (f : InFlight) (s : State),
    (Runs s .dbx) ∧ (Asked s .dbx ring seq 0x51 f) ∧ (policyOp f.desc = 2) ∧ ((s.begin_ .dbx ring seq).openRecord (f.desc.ext.getD 4 0) (leNat f.desc.ext 8 4) = none) :=
  ⟨0, 5, askWith 0x51 [] [2], askedWith .dbx 0x51 [] [2], by decide⟩

theorem test_meets_HealthIsReadAndPolicySet_10 : ∃ (i t : Nat) (s : State),
    (Runs s .dbx) ∧ (fget? s.d.insertBy i = some t) ∧ (s.rd F.insertState i = 1) ∧ (t ≤ s.dbx.lfn) :=
  ⟨0, 0, (State.reset.wr F.insertState 1 0).modD fun d => { d with insertBy := [(0, 0)] }, by decide⟩

theorem test_meets_HealthIsReadAndPolicySet_11 : ∃ (ring seq : Nat) (f : InFlight) (s : State),
    (Runs s .dbx) ∧ (Asked s .dbx ring seq 0x51 f) ∧ (policyOp f.desc = 3) :=
  ⟨0, 5, askWith 0x51 [] [3], askedWith .dbx 0x51 [] [3], by decide⟩

theorem test_meets_HealthIsReadAndPolicySet_12 : ∃ (ring seq : Nat) (f : InFlight) (s : State),
    (Runs s .tsu) ∧ (Asked s .tsu ring seq 0x51 f) ∧ (policyOp f.desc = 4) ∧ (s.is F.thealthRolePending = true) :=
  ⟨0, 5, askWith 0x51 [] [4], (askedWith .tsu 0x51 [] [4]).wr F.thealthRolePending 1, by decide⟩

theorem test_meets_HealthIsReadAndPolicySet_13 : ∃ (ring seq : Nat) (f : InFlight) (s : State),
    (Runs s .tsu) ∧ (Asked s .tsu ring seq 0x51 f) ∧ (policyOp f.desc = 4) ∧ (s.is F.thealthRolePending = false) :=
  ⟨0, 5, askWith 0x51 [] [4], askedWith .tsu 0x51 [] [4], by decide⟩


theorem test_meets_ScoresExpulsionAndService_1 : ∃ (s : State),
    (Runs s .tsu) ∧ (s.lfn .tsu % 2 ^ 32 = 0) :=
  ⟨State.reset, by decide⟩

theorem test_meets_ScoresExpulsionAndService_2 : ∃ (s : State),
    (Runs s .dbx) ∧ (s.lfn .dbx % 2 ^ 32 = 0) :=
  ⟨State.reset, by decide⟩

theorem test_meets_ScoresExpulsionAndService_3 : ∃ (p : Part) (s : State),
    (Runs s p) ∧ (s.lfn p % 2 ^ 32 ≠ 0) :=
  ⟨Part.tsu, State.reset.modNode .tsu fun n => { n with lfn := 1 }, by decide⟩

theorem test_meets_ScoresExpulsionAndService_4 : ∃ (partition role pod score : Nat) (s : State),
    (Runs s .dbx) ∧ (s.apexSlot partition = none) :=
  ⟨0, 0, 0, 0, State.reset, by decide⟩

theorem test_meets_ScoresExpulsionAndService_5 : ∃ (partition role pod score : Nat) (k : Nat) (s : State),
    (Runs s .dbx) ∧ (s.apexSlot partition = some k) ∧ (s.mayExpel partition pod = true) :=
  ⟨0, 0, 0, 0, 0, ((roleState 1).wr F.expelCfgPodLimit 1).wr F.expelCfgPartLimit 1, by decide⟩

theorem test_meets_ScoresExpulsionAndService_6 : ∃ (partition role pod score : Nat) (k : Nat) (s : State),
    (Runs s .dbx) ∧ (s.apexSlot partition = some k) ∧ (s.mayExpel partition pod = false) :=
  ⟨0, 0, 0, 0, 0, (roleState 1).wr F.expelCfgPodLimit 0, by decide⟩

theorem test_meets_ScoresExpulsionAndService_7 : ∃ (t : Nat) (s : State),
    (Runs s .tsu) ∧ (s.t.expelAt = some t) ∧ (s.expelCause = true) ∧ (t + 2 ^ 30 ≤ s.tsu.lfn) :=
  ⟨0, ((State.reset.wr F.fltStatusOosReq 1).modT fun t => { t with expelAt := some 0 }).modNode .tsu fun n => { n with lfn := 2 ^ 30 }, by decide⟩

theorem test_meets_ScoresExpulsionAndService_8 : ∃ (t : Nat) (s : State),
    (Runs s .tsu) ∧ (s.t.expelAt = some t) ∧ (s.expelCause = false) :=
  ⟨0, (State.reset.wr F.thealthScore 1023).modT fun t => { t with expelAt := some 0 }, by decide⟩

theorem test_meets_ScoresExpulsionAndService_9 : ∃ (v : Nat) (s : State),
    (Runs s .tsu) ∧ (v = 1 ∨ v = 2) :=
  ⟨1, State.reset, by decide⟩

theorem test_meets_ScoresExpulsionAndService_10 : ∃ (g : Nat × Nat × Nat) (rest : List (Nat × Nat × Nat)) (x : Nat × Nat × Nat) (s : State),
    (Runs s .dbx) ∧ (s.d.grants = g :: rest) ∧ (g.1 + s.expelWindow ≤ s.dbx.lfn) ∧ ((s.modD fun d => { d with grants := rest }).d.retPods.find? (fun x => (s.modD fun d => { d with grants := rest }).mayExpel x.2.2 x.2.1) = some x) :=
  ⟨(0, 0, 0), [], (0, 0, 0), (((State.reset.wr F.expelCfgPodLimit 1).wr F.expelCfgPartLimit 1).wr F.expelCfgWindowS 0).modD fun d => { d with grants := [(0, 0, 0)], retPods := [(0, 0, 0)] }, by decide⟩

theorem test_meets_ScoresExpulsionAndService_11 : ∃ (g : Nat × Nat × Nat) (rest : List (Nat × Nat × Nat)) (s : State),
    (Runs s .dbx) ∧ (s.d.grants = g :: rest) ∧ (g.1 + s.expelWindow ≤ s.dbx.lfn) ∧ ((s.modD fun d => { d with grants := rest }).d.retPods.find? (fun x => (s.modD fun d => { d with grants := rest }).mayExpel x.2.2 x.2.1) = none) :=
  ⟨(0, 0, 0), [], (State.reset.wr F.expelCfgWindowS 0).modD fun d => { d with grants := [(0, 0, 0)] }, by decide⟩

theorem test_meets_ScoresExpulsionAndService_12 : ∃ (s : State),
    (Runs s .dbx) ∧ (s.d.x1Done = false) ∧ (s.rd64 F.x1SwitchLoLfn F.x1SwitchHiLfn ≤ s.dbx.lfn) ∧ (s.is F.x1CfgAsX0 = false) :=
  ⟨State.reset.modD fun d => { d with x1Done := false }, by decide⟩

theorem test_meets_ScoresExpulsionAndService_13 : ∃ (s : State),
    (Runs s .dbx) ∧ (s.d.x1Done = false) ∧ (s.rd64 F.x1SwitchLoLfn F.x1SwitchHiLfn ≤ s.dbx.lfn) ∧ (s.is F.x1CfgAsX0 = true) ∧ ((s.modD fun d => { d with x1Done := true }).x1Ready = true) :=
  ⟨((State.reset.wr F.x1CfgAsX0 1).wr (F.portStateState .dbx) 4 131).modD fun d => { d with x1Done := false }, by decide⟩

theorem test_meets_ScoresExpulsionAndService_14 : ∃ (s : State),
    (Runs s .dbx) ∧ (s.d.x1Done = false) ∧ (s.rd64 F.x1SwitchLoLfn F.x1SwitchHiLfn ≤ s.dbx.lfn) ∧ (s.is F.x1CfgAsX0 = true) ∧ ((s.modD fun d => { d with x1Done := true }).x1Ready = false) :=
  ⟨(State.reset.wr F.x1CfgAsX0 1).modD fun d => { d with x1Done := false }, by decide⟩

theorem test_meets_ScoresExpulsionAndService_15 : ∃ (s : State),
    (Runs s .dbx) ∧ (s.dbx.lfn % 2 ^ 20 = 0) :=
  ⟨State.reset, by decide⟩

theorem test_meets_ScoresExpulsionAndService_16 : ∃ (s : State),
    (Runs s .dbx) ∧ (s.dbx.lfn % 2 ^ 20 = 0) ∧ ((s.wr F.sramTestEvt 1).rd F.sramTestSparesUsed < 8) :=
  ⟨State.reset, by decide⟩

theorem test_meets_ScoresExpulsionAndService_17 : ∃ (s : State),
    (Runs s .dbx) ∧ (s.dbx.lfn % 2 ^ 20 = 0) ∧ (8 ≤ (s.wr F.sramTestEvt 1).rd F.sramTestSparesUsed) :=
  ⟨State.reset.wr F.sramTestSparesUsed 8, by decide⟩


theorem test_meets_CompletionWordsFollowTheirKinds_1 : ∃ (region : Nat) (stamp now : MTime) (w : CbWord) (s : State),
    (Runs s .tsu) ∧ (s.t.cmpAck = true) :=
  ⟨0, mt0, mt0, cbw 1, State.reset.modT fun t => { t with cmpAck := true }, by decide⟩

theorem test_meets_CompletionWordsFollowTheirKinds_2 : ∃ (region : Nat) (stamp now : MTime) (w : CbWord) (s : State),
    (Runs s .tsu) ∧ (s.t.cmpAck = false) ∧ (w.kind = 3) ∧ ((s.noteLate stamp now).liveNodes.find? (fun x => x.target == w.target && x.queue == w.queue) = none) ∧ ((s.noteLate stamp now).liveNodes.length < 4096) :=
  ⟨0, mt0, mt0, cbw 3, State.reset, by decide⟩

theorem test_meets_CompletionWordsFollowTheirKinds_3 : ∃ (region : Nat) (stamp now : MTime) (w : CbWord) (s : State),
    (Runs s .tsu) ∧ (s.t.cmpAck = false) ∧ (w.kind = 3) ∧ ((s.noteLate stamp now).liveNodes.find? (fun x => x.target == w.target && x.queue == w.queue) = none) ∧ (4096 ≤ (s.noteLate stamp now).liveNodes.length) :=
  ⟨0, mt0, mt0, cbw 3, State.reset.modT fun t => { t with waits := (List.range 4096).map fun i => { node0 with target := 1 + i } }, by decide +kernel⟩

theorem test_meets_CompletionWordsFollowTheirKinds_4 : ∃ (region : Nat) (stamp now : MTime) (w : CbWord) (x : WaitNode) (s : State),
    (Runs s .tsu) ∧ (s.t.cmpAck = false) ∧ (w.kind = 3) ∧ ((s.noteLate stamp now).liveNodes.find? (fun x => x.target == w.target && x.queue == w.queue) = some x) ∧ ({ x with since := stamp } = (⟨w.target, w.queue, w.handle, w.wRole, w.wTarget, w.wQueue, stamp, none⟩ : WaitNode)) :=
  ⟨0, mt0, mt0, cbw 3, node0, State.reset.modT fun t => { t with waits := [node0] }, by decide⟩

theorem test_meets_CompletionWordsFollowTheirKinds_5 : ∃ (region : Nat) (stamp now : MTime) (w : CbWord) (x : WaitNode) (s : State),
    (Runs s .tsu) ∧ (s.t.cmpAck = false) ∧ (w.kind = 3) ∧ ((s.noteLate stamp now).liveNodes.find? (fun x => x.target == w.target && x.queue == w.queue) = some x) ∧ ({ x with since := stamp } ≠ (⟨w.target, w.queue, w.handle, w.wRole, w.wTarget, w.wQueue, stamp, none⟩ : WaitNode)) :=
  ⟨0, mt0, mt0, cbw 3, { node0 with wRole := 1 }, State.reset.modT fun t => { t with waits := [{ node0 with wRole := 1 }] }, by decide⟩

theorem test_meets_CompletionWordsFollowTheirKinds_6 : ∃ (region : Nat) (stamp now : MTime) (w : CbWord) (s : State),
    (Runs s .tsu) ∧ (s.t.cmpAck = false) ∧ (w.kind = 4) :=
  ⟨0, mt0, mt0, cbw 4, State.reset, by decide⟩

theorem test_meets_CompletionWordsFollowTheirKinds_7 : ∃ (region : Nat) (stamp now : MTime) (w : CbWord) (s : State),
    (Runs s .tsu) ∧ (s.t.cmpAck = false) ∧ (w.kind = 5) :=
  ⟨0, mt0, mt0, cbw 5, State.reset, by decide⟩

theorem test_meets_CompletionWordsFollowTheirKinds_8 : ∃ (region : Nat) (stamp now : MTime) (w : CbWord) (s : State),
    (Runs s .tsu) ∧ (s.t.cmpAck = false) ∧ (w.kind = 7) :=
  ⟨0, mt0, mt0, cbw 7, State.reset, by decide⟩

theorem test_meets_CompletionWordsFollowTheirKinds_9 : ∃ (region : Nat) (stamp now : MTime) (w : CbWord) (s : State),
    (Runs s .tsu) ∧ (s.t.cmpAck = false) ∧ (w.kind = 2) ∧ (w.handle = 0) :=
  ⟨0, mt0, mt0, { cbw 2 with handle := 0 }, State.reset, by decide⟩

theorem test_meets_CompletionWordsFollowTheirKinds_10 : ∃ (region : Nat) (stamp now : MTime) (w : CbWord) (o : OpenStep) (s : State),
    (Runs s .tsu) ∧ (s.t.cmpAck = false) ∧ (((s.wordStep w).filter fun o => o.missing.contains (256 * w.entry + w.target)) = some o) ∧ (w.kind = 1) :=
  ⟨0, mt0, mt0, cbw 1, openStep0, stepState, by decide⟩

theorem test_meets_CompletionWordsFollowTheirKinds_11 : ∃ (region : Nat) (stamp now : MTime) (w : CbWord) (o : OpenStep) (s : State),
    (Runs s .tsu) ∧ (s.t.cmpAck = false) ∧ (((s.wordStep w).filter fun o => o.missing.contains (256 * w.entry + w.target)) = some o) ∧ (w.kind = 2) ∧ (w.handle ≠ 0) :=
  ⟨0, mt0, mt0, cbw 2, openStep0, stepState, by decide⟩

theorem test_meets_CompletionWordsFollowTheirKinds_12 : ∃ (region : Nat) (stamp now : MTime) (w : CbWord) (o : OpenStep) (s : State),
    (Runs s .tsu) ∧ (s.t.cmpAck = false) ∧ (((s.wordStep w).filter fun o => o.missing.contains (256 * w.entry + w.target)) = some o) ∧ (w.kind = 6) ∧ (o.sent = false) :=
  ⟨0, mt0, mt0, cbw 6, openStep0, stepState, by decide⟩

theorem test_meets_CompletionWordsFollowTheirKinds_13 : ∃ (region : Nat) (stamp now : MTime) (w : CbWord) (o : OpenStep) (s : State),
    (Runs s .tsu) ∧ (s.t.cmpAck = false) ∧ (((s.wordStep w).filter fun o => o.missing.contains (256 * w.entry + w.target)) = some o) ∧ (w.kind = 6) ∧ (o.sent = true) :=
  ⟨0, mt0, mt0, cbw 6, { openStep0 with sent := true }, State.reset.modT fun t => { t with steps := [{ openStep0 with sent := true }] }, by decide⟩

theorem test_meets_CompletionWordsFollowTheirKinds_14 : ∃ (region : Nat) (stamp now : MTime) (w : CbWord) (s : State),
    (Runs s .tsu) ∧ (s.t.cmpAck = false) ∧ (w.kind = 0 ∨ 7 < w.kind) :=
  ⟨0, mt0, mt0, cbw 9, State.reset, by decide⟩

theorem test_meets_CompletionWordsFollowTheirKinds_15 : ∃ (region : Nat) (stamp now : MTime) (w : CbWord) (s : State),
    (Runs s .tsu) ∧ (s.t.cmpAck = false) ∧ (((s.wordStep w).filter fun o => o.missing.contains (256 * w.entry + w.target)) = none) ∧ (w.kind = 1 ∨ w.kind = 6 ∨ (w.kind = 2 ∧ w.handle ≠ 0)) :=
  ⟨0, mt0, mt0, cbw 1, State.reset, by decide⟩


theorem test_meets_WaitsTakeTheirVerdicts_1 : ∃ (s : State),
    (Runs s .tsu) ∧ (s.isTick s.evalTick = true) ∧ (s.evalTick * 8192 + 100000 ≤ s.tsu.lfn * 8192 + s.tsu.sub) ∧ (s.t.evalAt ≠ some s.evalTick) :=
  ⟨(State.reset.wr (F.timeStatusGridValid .tsu) 1).modNode .tsu fun n => { n with lfn := 2 ^ 16 }, by decide⟩

theorem test_meets_WaitsTakeTheirVerdicts_2 : ∃ (partition handle step : Nat) (s : State),
    (Runs s .tsu) ∧ (s.hasRole = true) ∧ (s.diePartition = partition) ∧ ((s.answerClass handle step).1 = 1) :=
  ⟨0, 2 ^ 18, 0, (State.reset.wr F.roleRoleValid 1).modT fun t => { t with classes := [⟨2 ^ 18, 0, 1, false, 0⟩] }, by decide⟩

theorem test_meets_WaitsTakeTheirVerdicts_3 : ∃ (partition handle step : Nat) (s : State),
    (Runs s .tsu) ∧ (s.hasRole = true) ∧ (s.diePartition = partition) ∧ ((s.answerClass handle step).1 ≠ 1) :=
  ⟨0, 2 ^ 18, 0, State.reset.wr F.roleRoleValid 1, by decide⟩

theorem test_meets_WaitsTakeTheirVerdicts_4 : ∃ (pos partition : Nat) (r : WaitReply) (s : State),
    (Runs s .dbx) ∧ ((s.rolesAt partition pos).isEmpty = true) :=
  ⟨0, 0, reply0, State.reset, by decide⟩

theorem test_meets_WaitsTakeTheirVerdicts_5 : ∃ (pos partition : Nat) (r : WaitReply) (q : HangQ) (s : State),
    (Runs s .dbx) ∧ ((s.rolesAt partition pos).isEmpty = false) ∧ ((s.apexSlot partition).isSome = true) ∧ (s.d.hangs.find? (fun q => q.partition == partition && q.handle == r.handle && q.step % 65536 == r.stepLo) = some q) ∧ (q.seen.contains pos = false) ∧ ((joinWait q pos r).expected ≤ (joinWait q pos r).count) :=
  ⟨0, 0, reply0, hang0, (roleState 1).modD fun d => { d with hangs := [hang0] }, by decide⟩

theorem test_meets_WaitsTakeTheirVerdicts_6 : ∃ (pos partition : Nat) (r : WaitReply) (q : HangQ) (s : State),
    (Runs s .dbx) ∧ ((s.rolesAt partition pos).isEmpty = false) ∧ ((s.apexSlot partition).isSome = true) ∧ (s.d.hangs.find? (fun q => q.partition == partition && q.handle == r.handle && q.step % 65536 == r.stepLo) = some q) ∧ (q.seen.contains pos = false) ∧ ((joinWait q pos r).count < (joinWait q pos r).expected) :=
  ⟨0, 0, reply0, { hang0 with expected := 2 }, (roleState 1).modD fun d => { d with hangs := [{ hang0 with expected := 2 }] }, by decide⟩

theorem test_meets_WaitsTakeTheirVerdicts_7 : ∃ (pos partition : Nat) (r : WaitReply) (q : HangQ) (s : State),
    (Runs s .dbx) ∧ ((s.rolesAt partition pos).isEmpty = false) ∧ ((s.apexSlot partition).isSome = true) ∧ (s.d.hangs.find? (fun q => q.partition == partition && q.handle == r.handle && q.step % 65536 == r.stepLo) = some q) ∧ (q.seen.contains pos = true) :=
  ⟨0, 0, reply0, { hang0 with seen := [0] }, (roleState 1).modD fun d => { d with hangs := [{ hang0 with seen := [0] }] }, by decide⟩

theorem test_meets_WaitsTakeTheirVerdicts_8 : ∃ (pos partition : Nat) (r : WaitReply) (s : State),
    (Runs s .dbx) ∧ ((s.rolesAt partition pos).isEmpty = false) ∧ ((s.apexSlot partition).isSome = true) ∧ (s.d.hangs.find? (fun q => q.partition == partition && q.handle == r.handle && q.step % 65536 == r.stepLo) = none) :=
  ⟨0, 0, reply0, roleState 1, by decide⟩

theorem test_meets_WaitsTakeTheirVerdicts_9 : ∃ (pos partition : Nat) (r : WaitReply) (s : State),
    (Runs s .dbx) ∧ ((s.rolesAt partition pos).isEmpty = false) ∧ (s.apexSlot partition = none) :=
  ⟨0, 0, reply0, roleState 0, by decide⟩

theorem test_meets_WaitsTakeTheirVerdicts_10 : ∃ (ch : Nat) (q : HangQ) (s : State),
    (Runs s .dbx) ∧ (s.d.hangs.find? (fun q => hIndex q.handle == ch && decide (q.atLfn + 2 * s.flushLf ≤ s.dbx.lfn)) = some q) :=
  ⟨0, hang0, (State.reset.modD fun d => { d with hangs := [hang0] }).modNode .dbx fun n => { n with lfn := 2 ^ 40 }, by decide⟩


theorem test_meets_ReportsSuspectsAndComputeResets_1 : ∃ (partition role lfn k : Nat) (ready : Bool) (s : State),
    (Runs s .dbx) ∧ (s.apexSlot partition = some k) :=
  ⟨0, 0, 0, 0, true, roleState 1, by decide⟩

theorem test_meets_ReportsSuspectsAndComputeResets_2 : ∃ (partition role lfn : Nat) (ready : Bool) (s : State),
    (Runs s .dbx) ∧ (s.apexSlot partition = none) :=
  ⟨0, 0, 0, true, State.reset, by decide⟩

theorem test_meets_ReportsSuspectsAndComputeResets_3 : ∃ (partition role target faultLfn : Nat) (handles : List Nat) (overflow : Bool) (s : State),
    (Runs s .dbx) ∧ (s.apexSlot partition = none) :=
  ⟨0, 0, 0, 0, [], false, State.reset, by decide⟩

theorem test_meets_ReportsSuspectsAndComputeResets_4 : ∃ (partition role target faultLfn : Nat) (handles : List Nat) (overflow : Bool) (k : Nat) (s : State),
    (Runs s .dbx) ∧ (s.apexSlot partition = some k) ∧ (s.fltMode k = 1) ∧ (s.is F.dfltCfgSuspectEn = true) ∧ (overflow = false) ∧ ((sortNat ((handles.filter fun h => (s.bound h).isSome).map hIndex)).isEmpty = false) :=
  ⟨0, 0, 0, 0, [2 ^ 18], false, 0, (((roleState 1).wr F.fltPolicyMode 1 0).wr F.dfltCfgSuspectEn 1).modD fun d => { d with chans := [(0, chan0)] }, by decide⟩

theorem test_meets_ReportsSuspectsAndComputeResets_5 : ∃ (partition role target faultLfn : Nat) (handles : List Nat) (overflow : Bool) (k : Nat) (s : State),
    (Runs s .dbx) ∧ (s.apexSlot partition = some k) ∧ (s.fltMode k = 1) ∧ (s.is F.dfltCfgSuspectEn = true) ∧ (overflow = false) ∧ ((sortNat ((handles.filter fun h => (s.bound h).isSome).map hIndex)).isEmpty = true) :=
  ⟨0, 0, 0, 0, [], false, 0, ((roleState 1).wr F.fltPolicyMode 1 0).wr F.dfltCfgSuspectEn 1, by decide⟩

theorem test_meets_ReportsSuspectsAndComputeResets_6 : ∃ (partition role target faultLfn : Nat) (handles : List Nat) (overflow : Bool) (k : Nat) (s : State),
    (Runs s .dbx) ∧ (s.apexSlot partition = some k) ∧ (s.fltMode k ≠ 1 ∨ s.is F.dfltCfgSuspectEn = false ∨ overflow = true) :=
  ⟨0, 0, 0, 0, [], true, 0, roleState 1, by decide⟩

theorem test_meets_ReportsSuspectsAndComputeResets_7 : ∃ (ch : Nat) (c : CondChan) (s : State),
    (Runs s .dbx) ∧ (s.chan ch = some c) ∧ (c.r.exec = 6) ∧ (c.wait = .restore) ∧ (c.restoreBy ≤ s.dbx.lfn) :=
  ⟨0, { chan0 with wait := .restore, r := { chan0.r with exec := 6 } }, chanState fun c => { c with wait := .restore, r := { c.r with exec := 6 } }, by decide⟩

theorem test_meets_ReportsSuspectsAndComputeResets_8 : ∃ (v : Word) (s : State),
    (Runs s .tsu) ∧ (bit v.toNat 0 = true) ∧ (s.t.cmpAck = false) ∧ (s.rd F.fltStatusCmpState ≠ 1) :=
  ⟨1, State.reset, by decide⟩

theorem test_meets_ReportsSuspectsAndComputeResets_9 : ∃ (v : Word) (s : State),
    (Runs s .tsu) ∧ (bit v.toNat 0 = false ∨ s.t.cmpAck = true ∨ s.rd F.fltStatusCmpState = 1) :=
  ⟨0, State.reset, by decide⟩

theorem test_meets_ReportsSuspectsAndComputeResets_10 : ∃ (target handle : Nat) (k : Nat × Nat × Nat) (s : State),
    (Runs s .tsu) ∧ (s.t.kills.find? (fun k => k.1 == target && k.2.1 == handle && decide (k.2.2 + s.killLf ≤ s.tsu.lfn)) = some k) :=
  ⟨0, 5, (0, 5, 0), killState, by decide⟩

theorem test_meets_ReportsSuspectsAndComputeResets_11 : ∃ (s : State),
    (Runs s .tsu) ∧ (s.t.cmpAck = false) :=
  ⟨State.reset, by decide⟩

theorem test_meets_ReportsSuspectsAndComputeResets_12 : ∃ (s : State),
    (Runs s .tsu) ∧ (s.t.cmpAck = true) ∧ (((s.modT fun t => { t with cmpAck := false }).wr F.fltStatusCmpState 0).is F.roleRoleValid = true) :=
  ⟨(State.reset.modT fun t => { t with cmpAck := true }).wr F.roleRoleValid 1, by decide⟩

theorem test_meets_ReportsSuspectsAndComputeResets_13 : ∃ (s : State),
    (Runs s .tsu) ∧ (s.t.cmpAck = true) ∧ (((s.modT fun t => { t with cmpAck := false }).wr F.fltStatusCmpState 0).is F.roleRoleValid = false) :=
  ⟨(State.reset.modT fun t => { t with cmpAck := true }), by decide⟩


theorem test_meets_SessionsAnswerAndBind_1 : ∃ (sess : Option Nat) (x : Nat) (ring seq : Nat) (f : InFlight) (s : State),
    (Runs s .dbx) ∧ (Asked s .dbx ring seq 0x40 f) :=
  ⟨none, 0, 0, 5, askFor 0x40, asked .dbx 0x40, by decide⟩

theorem test_meets_SessionsAnswerAndBind_2 : ∃ (req : Spdm) (ring seq : Nat) (f : InFlight) (s : State),
    (Runs s .dbx) ∧ (Asked s .dbx ring seq 0x40 f) ∧ ((∀ a b, req ≠ .getMeasurements a b)) :=
  ⟨.keyExchange, 0, 5, askFor 0x40, asked .dbx 0x40, ⟨by decide, by decide, fun _ _ h => by cases h⟩⟩

theorem test_meets_SessionsAnswerAndBind_3 : ∃ (req : Spdm) (ring seq : Nat) (f : InFlight) (s : State),
    (Runs s .tsu) ∧ (Asked s .tsu ring seq 0x40 f) ∧ ((s.t.mbWait.any fun x => x.kind == 1 && x.ring == ring && x.seq == seq) = false) :=
  ⟨.keyExchange, 0, 5, askFor 0x40, asked .tsu 0x40, by decide⟩

theorem test_meets_SessionsAnswerAndBind_4 : ∃ (ring seq : Nat) (x : MbWait) (f : InFlight) (s : State),
    (Runs s .tsu) ∧ (s.t.mbWait.find? (fun x => x.kind == 1 && x.ring == ring && x.seq == seq) = some x) ∧ (x.at_ + lfOfMs 45 ≤ s.tsu.lfn) ∧ ((s.modT fun t => { t with mbWait := t.mbWait.filter (· != x) }).inFlight .tsu ring seq = some f) :=
  ⟨0, 5, mbw 1, askFor 0x40, waitState, by decide⟩

theorem test_meets_SessionsAnswerAndBind_5 : ∃ (req : InstallReq) (ring seq : Nat) (f : InFlight) (s : State),
    (Runs s .dbx) ∧ (Asked s .dbx ring seq 0x41 f) ∧ (req.op ≠ 2) ∧ (req.op ≠ 3) ∧ (((s.begin_ .dbx ring seq).installCause .dbx (opnd f.desc 40 1) req).1 = 0) :=
  ⟨bindReq, 0, 5, bindAsk, bindState, by decide +kernel⟩

theorem test_meets_SessionsAnswerAndBind_6 : ∃ (req : InstallReq) (ring seq : Nat) (f : InFlight) (cause : Nat) (s : State),
    (Runs s .dbx) ∧ (Asked s .dbx ring seq 0x41 f) ∧ (req.op ≠ 2) ∧ (req.op ≠ 3) ∧ (((s.begin_ .dbx ring seq).installCause .dbx (opnd f.desc 40 1) req).1 = cause) ∧ (cause ≠ 0) :=
  ⟨req1 1, 0, 5, askFor 0x41, 1, asked .dbx 0x41, by decide +kernel⟩

theorem test_meets_SessionsAnswerAndBind_7 : ∃ (req : InstallReq) (ring seq : Nat) (f : InFlight) (s : State),
    (Runs s .tsu) ∧ (Asked s .tsu ring seq 0x41 f) ∧ (req.op ≠ 2) ∧ (req.op ≠ 3) ∧ ((s.t.mbWait.any fun x => x.kind == 2 && x.ring == ring && x.seq == seq) = false) :=
  ⟨req1 1, 0, 5, askFor 0x41, asked .tsu 0x41, by decide⟩

theorem test_meets_SessionsAnswerAndBind_8 : ∃ (req : InstallReq) (ring seq : Nat) (f : InFlight) (s : State),
    (Runs s .dbx) ∧ (Asked s .dbx ring seq 0x41 f) ∧ (req.op = 2) :=
  ⟨req1 2, 0, 5, askFor 0x41, asked .dbx 0x41, by decide +kernel⟩

theorem test_meets_SessionsAnswerAndBind_9 : ∃ (req : InstallReq) (ring seq : Nat) (f : InFlight) (s : State),
    (Runs s .tsu) ∧ (Asked s .tsu ring seq 0x41 f) ∧ (req.op = 2) ∧ ((s.t.mbWait.any fun x => x.kind == 2 && x.ring == ring && x.seq == seq) = false) :=
  ⟨req1 2, 0, 5, askFor 0x41, asked .tsu 0x41, by decide⟩

theorem test_meets_SessionsAnswerAndBind_10 : ∃ (req : InstallReq) (ring seq : Nat) (f : InFlight) (cause : Nat) (s : State),
    (Runs s .dbx) ∧ (Asked s .dbx ring seq 0x41 f) ∧ (req.op = 3) ∧ (((s.begin_ .dbx ring seq).installCause .dbx (opnd f.desc 40 1) req).1 = cause) ∧ (cause ≠ 0) :=
  ⟨req1 3, 0, 5, askFor 0x41, 2, asked .dbx 0x41, by decide +kernel⟩

theorem test_meets_SessionsAnswerAndBind_11 : ∃ (req : InstallReq) (ring seq : Nat) (f : InFlight) (s : State),
    (Runs s .tsu) ∧ (Asked s .tsu ring seq 0x41 f) ∧ (req.op = 3) ∧ ((s.t.mbWait.any fun x => x.kind == 2 && x.ring == ring && x.seq == seq) = false) :=
  ⟨req1 3, 0, 5, askFor 0x41, asked .tsu 0x41, by decide⟩

theorem test_meets_SessionsAnswerAndBind_12 : ∃ (v : Word) (bytes : List Byte) (s : State),
    (Runs s .tsu) :=
  ⟨0, [], State.reset, by decide⟩

theorem test_meets_SessionsAnswerAndBind_13 : ∃ (v : Word) (bytes : List Byte) (s : State),
    (Runs s .tsu) ∧ (bit v.toNat 31 = true) ∧ ((s.regWrite .tsu 0x9004 v.toNat true false).is F.mbRspLast = false) :=
  ⟨0x80000000, [], State.reset, by decide⟩

theorem test_meets_SessionsAnswerAndBind_14 : ∃ (v : Word) (bytes : List Byte) (s : State),
    (Runs s .tsu) ∧ (bit v.toNat 31 = true) ∧ ((s.regWrite .tsu 0x9004 v.toNat true false).is F.mbRspLast = true) :=
  ⟨0x80001000, [], State.reset, by decide⟩

theorem test_meets_SessionsAnswerAndBind_15 : ∃ (v : Word) (bytes : List Byte) (s : State),
    (Runs s .tsu) ∧ (bit v.toNat 31 = false) :=
  ⟨0, [], State.reset, by decide⟩

theorem test_meets_SessionsAnswerAndBind_16 : ∃ (v : Word) (s : State),
    (Runs s .tsu) :=
  ⟨0, State.reset, by decide⟩

theorem test_meets_SessionsAnswerAndBind_17 : ∃ (v : Word) (s : State),
    (Runs s .tsu) ∧ (bit v.toNat 31 = false) :=
  ⟨0, State.reset, by decide⟩

theorem test_meets_SessionsAnswerAndBind_18 : ∃ (v : Word) (s : State),
    (Runs s .tsu) ∧ (bit v.toNat 31 = true) ∧ (6 ≤ (s.regWrite .tsu 0x9010 v.toNat true false).rd F.keySelTarget) :=
  ⟨0x80000007, State.reset, by decide⟩

theorem test_meets_SessionsAnswerAndBind_19 : ∃ (v : Word) (s : State),
    (Runs s .tsu) ∧ (bit v.toNat 31 = true) ∧ ((s.regWrite .tsu 0x9010 v.toNat true false).rd F.keySelTarget < 4) :=
  ⟨0x80000000, State.reset, by decide⟩

theorem test_meets_SessionsAnswerAndBind_20 : ∃ (v : Word) (s : State),
    (Runs s .tsu) ∧ (bit v.toNat 31 = true) ∧ ((s.regWrite .tsu 0x9010 v.toNat true false).rd F.keySelTarget = 4 ∨ (s.regWrite .tsu 0x9010 v.toNat true false).rd F.keySelTarget = 5) :=
  ⟨0x80000004, State.reset, by decide⟩


theorem test_meets_ImagesStageAndScrubsRun_1 : ∃ (v : Word) (sigOk : Bool) (svn digest : Nat) (s : State),
    (Runs s .dbx) ∧ (bit v.toNat 18 = true) :=
  ⟨0x40000, true, 0, 0, State.reset, by decide⟩

theorem test_meets_ImagesStageAndScrubsRun_2 : ∃ (v : Word) (s : State),
    (Runs s .dbx) :=
  ⟨0, State.reset, by decide⟩

theorem test_meets_ImagesStageAndScrubsRun_3 : ∃ (ring seq : Nat) (f : InFlight) (s : State),
    (Runs s .tsu) ∧ (Asked s .tsu ring seq 0x42 f) ∧ ((s.node .tsu).scrub = none) :=
  ⟨0, 5, askFor 0x42, asked .tsu 0x42, by decide⟩

theorem test_meets_ImagesStageAndScrubsRun_4 : ∃ (ring seq : Nat) (f : InFlight) (s : State),
    (Runs s .dbx) ∧ (Asked s .dbx ring seq 0x42 f) ∧ ((s.node .dbx).scrub = none) :=
  ⟨0, 5, askFor 0x42, asked .dbx 0x42, by decide⟩

theorem test_meets_ImagesStageAndScrubsRun_5 : ∃ (p : Part) (ring seq : Nat) (f : InFlight) (x : ScrubRt) (s : State),
    (Runs s p) ∧ (Asked s p ring seq 0x42 f) ∧ ((s.node p).scrub = some x) ∧ (x.reply ≠ some (ring, seq)) :=
  ⟨Part.tsu, 0, 5, askFor 0x42, ⟨0, 0, none, []⟩, scrubbed .tsu none, by decide⟩

theorem test_meets_ImagesStageAndScrubsRun_6 : ∃ (p : Part) (ring seq : Nat) (f : InFlight) (x : ScrubRt) (s : State),
    (Runs s p) ∧ (Asked s p ring seq 0x42 f) ∧ ((s.node p).scrub = some x) ∧ (x.reply = some (ring, seq)) :=
  ⟨Part.tsu, 0, 5, askFor 0x42, ⟨0, 0, some (0, 5), []⟩, scrubbed .tsu (some (0, 5)), by decide⟩

theorem test_meets_ImagesStageAndScrubsRun_7 : ∃ (slot : Nat) (s : State),
    (Runs s .dbx) ∧ (s.scrubbing .dbx = false) ∧ (s.is F.condPartValid slot = true) :=
  ⟨0, roleState 0, by decide⟩

theorem test_meets_ImagesStageAndScrubsRun_8 : ∃ (x : ScrubRt) (r : Nat × Nat) (s : State),
    (Runs s .tsu) ∧ ((s.node .tsu).scrub = some x) ∧ (x.began + scrubLf .tsu ≤ s.lfn .tsu) ∧ (x.reply = some r) :=
  ⟨⟨0, 0, some (0, 5), []⟩, (0, 5), scrubbed .tsu (some (0, 5)), by decide⟩

theorem test_meets_ImagesStageAndScrubsRun_9 : ∃ (x : ScrubRt) (r : Nat × Nat) (s : State),
    (Runs s .dbx) ∧ ((s.node .dbx).scrub = some x) ∧ (x.began + scrubLf .dbx ≤ s.lfn .dbx) ∧ (x.reply = some r) :=
  ⟨⟨0, 0, some (0, 5), []⟩, (0, 5), scrubbed .dbx (some (0, 5)), by decide⟩

theorem test_meets_ImagesStageAndScrubsRun_10 : ∃ (x : ScrubRt) (s : State),
    (Runs s .dbx) ∧ ((s.node .dbx).scrub = some x) ∧ (x.began + scrubLf .dbx ≤ s.lfn .dbx) ∧ (x.reply = none) :=
  ⟨⟨0, 0, none, []⟩, scrubbed .dbx none, by decide⟩

end Sys2Proof.Tests
end

section
/-! SUPPORT. Proofs about the register map and the byte order: fields do not overlap, the set-up lock keeps the fields
under it, and numbers are laid out least significant byte first. -/

/-! ### Little-endian bytes (R3) -/

namespace Sys2Proof.Machine

@[simp] theorem toLe_length (n v : Nat) : (toLe n v).length = n := by
  induction n generalizing v with
  | zero => rfl
  | succ n ih => simp [toLe, ih]

/-- Byte `i` of a number is its digit `i` to the base 256. -/
theorem toLe_getD {n i : Nat} (h : i < n) (v : Nat) : (toLe n v).getD i 0 = v / 256 ^ i % 256 := by
  induction n generalizing v i with
  | zero => exact absurd h (Nat.not_lt_zero i)
  | succ n ih =>
    cases i with
    | zero => simp [toLe]
    | succ i =>
      rw [toLe, List.getD_cons_succ, ih (Nat.lt_of_succ_lt_succ h), Nat.div_div_eq_div_mul, Nat.pow_succ']

/-- A number read back from its own bytes is cut to them. -/
theorem leNat_toLe (n v : Nat) : leNat (toLe n v) 0 n = v % 256 ^ n := by
  induction n generalizing v with
  | zero => simp [leNat, Nat.mod_one]
  | succ n ih =>
    have ih' := ih (v / 256)
    simp only [leNat, List.drop_zero] at ih' ⊢
    rw [toLe, List.take_succ_cons, List.foldr_cons, ih', Nat.mod_mod, Nat.pow_succ', Nat.mod_mul]

/-- What stands before and after the bytes read does not matter. -/
theorem leNat_append (pre bs post : List Byte) :
    leNat (pre ++ bs ++ post) pre.length bs.length = leNat bs 0 bs.length := by
  simp [leNat, List.append_assoc]

/-- Settles O21: digit by digit, each byte being the rest modulo 256 and the next bytes those of the quotient. -/
theorem bytesAreLittleEndian : Obligations.BytesAreLittleEndian := by
  intro n v pre post
  refine ⟨toLe_length n v, fun i hi => toLe_getD hi v, ?_⟩
  have h := leNat_append pre (toLe n v) post
  rw [toLe_length] at h
  rw [h, leNat_toLe]

end Sys2Proof.Machine

/-! ### Places of the register map -/

namespace Sys2Proof.Machine.RegMap

/-- Two fields of a part that share a bit are the same field. -/
theorem eq_of_bit {p : Part} {f g : Fld} (hf : f ∈ fieldsOf p) (hg : g ∈ fieldsOf p) {i w j u b : Nat} (hi : i < f.count)
    (hw : w < f.words) (hj : j < g.count) (hu : u < g.words) (h1 : f.key i w ≤ b) (h2 : b < f.key i w + f.width)
    (h3 : g.key j u ≤ b) (h4 : b < g.key j u + g.width) : f = g := by
  by_contra hne
  have hok : apart f g = true ∨ apart g f = true := by
    cases p with
    | tsu => exact ok_mem ok_tsu hf hg hne
    | dbx => exact ok_mem ok_dbx hf hg hne
  rcases hok with h | h
  · exact apart_no (form_of hf) (form_of hg) h hi hw hj hu h1 h2 h3 h4
  · exact apart_no (form_of hg) (form_of hf) h hj hu hi hw h3 h4 h1 h2

/-- Settles O14: fields that share a bit are one field, and the elements and words of one field lie apart. -/
theorem registerFieldsDoNotOverlap : Obligations.RegisterFieldsDoNotOverlap := by
  intro p f g hf hg i w j u b hi hw hj hu h1 h2 h3 h4
  have hfg : f = g := eq_of_bit hf hg hi hw hj hu h1 h2 h3 h4
  subst hfg
  exact ⟨rfl, self_eq (form_of hf) hw hu h1 h2 h3 h4⟩

/-- A field of the map of a part is a field of that part. -/
theorem part_of {p : Part} {f : Fld} (h : f ∈ fieldsOf p) : f.part = p := by
  have hf := form_of h
  simp only [form, Bool.and_eq_true, beq_iff_eq] at hf
  exact hf.2

/-- Element `i` and word `w` are a place of the field `f` in the map of part `p`. -/
structure Place (p : Part) (f : Fld) (i w : Nat) : Prop where
  mem : f ∈ fieldsOf p
  elem : i < f.count
  word : w < f.words

theorem place_of_fieldsAt {p : Part} {off : Nat} {x : Fld × Nat × Nat} (h : x ∈ fieldsAt p off) :
    Place p x.1 x.2.1 x.2.2 :=
  have ⟨hf, hi, hw⟩ := fieldsAt_valid h
  ⟨hf, hi, hw⟩

theorem place_errlogHeld (p : Part) : Place p (F.errlogStatusHeld p) 0 0 := by
  cases p <;> exact ⟨by decide +kernel, by decide, by decide⟩

theorem place_errlogLost (p : Part) : Place p (F.errlogStatusLost p) 0 0 := by
  cases p <;> exact ⟨by decide +kernel, by decide, by decide⟩

theorem place_errlogHead (p : Part) {w : Nat} (h : w < 4) : Place p (F.errlogHeadEntry p) w 0 := by
  cases p <;> exact ⟨by decide +kernel, h, by decide⟩

theorem place_intStatus (p : Part) : Place p (F.intStatusStatus p) 0 0 := by
  cases p <;> exact ⟨by decide +kernel, by decide, by decide⟩

end Sys2Proof.Machine.RegMap

/-! ### What a write of one field leaves as it is -/

namespace Sys2Proof.Machine

open RegMap

/-- A write of one field of the register maps changes no other. -/
theorem State.rd_wr_of_ne (s : State) {p q : Part} {f g : Fld} {i w j u : Nat} (hf : Place p f i w) (hg : Place q g j u)
    (hne : f ≠ g) (v : Nat) : (s.wr g v j u).rd f i w = s.rd f i w := by
  apply State.rd_wr_ne
  by_cases hp : f.part = g.part
  · have hpq : p = q := (part_of hf.mem).symm.trans (hp.trans (part_of hg.mem))
    subst hpq
    exact .inr fun hk => hne (eq_of_key hf.mem hg.mem hf.elem hf.word hg.elem hg.word hk)
  · exact .inl hp

section
variable {p q : Part} {f : Fld} {i w : Nat}

/-- An interrupt changes the status of the interrupts alone. -/
theorem State.rd_interrupt (s : State) (hf : Place q f i w) (hne : f ≠ F.intStatusStatus p) (k : Nat) :
    (s.interrupt p k).rd f i w = s.rd f i w := by
  have hwr := fun v => s.rd_wr_of_ne hf (place_intStatus p) hne v
  unfold State.interrupt
  simp only
  split
  · rfl
  · split
    · cases p <;> simp [hwr]
    · exact hwr _

/-- Showing the error log changes its registers alone. -/
theorem State.rd_showErrlog (s : State) (hf : Place q f i w) (hheld : f ≠ F.errlogStatusHeld p)
    (hhead : f ≠ F.errlogHeadEntry p) : (s.showErrlog p).rd f i w = s.rd f i w := by
  have hwr := fun (t : State) {k} (hk : k < 4) v => t.rd_wr_of_ne hf (place_errlogHead p hk) hhead v
  simp only [State.showErrlog, List.foldl_cons, List.foldl_nil]
  rw [hwr _ (by decide), hwr _ (by decide), hwr _ (by decide), hwr _ (by decide),
    State.rd_wr_of_ne _ hf (place_errlogHeld p) hheld]

/-- An entry into the error log changes the registers of the log and the status of the interrupts alone. -/
theorem State.rd_logErr (s : State) (hf : Place q f i w) (hheld : f ≠ F.errlogStatusHeld p)
    (hlost : f ≠ F.errlogStatusLost p) (hhead : f ≠ F.errlogHeadEntry p) (hint : f ≠ F.intStatusStatus p)
    (code port arg : Nat) : (s.logErr p code port arg).rd f i w = s.rd f i w := by
  unfold State.logErr
  split
  · exact s.rd_wr_of_ne hf (place_errlogLost p) hlost _
  · simp only
    rw [State.rd_interrupt _ hf hint, State.rd_showErrlog _ hf hheld hhead]
    exact s.rd_modNode p _ (by intro n; rfl) f i w

end

/-! ### The set-up lock (R6, R354) -/

/-- The access codes of the fields that the set-up lock covers. -/
def Acc.underLock (a : Acc) : Prop := a = .rwl ∨ a = .rwlRot

/-- While the lock is set no write takes a field under it. -/
theorem Acc.not_underLock_of_takes {a : Acc} {rot own : Bool} (h : a.takes true rot own = true) : ¬ a.underLock := by
  cases a <;> simp_all [Acc.takes, Acc.underLock]

/-- Fields of which one alone is under the lock are two fields. -/
theorem ne_of_underLock {f g : Fld} (hf : f.acc.underLock) (hg : ¬ g.acc.underLock) : f ≠ g :=
  fun h => hg (h ▸ hf)

section
variable {p : Part} {f : Fld} {i w : Nat}

/-- An entry into the error log keeps every field under the lock: what it changes is read-only or RW1C. -/
theorem State.rd_logErr_of_underLock (s : State) (hf : Place p f i w) (hl : f.acc.underLock) (code port arg : Nat) :
    (s.logErr p code port arg).rd f i w = s.rd f i w := by
  have hheld : f ≠ F.errlogStatusHeld p :=
    ne_of_underLock hl (by cases p <;> simp [Acc.underLock, F.errlogStatusHeld])
  have hlost : f ≠ F.errlogStatusLost p :=
    ne_of_underLock hl (by cases p <;> simp [Acc.underLock, F.errlogStatusLost])
  have hhead : f ≠ F.errlogHeadEntry p :=
    ne_of_underLock hl (by cases p <;> simp [Acc.underLock, F.errlogHeadEntry])
  have hint : f ≠ F.intStatusStatus p :=
    ne_of_underLock hl (by cases p <;> simp [Acc.underLock, F.intStatusStatus])
  exact s.rd_logErr hf hheld hlost hhead hint code port arg

theorem State.rd_putField_of_underLock (s : State) (hf : Place p f i w) (hl : f.acc.underLock) {off : Nat}
    {x : Fld × Nat × Nat} (hx : x ∈ fieldsAt p off) (v : Nat) (rot own : Bool) :
    (s.putField v true rot own x).rd f i w = s.rd f i w := by
  unfold State.putField
  split
  case isTrue h => exact s.rd_wr_of_ne hf (place_of_fieldsAt hx) (ne_of_underLock hl (Acc.not_underLock_of_takes h)) _
  case isFalse => rfl

theorem State.rd_clearField_of_underLock (s : State) (hf : Place p f i w) (hl : f.acc.underLock) {off : Nat}
    {x : Fld × Nat × Nat} (hx : x ∈ fieldsAt p off) (v : Nat) : (s.clearField v x).rd f i w = s.rd f i w := by
  unfold State.clearField
  split
  case isTrue h => exact s.rd_wr_of_ne hf (place_of_fieldsAt hx) (ne_of_underLock hl (by simp [h, Acc.underLock])) _
  case isFalse => rfl

/-- A register write of a part whose lock is set keeps every field of the part under the lock, at the offset or not. -/
theorem State.rd_regWrite_of_locked (s : State) (hs : s.locked p = true) (hf : Place p f i w) (hl : f.acc.underLock)
    (off v : Nat) (rot own : Bool) : (s.regWrite p off v rot own).rd f i w = s.rd f i w := by
  have hput : (s.regPut p off v rot own).rd f i w = s.rd f i w := by
    simp only [State.regPut, hs]
    refine List.foldlRecOn (motive := fun t : State => t.rd f i w = s.rd f i w) _ _ ?_
      fun t ht x hx => (t.rd_putField_of_underLock hf hl hx v rot own).trans ht
    split
    · exact s.rd_logErr_of_underLock hf hl _ _ _
    · rfl
  exact List.foldlRecOn (motive := fun t : State => t.rd f i w = s.rd f i w) _ _ hput
    fun t ht x hx => (t.rd_clearField_of_underLock hf hl hx v).trans ht

end

@[simp] theorem State.putField_errlog (s : State) (v : Nat) (locked rot own : Bool) (x : Fld × Nat × Nat) (p : Part) :
    ((s.putField v locked rot own x).node p).errlog = (s.node p).errlog := by
  unfold State.putField
  split <;> simp

@[simp] theorem State.clearField_errlog (s : State) (v : Nat) (x : Fld × Nat × Nat) (p : Part) :
    ((s.clearField v x).node p).errlog = (s.node p).errlog := by
  unfold State.clearField
  split <;> simp

/-- The error log after a register write is the log after the record of a violation, if there is one. -/
theorem State.regWrite_errlog (s : State) (p : Part) (off v : Nat) (rot own : Bool) :
    ((s.regWrite p off v rot own).node p).errlog =
      ((if s.locked p && (fieldsAt p off).any (s.violates v rot) then s.logErr p 0x0001 noPort off else s).node p).errlog := by
  refine List.foldlRecOn (motive := fun t : State => (t.node p).errlog = _) _ _ ?_
    fun t ht x _ => (t.clearField_errlog v x p).trans ht
  exact List.foldlRecOn (motive := fun t : State => (t.node p).errlog = _) _ _ rfl
    fun t ht x _ => (t.putField_errlog v _ rot own x p).trans ht

/-- A field that a write violates is under the lock for the write's origin and would change. -/
theorem State.any_violates_iff (s : State) (v : Nat) (rot : Bool) (l : List (Fld × Nat × Nat)) :
    l.any (s.violates v rot) = true ↔ ∃ x ∈ l, (x.1.acc = .rwl ∨ (x.1.acc = .rwlRot ∧ rot = true)) ∧
      s.rd x.1 x.2.1 x.2.2 ≠ bits v x.1.lo x.1.width := by
  simp [State.violates]

/-- Settles O15: no step of the write touches a field under the lock, and the log grows by the record alone. -/
theorem lockedFieldsKeepTheirValues : Obligations.LockedFieldsKeepTheirValues := by
  intro p off v rot own s hs
  refine ⟨fun x hx hl => s.rd_regWrite_of_locked hs (place_of_fieldsAt hx) hl off v rot own, fun hroom => ?_⟩
  rw [State.regWrite_errlog, hs, Bool.true_and]
  simp only [State.any_violates_iff]
  split
  · rw [State.logErr_errlog, if_neg (Nat.not_le.2 hroom)]
  · exact (List.append_nil _).symm

end Sys2Proof.Machine
end

section
/-! SUPPORT. Proofs about machine time: the exported count, acquisition and tracking, the change of the time port, truncated
counts, the frame grid and the region repeaters. -/

namespace Sys2Proof.Machine

/-- A part out of reset answers what its meaning makes of the state. -/
theorem onLive_eq {p : Part} {s t : State} {f : State → State} (hr : Runs s p) (h : f s = t) : onLive p s f = .next t := by
  rw [onLive_live hr, h]

/-! ### The exported count (R24, R26, R30) -/

/-- The edge at or before a SUB is the later of the edges of the two SUBs. -/
theorem Node.edgeSub_runTo (n : Node) (k : Nat) : (n.runTo k).edgeSub = max n.edgeSub (k % 8192 / 256 * 256) := by
  simp only [Node.edgeSub, Node.runTo]
  omega

@[simp] theorem Node.runTo_lfn (n : Node) (k : Nat) : (n.runTo k).lfn = n.lfn := rfl
@[simp] theorem Node.runTo_frozen (n : Node) (k : Nat) : (n.runTo k).frozen = n.frozen := rfl
@[simp] theorem Node.runTo_fromHold (n : Node) (k : Nat) : (n.runTo k).fromHold = n.fromHold := rfl

@[simp] theorem State.timeState_runTo (s : State) (p : Part) (k : Nat) :
    (s.modNode p fun n => n.runTo k).timeState p = s.timeState p := s.rd_runTo p k _ 0 0

section
variable {s : State} {p : Part} (k : Nat)

theorem State.exported_runTo_of_valid (h : s.timeState p = 2) :
    (s.modNode p fun n => n.runTo k).exported p = ⟨s.lfn p, ((s.node p).runTo k).edgeSub⟩ := by
  simp [State.exported, State.lfn, h]

theorem State.exported_runTo_of_hold (h : s.timeState p = 3) :
    (s.modNode p fun n => n.runTo k).exported p = (s.node p).frozen := by
  simp [State.exported, h]

theorem State.exported_runTo_of_acquireFromHold (h : s.timeState p = 1) (hf : (s.node p).fromHold = true) :
    (s.modNode p fun n => n.runTo k).exported p = (s.node p).frozen := by
  simp [State.exported, h, hf]

theorem State.exported_runTo_of_noTime (h : s.timeState p = 0 ∨ (s.timeState p = 1 ∧ (s.node p).fromHold = false)) :
    (s.modNode p fun n => n.runTo k).exported p = ⟨0, 0⟩ := by
  rcases h with h | ⟨h, hf⟩
  · simp [State.exported, h]
  · simp [State.exported, h, hf]

/-- A read of _LFN_LO shows the count exported at its clock edge (R353). -/
theorem exec_lfnLoRead {l u : Nat} (hr : Runs s p) (ht : (s.modNode p fun n => n.runTo k).exported p = ⟨l, u⟩) :
    exec (.lfnLoRead p k) s = .next ((((((s.modNode p fun n => n.runTo k).wr (F.lfnLoLfnLo p) (l % 2 ^ 32)).wr
      (F.lfnHiLfnHi p) (l / 2 ^ 32)).wr (F.subSnapSub p) u).wr (F.subSnapFrac p) 0).emit p
        (.readData (F.lfnLoLfnLo p).base (l % 2 ^ 32))) := by
  show execLfnLoRead p k s = _
  refine onLive_eq hr ?_
  simp only [ht]

end

/-- Settles O2: the read shows the exported count, which the time state picks; SUB moves from edge to edge. -/
theorem timeReadsGiveTheExportedCount : Obligations.TimeReadsGiveTheExportedCount := by
  refine ⟨?valid, ?hold, ?acquire, ?noTime, ?edge, ?timeRead⟩
  case valid => exact fun p sub s hr h => exec_lfnLoRead sub hr (State.exported_runTo_of_valid sub h)
  case hold => exact fun p sub s hr h => exec_lfnLoRead sub hr (State.exported_runTo_of_hold sub h)
  case acquire => exact fun p sub s hr h hf => exec_lfnLoRead sub hr (State.exported_runTo_of_acquireFromHold sub h hf)
  case noTime => exact fun p sub s hr h => exec_lfnLoRead sub hr (State.exported_runTo_of_noTime sub h)
  case edge =>
    intro n sub _
    rw [Node.edgeSub_runTo, Node.edgeSub]
    omega
  case timeRead =>
    intro p ring seq sub f s hr ha
    show execTimeRead p ring seq sub s = _
    refine onLive_eq hr ?_
    exact State.withDesc_asked ha _

/-! ### Acquisition (R30, R31, R56) -/

@[simp] theorem State.closeEchoSet_node_acqFails (s : State) (p : Part) (port : Nat) (q : Part) :
    ((s.closeEchoSet p port).node q).acqFails = (s.node q).acqFails := by
  refine (State.node_modNode_proj _ _ _ _ (·.acqFails) (by intro n; rfl)).trans ?_
  simp only [State.wrI, State.wr_node_acqFails]

/-- A correction of the count, at once or by slew, is no failure. -/
@[simp] theorem State.correct_node_acqFails (s : State) (p : Part) (d : Int) (q : Part) :
    ((s.correct p d).node q).acqFails = (s.node q).acqFails := by
  refine State.node_modNode_proj _ _ _ _ (·.acqFails) fun n => ?_
  split
  · unfold Node.noteJump
    split <;> rfl
  · rfl

/-- Settles O4: the guards of the three rows of acquisition hold, and the eighth failure is not reached. -/
theorem acquisitionEntersValid : Obligations.AcquisitionEntersValid := by
  refine ⟨?start, ?set1, ?set2, ?set2Fails⟩
  case start =>
    intro p port s hr hst hv hfirst
    have hst' : (s.timeState p = 0 || s.timeState p = 3 : Bool) = true := by simpa using hst
    have hfirst' : (!(s.node p).altPort || s.timeState p = 3 || port ≠ preferredPort p ||
        !((otherParent p port).any fun q => s.parentValid p q) : Bool) = true := by
      rcases hfirst with h | h | h | h <;> simp [h]
    refine onLive_eq hr (if_pos ?_)
    rw [hst', hv, hfirst']
    rfl
  case set1 =>
    intro p s hr hst hset hdone hdisc
    exact onLive_eq hr (by simp [hst, hset, hdone, hdisc])
  case set2 =>
    intro p s hr hst hset hdone hdisc hpass
    exact onLive_eq hr (by simp [hst, hset, hdone, hdisc, hpass])
  case set2Fails =>
    intro p s hr hst hset hdone hdisc hfail hlt
    refine ⟨_, onLive_eq hr ?_, rfl, by simp⟩
    have hne : (s.node p).acqFails + 1 ≠ 8 := by omega
    simp [hst, hset, hdone, hdisc, hfail, hne]

/-! ### Loss and return of the time port (R31, R57, R58) -/

/-- A time-valid other parent is the port to move to. -/
theorem State.otherParent_filter_some {s : State} {p : Part} {port q : Nat} (h : otherParent p port = some q)
    (hq : s.parentValid p q = true) : (otherParent p port).filter (fun q => s.parentValid p q) = some q := by
  rw [h, Option.filter_some_pos hq]

/-- Without a time-valid other parent there is none. -/
theorem State.otherParent_filter_none {s : State} {p : Part} {port : Nat}
    (h : ∀ q, otherParent p port = some q → s.parentValid p q = false) :
    (otherParent p port).filter (fun q => s.parentValid p q) = none :=
  Option.filter_eq_none_iff.2 fun q hq => by simp [h q hq]

/-- A parent port that is not time-valid is lost. -/
theorem exec_parentTimeLoss {s : State} {p : Part} {port : Nat} (hr : Runs s p)
    (hport : (s.parentPorts p).contains port = true) (hv : s.parentValid p port = false) (psi : Nat) :
    exec (.parentTimeLoss p port psi) s = .next (s.parentLost p port psi) := by
  have hmem : port ∈ s.parentPorts p := by simpa using hport
  show execParentTimeLoss p port psi s = _
  exact onLive_eq hr (by simp [hv, hmem])

/-- A set with samples corrects the count by slew. -/
theorem State.track_of_small {s : State} {p : Part} {port : Nat} {a : StatAcc} (hn : a.n ≠ 0) (hm : a.mean.natAbs ≤ 64) :
    s.track p port a = s.modNode p fun n => { n with slew := -a.mean } := by
  simp [State.track, hn, hm]

/-- A mean beyond 40 ps is a health event besides. -/
theorem State.track_of_large {s : State} {p : Part} {port : Nat} {a : StatAcc} (hn : a.n ≠ 0) (hm : 64 < a.mean.natAbs) :
    s.track p port a = (((s.modNode p fun n => { n with slew := -a.mean }).wr (F.portTstatAlignErr p) 1 port).logErr p 0x14 port
      (ofSigned 32 a.mean)).penalise p 8 := by
  simp [State.track, hn, hm]

/-- Settles O5: one case for each branch of the loss, of the return and of a set boundary. -/
theorem timePortFollowsItsParents : Obligations.TimePortFollowsItsParents := by
  refine ⟨?move, ?hold, ?reacquire, ?leave, ?back, ?small, ?large, ?discarded, ?due, ?notDue⟩
  case move =>
    intro p port psi q s hr hport hv hst htp hother hq
    rw [exec_parentTimeLoss hr hport hv]
    simp [State.parentLost, State.lostInValid, hst, htp, State.otherParent_filter_some hother hq]
  case hold =>
    intro p port psi s hr hport hv hst htp hother
    rw [exec_parentTimeLoss hr hport hv]
    simp [State.parentLost, State.lostInValid, hst, htp, State.otherParent_filter_none hother]
  case reacquire =>
    intro p port psi q s hr hport hv hst hacq hother hq
    rw [exec_parentTimeLoss hr hport hv]
    simp [State.parentLost, hst, hacq, State.otherParent_filter_some hother hq]
  case leave =>
    intro p port psi s hr hport hv hst hacq hother
    rw [exec_parentTimeLoss hr hport hv]
    simp [State.parentLost, hst, hacq, State.otherParent_filter_none hother]
  case back =>
    intro p psi port s hr hst htp hother hq hsince
    show execTimePortReturn p psi s = _
    exact onLive_eq hr (by simp [htp, hst, hother, hq, hsince, -Nat.reducePow])
  case small =>
    intro p port s hr hst hce hdone hdisc htp hn hm
    exact onLive_eq hr (by simp [hst, hce, hdone, hdisc, htp, State.track_of_small hn hm])
  case large =>
    intro p port s hr hst hce hdone hdisc htp hn hm
    exact onLive_eq hr (by simp [hst, hce, hdone, hdisc, htp, State.track_of_large hn hm])
  case discarded =>
    intro p port s hr hst hce hdone hdisc
    exact onLive_eq hr (by simp [hst, hce, hdone, hdisc])
  case due =>
    intro p port q psi s hmove htp _
    refine ⟨_, rfl, fun hv => ?_⟩
    simp only [State.moveDue, hmove, htp]
    exact if_pos hv
  case notDue =>
    intro p s hmove
    simp only [State.moveDue, hmove]

/-! ### Truncated counts (R29) -/

/-- Two's complement of 32 bits lies within 2^31 of 0 and keeps the residue. -/
theorem toSigned_ofSigned (i : Int) : toSigned 32 (ofSigned 32 i) = (i + 2 ^ 31) % 2 ^ 32 - 2 ^ 31 := by
  unfold toSigned ofSigned
  split <;> omega

/-- Settles O16: the extended count is the own one and the signed difference of the low halves. -/
theorem truncatedCountsExtend : Obligations.TruncatedCountsExtend := by
  refine ⟨fun t C L ht hL hlo hhi => ?_, fun t C ht hC => ?_⟩
  · rw [extend32, toSigned_ofSigned]
    omega
  · have h : ofSigned 32 ((t : Int) - (C % 2 ^ 32 : Nat)) = (((t : Int) - (C % 2 ^ 32 : Nat)) % 2 ^ 32).toNat := rfl
    rw [← h, extend32, toSigned_ofSigned]
    omega

/-! ### The frame grid (R32) -/

theorem State.isTick_iff {s : State} (hg : s.gridValid = true) (l : Nat) :
    s.isTick l = true ↔ s.gridOrigin ≤ l ∧ (l - s.gridOrigin) % s.frameLen = 0 := by
  simp [State.isTick, hg]

/-- From the origin on, the tick that opens a frame lies whole frames from the origin. -/
theorem State.tickOf_eq {s : State} (hg : s.gridValid = true) {l : Nat} (h : s.gridOrigin ≤ l) :
    s.tickOf l = l - (l - s.gridOrigin) % s.frameLen := by
  simp [State.tickOf, hg, h]

/-- Settles O20: by the division of the distance from the origin by the frame length. -/
theorem frameTicksFollowTheGrid : Obligations.FrameTicksFollowTheGrid := by
  intro s l hg
  refine ⟨State.isTick_iff hg l, fun h => ?_, fun h => ?_⟩
  · have hlen : (l - s.gridOrigin) % s.frameLen < s.frameLen := Nat.mod_lt _ (Nat.two_pow_pos _)
    have hle : (l - s.gridOrigin) % s.frameLen ≤ l - s.gridOrigin := Nat.mod_le _ _
    have hdist : s.tickOf l - s.gridOrigin = (l - s.gridOrigin) - (l - s.gridOrigin) % s.frameLen := by
      rw [State.tickOf_eq hg h]
      omega
    have htick : s.tickOf l ≤ l ∧ s.gridOrigin ≤ s.tickOf l ∧ l < s.tickOf l + s.frameLen := by
      rw [State.tickOf_eq hg h]
      omega
    obtain ⟨hl, ho, hf⟩ := htick
    refine ⟨(State.isTick_iff hg _).2 ⟨ho, ?_⟩, hl, hf⟩
    rw [hdist]
    exact Nat.sub_mod_eq_zero_of_mod_eq (Nat.mod_mod _ _).symm
  · exact Bool.eq_false_iff.2 fun ht => absurd ((State.isTick_iff hg l).1 ht).1 (Nat.not_le.2 h)

/-! ### Region repeaters (R39, R40) -/

/-- The fine delay of a first measurement is the remainder, where it is one of the 2,048 steps. -/
theorem fineAfter_of_first {g : RegionRt} (hg : g.measured = false) (rest free : Nat) :
    (rest < 2048 → fineAfter g rest free = rest) ∧ fineAfter g rest free < 2048 := by
  simp only [fineAfter, hg, Bool.not_false, if_true]
  split <;> omega

/-- The fine delay of a later measurement lies within one step of the one before, and stays where it is right. -/
theorem fineAfter_of_later {g : RegionRt} (hg : g.measured = true) (hf : g.fine < 2048) (rest free : Nat) :
    fineAfter g rest free ≤ g.fine + 1 ∧ g.fine ≤ fineAfter g rest free + 1 ∧ fineAfter g rest free < 2048 ∧
      (rest = g.fine → fineAfter g rest free = rest) := by
  simp only [fineAfter, hg, Bool.not_true, Bool.false_eq_true, if_false]
  split
  · split
    · omega
    · split <;> omega
  · omega

/-- Settles O23: the marker's fold is the model's own; the fine delay of a measurement is what `fineAfter` makes of the
remainder. -/
theorem regionRepeatersHoldTheCount : Obligations.RegionRepeatersHoldTheCount := by
  refine ⟨?marker, ?noMarker, ?first, ?later⟩
  case marker =>
    intro s hr hl
    exact onLive_eq hr (by simp [hl])
  case noMarker =>
    intro s hr hl
    exact onLive_eq hr (by simp [hl])
  case first =>
    intro region roundTrip depth s hr hdepth hg
    obtain ⟨heq, hlt⟩ := fineAfter_of_first hg ((roundTrip / 2 + s.parentComp region) % 4096) s.draw.1
    refine ⟨_, _, rfl, heq, hlt, ?_⟩
    show execRegionRemeasure region roundTrip s = _
    exact onLive_eq hr (by simp [hdepth, hg])
  case later =>
    intro region roundTrip depth s hr hdepth hg hlfn hf
    obtain ⟨hup, hdown, hlt, heq⟩ := fineAfter_of_later hg hf
      ((if roundTrip / 2 + s.parentComp region < (s.region region).comp then (s.region region).comp - 1
        else if (s.region region).comp < roundTrip / 2 + s.parentComp region then (s.region region).comp + 1
        else (s.region region).comp) % 4096) s.draw.1
    refine ⟨_, _, rfl, hup, hdown, hlt, heq, ?_⟩
    show execRegionRemeasure region roundTrip s = _
    exact onLive_eq hr (by simp [hdepth, hg, Nat.not_lt.2 hlfn])

end Sys2Proof.Machine
end

section
/-! SUPPORT. Proofs about the croziers at a TSU: admission, staging, firing and the end of entries, the types that are no
launch, aborts, the frame tick, and the tables of scope, grid and peristomes. -/

namespace Sys2Proof.Machine

/-! ### Admission (R124, R130) -/

/-- A first copy, of a key that the TSU does not hold, is judged at its count of arrival. -/
theorem exec_crozierAdmission_first {s : State} {cz : Crozier} (hr : Runs s .tsu) (hidle : czIdle cz = false)
    (hk : s.knownCopy cz = none) (port sub : Nat) :
    exec (.crozierAdmission port cz sub) s = .next (s.admitCz (port % 2) cz ⟨s.tsu.lfn, sub % 8192⟩) := by
  show execCrozierAdmission port cz sub s = _
  exact onLive_eq hr (by simp [hidle, hk])

/-- What R130 checks of a first copy before its type: form, target, time and range. -/
structure CzInRange (s : State) (c : Crozier) (now : MTime) : Prop where
  form : czMalformed c = false
  target : s.targetsMe c = true
  valid : s.timeValid .tsu = true
  lead : mtDiff ⟨extend32 c.fireLfn now.lfn, c.fireSub % 8192⟩ now ≤ s.maxLeadUnits

section
variable {s : State} {c : Crozier} {now : MTime} (port : Nat)

/-- A first copy in range that is no abort notes its margin and is judged further. -/
theorem State.admitCz_of_not_abort (h : CzInRange s c now) (ht : c.ctype ≠ 3) :
    s.admitCz port c now = (s.noteMargin (mtDiff ⟨extend32 c.fireLfn now.lfn, c.fireSub % 8192⟩ now)).admitLater port c
      ⟨extend32 c.fireLfn now.lfn, c.fireSub % 8192⟩ (mtDiff ⟨extend32 c.fireLfn now.lfn, c.fireSub % 8192⟩ now) := by
  simp [State.admitCz, h.form, h.target, h.valid, Int.not_lt.2 h.lead, ht]

/-- An abort in range of the channel's generation is kept for the later of its count and the present one. -/
theorem State.admitCz_of_abort (h : CzInRange s c now) (ht : c.ctype = 3)
    (hg : s.gen .tsu (hIndex c.handle) = hGen c.handle) :
    s.admitCz port c now = s.modT fun t => { t with aborts := t.aborts ++ [
      { cz := c
        port := port
        act := if mtBefore ⟨extend32 c.fireLfn now.lfn, c.fireSub % 8192⟩ now = true then now
          else ⟨extend32 c.fireLfn now.lfn, c.fireSub % 8192⟩ }] } := by
  simp [State.admitCz, h.form, h.target, h.valid, Int.not_lt.2 h.lead, ht, hg]

end

section
variable {s : State} {c : Crozier} {fire : MTime} {m : Int} (port : Nat)

/-- Below the guard a first copy is refused, whatever else holds (R130, cause 1). -/
theorem State.admitLater_of_belowGuard (h : m < s.guardUnits) :
    s.admitLater port c fire m = s.refuseCz c fire.lfn 0x1 := by
  simp [State.admitLater, h]

/-- With every entry of the channel table in its cache a look-up changes nothing (R215). -/
theorem State.cacheLook_of_fits (h : s.t.chans.length ≤ 4096) (idx : Nat) : s.cacheLook idx = s := by
  simp [State.cacheLook, h]

/-- A launch for a bound channel of its generation takes the lowest free entry (R129, R130). -/
theorem State.admitLater_of_launch {e : Nat} (hguard : s.guardUnits ≤ m) (ht : c.ctype = 1)
    (hg : s.gen .tsu (hIndex c.handle) = hGen c.handle) (hb : (s.chanOf c.handle).any (fun ch => ch.state == 2) = true)
    (hl : s.t.chans.length ≤ 4096) (hp : s.is F.thealthRolePending = false) (hf : s.freeEntry? = some e) :
    s.admitLater port c fire m = s.arm port c fire e := by
  simp [State.admitLater, State.cacheLook_of_fits hl, Int.not_lt.2 hguard, ht, hg, hb, hp, hf]

end

/-! ### Staging, fires and ends of entries (R129, R131 to R134) -/

/-- An entry has room where its words are staged already or fit. -/
theorem not_lacksRoom {k : Nat} {fits : Bool} (h : 3 ≤ k ∨ fits = true) : ¬ (k < 3 ∧ fits = false) := by
  rintro ⟨hk, hfits⟩
  rcases h with h | h
  · omega
  · simp [hfits] at h

/-- No room for the words of an entry: its regions hold too many, or one of them reports its buffer full. -/
theorem full_eq_true {fits busy : Bool} (h : fits = false ∨ busy = true) : (!fits || busy) = true := by
  rcases h with h | h <;> simp [h]

/-- At its fire edge, in VALID, covered by no abort and outside a compute-domain reset, a launch fires; it is missed besides
where a region of its targets is not valid (R132). -/
theorem exec_launchFire_atEdge {s : State} {entry : Nat} {a : ArmEntry} (hr : Runs s .tsu) (hlive : s.liveEntry entry 1 = some a)
    (hlfn : (fireEdge a.fire).lfn = s.tsu.lfn) (hcov : s.abortCovers a = false) (hack : s.t.cmpAck = false)
    (hv : s.timeValid .tsu = true) (hroom : 3 ≤ a.state ∨ s.stageFits a = true) :
    exec (.launchFire entry) s = .next (if (a.targets.any fun t => !s.regionValid (s.regionOf t)) = true
      then (((s.fireEntry entry a).noteFires entry a).entryFired entry).missLaunch a.cz a.fire.lfn 0x5
      else ((s.fireEntry entry a).noteFires entry a).entryFired entry) := by
  show execLaunchFire entry s = _
  exact onLive_eq hr (by simp [hlive, hlfn, hcov, hack, hv, not_lacksRoom hroom])

/-- Settles O37: each clause is one path through the checks of its row, in their order. -/
theorem croziersAreAdmittedAndStaged : Obligations.CroziersAreAdmittedAndStaged := by
  refine ⟨?idle, ?known, ?launch, ?belowGuard, ?abort, ?stage, ?stageMissed, ?stageWaits, ?fire, ?fireInvalid, ?fireLate,
    ?cancelled, ?inReset, ?freeLaunch, ?freeOther, ?retired⟩
  case idle =>
    intro port sub cz s hr hidle
    show execCrozierAdmission port cz sub s = _
    exact onLive_eq hr (by simp [hidle])
  case known =>
    intro port sub cz t s hr hidle hk
    show execCrozierAdmission port cz sub s = _
    exact onLive_eq hr (by simp [hidle, hk])
  case launch =>
    intro port sub e cz m s hr hidle hk hform htgt hv hm hlead ht hguard hg hb hl hp hf
    subst hm
    have hin : CzInRange s cz ⟨s.tsu.lfn, sub % 8192⟩ := ⟨hform, htgt, hv, hlead⟩
    rw [exec_crozierAdmission_first hr hidle hk,
      State.admitCz_of_not_abort _ hin (by simp [ht]),
      State.admitLater_of_launch _ hguard ht hg hb hl hp hf]
  case belowGuard =>
    intro port sub cz m s hr hidle hk hform htgt hv hm hlead ht hguard
    subst hm
    have hin : CzInRange s cz ⟨s.tsu.lfn, sub % 8192⟩ := ⟨hform, htgt, hv, hlead⟩
    rw [exec_crozierAdmission_first hr hidle hk, State.admitCz_of_not_abort _ hin ht,
      State.admitLater_of_belowGuard _ hguard]
  case abort =>
    intro port sub cz m s hr hidle hk hform htgt hv hm hlead ht hg
    subst hm
    have hin : CzInRange s cz ⟨s.tsu.lfn, sub % 8192⟩ := ⟨hform, htgt, hv, hlead⟩
    rw [exec_crozierAdmission_first hr hidle hk, State.admitCz_of_abort _ hin ht hg]
  case stage =>
    intro entry full a s hr hdue ⟨hfits, hfree⟩
    show execLaunchStage entry full s = _
    refine onLive_eq hr ?_
    simp only [hdue, hfits, hfree, Bool.not_true, Bool.or_self, Bool.not_false, if_true]
  case stageMissed =>
    intro entry full a s hr hdue ht hfull
    show execLaunchStage entry full s = _
    refine onLive_eq hr ?_
    simp only [hdue, full_eq_true hfull, ht, Bool.not_true, Bool.false_eq_true, if_false, if_true]
  case stageWaits =>
    intro entry full a s hr hdue ht hfull
    show execLaunchStage entry full s = _
    refine onLive_eq hr ?_
    simp only [hdue, full_eq_true hfull, if_neg ht, Bool.not_true, Bool.false_eq_true, if_false]
  case fire =>
    intro entry a s hr hlive hlfn hcov hack hv hroom hvalid
    rw [exec_launchFire_atEdge hr hlive hlfn hcov hack hv hroom, if_neg (Bool.eq_false_iff.1 hvalid)]
  case fireInvalid =>
    intro entry a s hr hlive hlfn hcov hack hv hroom hinvalid
    rw [exec_launchFire_atEdge hr hlive hlfn hcov hack hv hroom, if_pos hinvalid]
  case fireLate =>
    intro entry a s hr hlive hlfn hcov hack hlate
    show execLaunchFire entry s = _
    exact onLive_eq hr (by simp [hlive, hcov, hack, hlate, Nat.not_lt.2 hlfn])
  case cancelled =>
    intro entry a s hr hlive hlfn hcov
    show execLaunchFire entry s = _
    exact onLive_eq hr (by simp [hlive, hlfn, hcov])
  case inReset =>
    intro entry a s hr hlive hlfn hcov hack
    show execLaunchFire entry s = _
    exact onLive_eq hr (by simp [hlive, hlfn, hcov, hack])
  case freeLaunch =>
    intro entry a s hr ha hst ht hend
    show execArmEntryFree entry s = _
    exact onLive_eq hr (by simp [ha, hst, ht, hend])
  case freeOther =>
    intro entry a s hr ha hst ht hend
    show execArmEntryFree entry s = _
    exact onLive_eq hr (by simp [ha, hst, ht, hend])
  case retired =>
    intro s hr
    show execRetiredKeyExpiry s = _
    exact onLive_eq hr rfl

/-! ### The types that are no launch (R137, R138) -/

/-- Settles O38: a due entry of each type takes its effect, and the tick is the composition of its own steps. -/
theorem otherCroziersAct : Obligations.OtherCroziersAct := by
  refine ⟨?token, ?tokenVoid, ?event, ?eventVoid, ?fireOther, ?epoch, ?setEpoch, ?frequency, ?destroy, ?abort, ?tick, ?noTick,
    ?closeStep⟩
  case token =>
    intro entry a s hr hlive hlfn hcov hv
    show execTokenApply entry s = _
    exact onLive_eq hr (by simp [hlive, Nat.not_lt.2 hlfn, hcov, hv])
  case tokenVoid =>
    intro entry a s hr hlive hlfn hcov hv
    show execTokenApply entry s = _
    exact onLive_eq hr (by simp [hlive, Nat.not_lt.2 hlfn, hcov, hv])
  case event =>
    intro entry a s hr hlive hlfn hcov hv
    show execTimeEventFire entry s = _
    exact onLive_eq hr (by simp [hlive, Nat.not_lt.2 hlfn, hcov, hv])
  case eventVoid =>
    intro entry a s hr hlive hlfn hcov hv
    show execTimeEventFire entry s = _
    exact onLive_eq hr (by simp [hlive, Nat.not_lt.2 hlfn, hcov, hv])
  case fireOther =>
    intro entry a s hack hlfn hroom
    simp [State.fireOther, hack, not_lacksRoom hroom, Nat.not_lt.2 hlfn]
  case epoch =>
    intro entry a s hr hdue hcov hv
    show execEpochApply entry s = _
    exact onLive_eq hr (by simp [hdue, hcov, hv])
  case setEpoch =>
    intro c step e _
    refine ⟨rfl, List.mem_cons_self, fun x hx hlt => List.mem_cons_of_mem _ ?_⟩
    exact List.mem_filter.2 ⟨hx, by simpa using hlt⟩
  case frequency =>
    intro entry lvlReq a s hr hdue hv htick
    have hcap : s.takeCap entry = (s.wr F.lvlCapCap (a.cz.payload % 16)).entryFired entry := by
      simp [State.takeCap, hdue, hv, htick]
    show execFrequencyCrozierFire entry lvlReq s = _
    exact onLive_eq hr (by simp [hdue, hv, htick, hcap])
  case destroy =>
    intro x s hr hdue hcode
    show execAbortAct s = _
    exact onLive_eq hr (by simp only [hdue, if_pos hcode])
  case abort =>
    intro x s hr hdue hcode
    show execAbortAct s = _
    exact onLive_eq hr (by simp only [hdue, if_neg hcode])
  case tick =>
    intro lvlReq s hr htick hst
    show execFrameTick lvlReq s = _
    exact onLive_eq hr (by simp [htick, hst])
  case noTick =>
    intro lvlReq s hr h
    show execFrameTick lvlReq s = _
    refine onLive_eq hr ?_
    rcases h with h | h <;> simp [h]
  case closeStep =>
    intro o s h
    simp [State.closeStep, h]

/-! ### Scope, grid, margin and peristomes (R33, R121, R139, R140) -/

/-- The exponent of a legal frame length is found again from the length. -/
theorem find_frameLog2 {k : Nat} (hlo : 3 ≤ k) (hhi : k ≤ 20) :
    (List.range 21).find? (fun j => 3 ≤ j && 2 ^ j == 2 ^ k) = some k := by
  rw [List.find?_range_eq_some]
  refine ⟨by simp [hlo], by simp; omega, fun j hj => ?_⟩
  have hne : 2 ^ j ≠ 2 ^ k := (Nat.pow_lt_pow_right (by decide) hj).ne
  simp [hne]

/-- A grid is not refused where it lies far enough ahead, or a spare takes over a running one (R33, R267). -/
theorem gridRefusal_eq_false {s : State} {origin : Nat} (h : s.tsu.lfn + 1024 ≤ origin ∨ s.is F.thealthRolePending = true) :
    (origin < s.tsu.lfn + 1024 && !s.is F.thealthRolePending : Bool) = false := by
  rcases h with h | h
  · simp [Nat.not_lt.2 h]
  · simp [h]

/-- Settles O39: every load stores what its checks let pass; of the grid, by whether it changes. -/
theorem tsuTablesAreLoaded : Obligations.TsuTablesAreLoaded := by
  refine ⟨?peri, ?periOut, ?poll, ?scope, ?noRole, ?newGrid, ?sameGrid, ?gridRefused, ?margin⟩
  case peri =>
    intro index source arg s hr hi hsrc
    show execPeristomeConfig index source arg s = _
    exact onLive_eq hr (by simp [hi, hsrc])
  case periOut =>
    intro index source arg s hr h
    show execPeristomeConfig index source arg s = _
    refine onLive_eq hr ?_
    rcases h with h | h <;> simp [Nat.not_lt.2 h]
  case poll =>
    intro s hr hlfn hon
    show execPeristomePoll s = _
    refine onLive_eq hr ?_
    simp only [hon, hlfn]
    rfl
  case scope =>
    intro tbl pend r s hr hrole
    show execScopeTableLoad tbl pend s = _
    refine onLive_eq hr ?_
    simp only [hrole, Option.map_some]
  case noRole =>
    intro tbl pend s hr hrole
    show execScopeTableLoad tbl pend s = _
    refine onLive_eq hr ?_
    simp only [hrole, Option.map_none]
  case newGrid =>
    intro k origin s hr hlo hhi hahead hnew
    have hchanged : (!(s.gridValid && s.rd F.frameCfgFLog2 == k && s.gridOrigin == origin)) = true := by
      rcases hnew with h | h | h <;> simp [h]
    show execFrameGridLoad (2 ^ k) origin s = _
    refine onLive_eq hr ?_
    simp only [find_frameLog2 hlo hhi, gridRefusal_eq_false hahead, hchanged]
    rfl
  case sameGrid =>
    intro k origin s hr hlo hhi hahead hvalid hlen horigin
    show execFrameGridLoad (2 ^ k) origin s = _
    refine onLive_eq hr ?_
    simp only [find_frameLog2 hlo hhi, gridRefusal_eq_false hahead, hvalid, hlen, horigin, beq_self_eq_true]
    rfl
  case gridRefused =>
    intro k origin s hr hlo hhi hnear hrole
    show execFrameGridLoad (2 ^ k) origin s = _
    refine onLive_eq hr ?_
    simp [find_frameLog2 hlo hhi, hnear, hrole]
  case margin =>
    intro v s hr hv
    show execClrMargin v s = _
    exact onLive_eq hr (if_pos hv)

end Sys2Proof.Machine
end

section
/-! SUPPORT. Proofs about the words of the completion bus, by their kinds. -/

namespace Sys2Proof.Machine

section
variable {s : State} {w : CbWord} {stamp now : MTime}

/-! ### Wait-begins (R253) -/

section
variable {n : WaitNode}
  (hn : n = ⟨w.target, w.queue, w.handle, w.wRole, w.wTarget, w.wQueue, stamp, none⟩)
include hn

/-- The node of a queue that waits for nothing yet is held, while there is room for it. -/
theorem State.waitBegin_of_room (hfind : s.liveNodes.find? (fun x => x.target == w.target && x.queue == w.queue) = none)
    (hroom : s.liveNodes.length < 4096) :
    s.waitBegin w stamp = (s.modT fun t => { t with waits := t.waits ++ [n] }).showNodes := by
  subst hn
  simp [State.waitBegin, hfind, Nat.not_le.2 hroom]

/-- A queue that waits already ends that wait for another one, and not for the same. -/
theorem State.waitBegin_of_waiting {x : WaitNode}
    (hfind : s.liveNodes.find? (fun x => x.target == w.target && x.queue == w.queue) = some x) :
    s.waitBegin w stamp = if { x with since := stamp } = n then s else s.modT fun t =>
      { t with waits := t.waits.map (fun y => if y = x then { x with ended := some stamp } else y) ++ [n] } := by
  subst hn
  simp only [State.waitBegin, hfind]

end

/-- The 4,097th node is not held: it is counted, and its target is marked. -/
theorem State.waitBegin_of_full (hfind : s.liveNodes.find? (fun x => x.target == w.target && x.queue == w.queue) = none)
    (hfull : 4096 ≤ s.liveNodes.length) :
    s.waitBegin w stamp = (s.bump F.fltWaitFullCount).modT fun t =>
      { t with overflow := if t.overflow.contains w.target = true then t.overflow else t.overflow ++ [w.target] } := by
  simp only [State.waitBegin, hfind, if_pos hfull]

/-! ### Words by kind (R327) -/

variable (region : Nat) (hr : Runs s .tsu)
include hr

/-- During an acknowledged reset of the compute domain a word is discarded (R239). -/
theorem exec_completionWord_inReset (hack : s.t.cmpAck = true) : exec (.completionWord region stamp w now) s = .next s := by
  show execCompletionWord region stamp w now s = _
  exact onLive_eq hr (by simp [hack])

variable (hack : s.t.cmpAck = false)
include hack

theorem exec_completionWord_waitBegin (hk : w.kind = 3) :
    exec (.completionWord region stamp w now) s = .next ((s.noteLate stamp now).waitBegin w stamp) := by
  show execCompletionWord region stamp w now s = _
  exact onLive_eq hr (by simp [hack, hk])

/-- A word that names a step that misses its launch: by kind, done, fault or layer not ready (R154, R257, R327). -/
theorem exec_completionWord_step {o : OpenStep} (hk : w.kind = 1 ∨ w.kind = 6 ∨ (w.kind = 2 ∧ w.handle ≠ 0))
    (hstep : ((s.wordStep w).filter fun o => o.missing.contains (256 * w.entry + w.target)) = some o) :
    exec (.completionWord region stamp w now) s = .next (
      if w.kind = 1 then s.launchDone o (256 * w.entry + w.target) stamp
      else if w.kind = 2 then s.namedFault o
      else if o.sent = true then s else s.setStep { o with status := orSt o.status stWeight }) := by
  show execCompletionWord region stamp w now s = _
  refine onLive_eq hr ?_
  simp only [hack, hstep]
  rcases hk with hk | hk | ⟨hk, hh⟩
  · simp [hk]
  · simp [hk]
  · simp [hk, hh]

/-- A word that names a step: without an open step that misses the launch it is stale (R257). -/
theorem exec_completionWord_stale (hk : w.kind = 1 ∨ w.kind = 6 ∨ (w.kind = 2 ∧ w.handle ≠ 0))
    (hstep : ((s.wordStep w).filter fun o => o.missing.contains (256 * w.entry + w.target)) = none) :
    exec (.completionWord region stamp w now) s = .next (s.bump F.busCbStaleCount) := by
  show execCompletionWord region stamp w now s = _
  refine onLive_eq hr ?_
  simp only [hack, hstep]
  rcases hk with hk | hk | ⟨hk, hh⟩
  · simp [hk]
  · simp [hk]
  · simp [hk, hh]

/-- A word of no kind of Table 15.5 changes nothing. -/
theorem exec_completionWord_noKind (hk : w.kind = 0 ∨ 7 < w.kind) :
    exec (.completionWord region stamp w now) s = .next s := by
  have h1 : w.kind ≠ 1 := by omega
  have h2 : w.kind ≠ 2 := by omega
  have h6 : w.kind ≠ 6 := by omega
  show execCompletionWord region stamp w now s = _
  refine onLive_eq hr ?_
  simp only [hack, Bool.false_eq_true, if_false]
  split
  case h_5 => simp [h1, h2, h6]
  all_goals omega

end

/-- Settles O56: by the word's kind; a wait-begin by what its queue waits for, and a word that names a step by whether that step
misses the launch. -/
theorem completionWordsFollowTheirKinds : Obligations.CompletionWordsFollowTheirKinds := by
  refine ⟨?inReset, ?waitBegin, ?waitFull, ?waitSame, ?waitNext, ?waitEnd, ?killAck, ?read, ?suspect, ?done, ?fault, ?layer,
    ?layerSent, ?noKind, ?stale⟩
  case inReset => exact fun region stamp now w s hr hack => exec_completionWord_inReset region hr hack
  case waitBegin =>
    intro region stamp now w s hr hack hk hfind hroom
    rw [exec_completionWord_waitBegin region hr hack hk, State.waitBegin_of_room rfl hfind hroom]
  case waitFull =>
    intro region stamp now w s hr hack hk hfind hfull
    rw [exec_completionWord_waitBegin region hr hack hk, State.waitBegin_of_full hfind hfull]
  case waitSame =>
    intro region stamp now w x s hr hack hk hfind hsame
    rw [exec_completionWord_waitBegin region hr hack hk, State.waitBegin_of_waiting rfl hfind, if_pos hsame]
  case waitNext =>
    intro region stamp now w x s hr hack hk hfind hother
    rw [exec_completionWord_waitBegin region hr hack hk, State.waitBegin_of_waiting rfl hfind, if_neg hother]
  case waitEnd =>
    intro region stamp now w s hr hack hk
    show execCompletionWord region stamp w now s = _
    exact onLive_eq hr (by simp [hack, hk])
  case killAck =>
    intro region stamp now w s hr hack hk
    show execCompletionWord region stamp w now s = _
    exact onLive_eq hr (by simp [hack, hk])
  case read =>
    intro region stamp now w s hr hack hk
    show execCompletionWord region stamp w now s = _
    exact onLive_eq hr (by simp [hack, hk])
  case suspect =>
    intro region stamp now w s hr hack hk hh
    show execCompletionWord region stamp w now s = _
    exact onLive_eq hr (by simp [hack, hk, hh])
  case done =>
    intro region stamp now w o s hr hack hstep hk
    rw [exec_completionWord_step region hr hack (.inl hk) hstep, if_pos hk]
  case fault =>
    intro region stamp now w o s hr hack hstep hk hh
    have hk1 : w.kind ≠ 1 := by omega
    rw [exec_completionWord_step region hr hack (.inr (.inr ⟨hk, hh⟩)) hstep, if_neg hk1, if_pos hk]
  case layer =>
    intro region stamp now w o s hr hack hstep hk hsent
    rw [exec_completionWord_step region hr hack (.inr (.inl hk)) hstep]
    simp [hk, hsent]
  case layerSent =>
    intro region stamp now w o s hr hack hstep hk hsent
    rw [exec_completionWord_step region hr hack (.inr (.inl hk)) hstep]
    simp [hk, hsent]
  case noKind => exact fun region stamp now w s hr hack hk => exec_completionWord_noKind region hr hack hk
  case stale => exact fun region stamp now w s hr hack hstep hk => exec_completionWord_stale region hr hack hk hstep

end Sys2Proof.Machine
end

section
/-! SUPPORT. Proofs about edge measurement and alignment: the echo exchange, the measurement sets, the close pages and the
closure of the loops. -/

namespace Sys2Proof.Machine

/-! ### The echo exchange (R52, R53) -/

section
variable {s : State} {p : Part} {port : Nat}

/-- Without an open exchange a returned t4 closes none. -/
theorem State.echoReturn_of_nil (h : (s.port p port).echo = []) (t4 : Nat) : s.echoReturn p port t4 = s := by
  simp [State.echoReturn, h]

/-- Where none has closed yet, a new t4 closes the oldest open exchange (log 137). -/
theorem State.echoReturn_of_first {a1 a2 a3 t4 : Nat} {l : List (Nat × Nat × Nat)} (h : (s.port p port).echo = (a1, a2, a3) :: l)
    (hgap : (s.port p port).echoGap = none) (ht4 : t4 ≠ (s.port p port).seenT4) :
    s.echoReturn p port t4 = (s.echoSample p port
      (2 * stampDiff a2 a1 - (stampDiff t4 a1 - stampDiff a3 a2) - s.asymApplied p port)
      (2 * (stampDiff t4 a1 - stampDiff a3 a2))).modPort p port fun t =>
        { t with echo := t.echo.drop 1, echoGap := some (stampDiff t4 a3) } := by
  simp [State.echoReturn, h, hgap, ht4, echoClosed]

/-- A child end closes what the returned t4 closes, opens an exchange with the block and answers it. -/
theorem exec_echoBlockReceived (hr : Runs s p) (hchild : s.childEnd p port = true) (hecho : s.echoing p port = true)
    (t1 t2 t3 t4 : Nat) :
    exec (.echoBlockReceived p port t1 t2 t3 t4) s = .next (((s.echoReturn p port t4).modPort p port fun t =>
      { t with echo := t.echo ++ [(t1, t2, t3)], answer := (t1, t2, t3), seenT4 := t4 }).emit p
        (.echoReply port (ofSigned 32 (stampDiff t3 t2)) t1)) := by
  show execEchoBlockReceived p port t1 t2 t3 t4 s = _
  exact onLive_eq hr (by simp [hchild, hecho])

end

/-- Settles O3: what the returned t4 closes, by whether an exchange is open; the parent end's set, by whether it is full. -/
theorem echoExchangeMeasuresTheHop : Obligations.EchoExchangeMeasuresTheHop := by
  refine ⟨?block, ?firstBlock, ?sample, ?reply, ?full, ?notFull⟩
  case block => exact fun p port t1 t2 t3 t4 s hr hchild hecho => exec_echoBlockReceived hr hchild hecho t1 t2 t3 t4
  case firstBlock =>
    intro p port t1 t2 t3 t4 s hr hchild hecho hnil
    rw [exec_echoBlockReceived hr hchild hecho, State.echoReturn_of_nil hnil]
  case sample =>
    intro p port t1 t2 t3 t4 a1 a2 a3 l s hr hchild hecho hopen hgap ht4
    rw [exec_echoBlockReceived hr hchild hecho, State.echoReturn_of_first hopen hgap ht4]
  case reply =>
    intro p port t1 turn t4 s hr hparent hecho
    show execEchoReplyReceived p port t1 turn t4 s = _
    exact onLive_eq hr (by simp [hparent, hecho])
  case full => exact fun p port s hdone => if_pos hdone
  case notFull => exact fun p port s hdone => if_neg (Bool.eq_false_iff.1 hdone)

/-! ### Measurement sets (R47 to R51) -/

section
variable {s : State} {p : Part}

/-- The set-up of a measurement set, as a write of _TDC_CTRL stores it (R67). -/
def State.storeTdcCtrl (s : State) (p : Part) (w : Nat) : State :=
  ((s.wr (F.tdcCtrlPort p) (bits w 0 8)).wr (F.tdcCtrlMode p) (bits w 8 3)).wr (F.tdcCtrlNM1 p) (bits w 12 16)

/-- The mode and the port that a word names are refused (R50, log 12). -/
def State.refusesTdc (s : State) (p : Part) (w : Nat) : Bool :=
  (1 ≤ bits w 8 3 && bits w 8 3 ≤ 4 && s.suppliesTime p (bits w 0 8)) || (p = .tsu && 3 ≤ bits w 8 3) || 5 ≤ bits w 8 3

theorem State.refusesTdc_iff {w : Nat} : s.refusesTdc p w = true ↔ 5 ≤ bits w 8 3 ∨ (p = .tsu ∧ 3 ≤ bits w 8 3) ∨
    (1 ≤ bits w 8 3 ∧ bits w 8 3 ≤ 4 ∧ s.suppliesTime p (bits w 0 8) = true) := by
  simp only [State.refusesTdc, Bool.or_eq_true, Bool.and_eq_true, decide_eq_true_eq]
  tauto

/-- Mode 0 is never refused. -/
theorem State.not_refusesTdc_of_mode_zero {w : Nat} (h : bits w 8 3 = 0) : ¬ s.refusesTdc p w = true := by
  simp [State.refusesTdc_iff, h]

/-- A mode that the part has is not refused on a port that does not supply the time. -/
theorem State.not_refusesTdc_of_mode {w : Nat} (hmax : bits w 8 3 ≤ 4) (htsu : p = .tsu → bits w 8 3 ≤ 2)
    (htime : s.suppliesTime p (bits w 0 8) = false) : ¬ s.refusesTdc p w = true := by
  rw [State.refusesTdc_iff]
  rintro (h | ⟨hp, h⟩ | ⟨_, _, h⟩)
  · omega
  · have := htsu hp
    omega
  · simp [htime] at h

/-- Without start, or while a set runs, the fields are stored and no more. -/
theorem exec_tdcStart_idle {v : Word} (hr : Runs s p)
    (h : bit v.toNat 31 = false ∨ (s.storeTdcCtrl p v.toNat).is (F.tdcStatusBusy p) = true) :
    exec (.tdcStart p v) s = .next (s.storeTdcCtrl p v.toNat) := by
  show execTdcStart p v s = _
  refine onLive_eq hr (if_pos ?_)
  rw [Bool.or_eq_true, Bool.not_eq_true']
  exact h

/-- With start, and no set running, the set is refused or begins. -/
theorem exec_tdcStart {v : Word} (hr : Runs s p) (hstart : bit v.toNat 31 = true)
    (hidle : (s.storeTdcCtrl p v.toNat).is (F.tdcStatusBusy p) = false) :
    exec (.tdcStart p v) s = .next (if (s.storeTdcCtrl p v.toNat).refusesTdc p v.toNat = true
      then (s.storeTdcCtrl p v.toNat).wr (F.tdcStatusRefused p) 1
      else ((s.storeTdcCtrl p v.toNat).wr (F.tdcStatusBusy p) 1).modNode p fun n => { n with
        tdc := some ⟨bits v.toNat 0 8, bits v.toNat 8 3, bits v.toNat 12 16 + 1, {}, ⟨n.lfn, n.sub⟩⟩ }) := by
  have hrun : ¬ (!bit v.toNat 31 || (s.storeTdcCtrl p v.toNat).is (F.tdcStatusBusy p)) = true := by simp [hstart, hidle]
  show execTdcStart p v s = _
  exact onLive_eq hr (if_neg hrun)

/-- The end of an attempt of the set in progress. -/
theorem State.tdcAttempt_of_some {t : TdcSet} (h : (s.node p).tdc = some t) (f : StatAcc → StatAcc) :
    s.tdcAttempt p f = s.modNode p fun n => { n with tdc := some { t with acc := f t.acc, since := ⟨n.lfn, n.sub⟩ } } := by
  cases p with
  | tsu =>
    rw [State.node_tsu] at h
    simp [State.tdcAttempt, h]
  | dbx =>
    rw [State.node_dbx] at h
    simp [State.tdcAttempt, h]

/-- A stop edge ends an attempt, with its interval or as missed (R48). -/
theorem exec_tdcStopEdge {t : TdcSet} (hr : Runs s p) (ht : (s.node p).tdc = some t) (hleft : t.acc.tried < t.req)
    (hedge : s.tdcEdges p t = true) (interval : Nat) :
    exec (.tdcStopEdge p interval) s = .next (s.modNode p fun n => { n with tdc := some { t with
      acc := if interval ≤ 16 * s.tdcTimeout p then t.acc.sample interval else t.acc.miss, since := ⟨n.lfn, n.sub⟩ } }) := by
  show execTdcStopEdge p interval s = _
  refine onLive_eq hr ?_
  simp only [ht, hleft, hedge, decide_true, Bool.and_self, if_true]
  exact State.tdcAttempt_of_some ht _

/-- A self-test on a hop names each tap that fails, among the three (R51). -/
theorem exec_tdcSelfTest {port : Nat} (hr : Runs s p) (hdue : (s.port p port).selfDue ≤ s.lfn p) {a1 a2 a3 : List (Option Nat)}
    {bad : List (Nat × List (Option Nat))}
    (hbad : ([(1, a1), (2, a2), (3, a3)].filter fun x => tapBad p port x.1 x.2) = bad) :
    exec (.tdcSelfTest p port a1 a2 a3) s = .next ((bad.foldl (fun s x => s.logErr p 0x11 port x.1)
      ((s.modPort p port fun t => { t with selfDue := s.lfn p + 2 ^ 20 }).wr (F.portTstatTdcFault p) (b2n !bad.isEmpty)
        port)).score p (some port)) := by
  subst hbad
  show execTdcSelfTest p port a1 a2 a3 s = _
  exact onLive_eq hr (if_neg (Nat.not_lt.2 hdue))

end

/-- Settles O25: by whether the start is refused, whether the stop edge comes in time, and which taps fail. -/
theorem measurementSetsRun : Obligations.MeasurementSetsRun := by
  refine ⟨?modeZero, ?mode, ?refused, ?idle, ?timeout, ?sample, ?late, ?complete, ?completeEcho, ?pass, ?fail⟩
  case modeZero =>
    intro p v s hr hstart hidle hmode
    exact (exec_tdcStart hr hstart hidle).trans (congrArg _ (if_neg (State.not_refusesTdc_of_mode_zero hmode)))
  case mode =>
    intro p v s hr hstart hidle _ hmax htsu htime
    exact (exec_tdcStart hr hstart hidle).trans (congrArg _ (if_neg (State.not_refusesTdc_of_mode hmax htsu htime)))
  case refused =>
    intro p v s hr hstart hidle h
    exact (exec_tdcStart hr hstart hidle).trans (congrArg _ (if_pos (State.refusesTdc_iff.2 h)))
  case idle => exact fun p v s hr h => exec_tdcStart_idle hr h
  case timeout =>
    intro p t s hr ht hleft hexp
    show execTdcAttemptTimeout p s = _
    refine onLive_eq hr ?_
    simp only [ht, hleft, hexp, decide_true, Bool.not_false, Bool.and_self, if_true]
    exact State.tdcAttempt_of_some ht _
  case sample =>
    intro p interval t s hr ht hleft hedge hin
    rw [exec_tdcStopEdge hr ht hleft hedge, if_pos hin]
  case late =>
    intro p interval t s hr ht hleft hedge hlate
    rw [exec_tdcStopEdge hr ht hleft hedge, if_neg (Nat.not_le.2 hlate)]
  case complete =>
    intro p t s hr ht hfull hecho
    have hecho' : (t.mode = 0 && 0 < t.acc.n : Bool) = false := by
      rcases hecho with h | h <;> simp [h]
    show execMeasurementSetComplete p s = _
    refine onLive_eq hr ?_
    simp only [ht, hfull, ne_eq, not_true, if_false, hecho', Bool.false_eq_true]
  case completeEcho =>
    intro p t s hr ht hfull hmode hn
    show execMeasurementSetComplete p s = _
    refine onLive_eq hr ?_
    simp only [ht, hfull, ne_eq, not_true, if_false, hmode, hn, decide_true, Bool.and_self, if_true]
  case pass =>
    intro p port a1 a2 a3 s hr hdue h1 h2 h3
    exact exec_tdcSelfTest hr hdue (bad := []) (by simp [h1, h2, h3])
  case fail =>
    intro p port a1 a2 a3 s hr hdue h1 h2 h3
    exact exec_tdcSelfTest hr hdue (bad := [(1, a1), (2, a2), (3, a3)]) (by simp [h1, h2, h3])

/-! ### Close pages and loop closure (R55, R59 to R62) -/

/-- A write of DBX_CLOSE_CTRL stores periodic, and computes the closure where run is set. -/
theorem exec_closureRun {s : State} (hr : Runs s .dbx) (v : Word) :
    exec (.closureRun v) s = .next (if bit v.toNat 0 = true then (s.wr F.closeCtrlPeriodic (bits v.toNat 1 1)).closure
      else s.wr F.closeCtrlPeriodic (bits v.toNat 1 1)) := by
  show execClosureRun v s = _
  exact onLive_eq hr rfl

/-- Settles O26: a close page by the port that it comes from, a write by its run bit. -/
theorem loopClosureJudgesCables : Obligations.LoopClosureJudgesCables := by
  refine ⟨?downlink, ?pair, ?other, ?tsu, ?run, ?noRun, ?periodic⟩
  case downlink =>
    intro port p0 p1 p2 p3 s hr hport
    show execClosePageReceived .dbx port p0 p1 p2 p3 s = _
    exact onLive_eq hr (if_pos hport)
  case pair =>
    intro port p0 p1 p2 p3 s hr hport
    have hhigh : ¬ port < 128 := by omega
    have hpair : (port = 130 || (port = 131 && s.is F.x1CfgActive) : Bool) = true := by simpa using hport
    show execClosePageReceived .dbx port p0 p1 p2 p3 s = _
    refine onLive_eq hr ?_
    simp only [if_neg hhigh, if_pos hpair]
  case other =>
    intro port p0 p1 p2 p3 s hr hhigh hx0 hx1
    have hother : ¬ (port = 130 || (port = 131 && s.is F.x1CfgActive) : Bool) = true := by simpa [hx0] using hx1
    show execClosePageReceived .dbx port p0 p1 p2 p3 s = _
    refine onLive_eq hr ?_
    simp only [if_neg (Nat.not_lt.2 hhigh), if_neg hother]
  case tsu =>
    intro port p0 p1 p2 p3 s hr
    show execClosePageReceived .tsu port p0 p1 p2 p3 s = _
    exact onLive_eq hr rfl
  case run =>
    intro v s hr hrun
    rw [exec_closureRun hr, if_pos hrun]
  case noRun =>
    intro v s hr hrun
    rw [exec_closureRun hr, if_neg (Bool.eq_false_iff.1 hrun)]
  case periodic =>
    intro s hr hon hdue
    show execClosurePeriodic s = _
    refine onLive_eq hr (if_pos ?_)
    rw [hon, decide_eq_true hdue]
    rfl

end Sys2Proof.Machine
end

section
/-! SUPPORT. Proofs about the root's references: the states of the reference inputs, phase steps and mastership, and the
pulse outputs with their anchors. -/

namespace Sys2Proof.Machine

/-- A root member out of reset answers what its meaning makes of the state. -/
theorem onRoot_eq {s t : State} {f : State → State} (hr : Runs s .dbx) (hroot : s.isRoot = true) (h : f s = t) :
    onRoot s f = .next t :=
  onLive_eq hr ((if_pos hroot).trans h)

/-! ### Reference inputs (R72, R73) -/

@[simp] theorem State.wrI_d (s : State) (f : Fld) (v : Int) (i : Nat) : (s.wrI f v i).d = s.d := State.wr_d ..

theorem freqOk_eq_true_iff {off : Int} : freqOk off = true ↔ off.natAbs ≤ 9200 := decide_eq_true_iff

/-- A further information PDU of the same code lengthens the run. -/
theorem RefIn.afterPdu_of_same {r : RefIn} {ssm : Nat} (h : r.infoSsm = ssm) (hrun : 1 ≤ r.run) (lfn : Nat) :
    r.afterPdu false ssm lfn = { r with run := r.run + 1, lastPdu := lfn } := by
  subst h
  simp [RefIn.afterPdu, Nat.pos_iff_ne_zero.1 hrun]

/-- What a PDU leaves beside its input's registers. -/
theorem State.takePdu_refIn (s : State) (i : Nat) (event : Bool) (ssm : Nat) (freqOff : Int) :
    fgetD (s.takePdu i event ssm freqOff).d.refs i {} =
      (fgetD s.d.refs i {}).afterPdu event (ssm % 16) s.dbx.lfn := by
  simp only [State.takePdu, State.wr_d, State.wrI_d, State.modD_d, fgetD_fset_self]

/-- A code and a run that suffice, at an offset that is in range. -/
theorem State.pduQualifies_iff {s : State} {i ssm : Nat} {freqOff : Int} :
    s.pduQualifies i ssm freqOff = true ↔ 1 ≤ treeOfSsm (ssm % 16) ∧ treeOfSsm (ssm % 16) ≤ s.qlMin i ∧
      freqOk freqOff = true ∧ (fgetD s.d.refs i {}).infoSsm = ssm % 16 ∧ 2 ≤ (fgetD s.d.refs i {}).run := by
  simp only [State.pduQualifies, Bool.and_eq_true, decide_eq_true_eq, and_assoc, eq_comm (a := ssm % 16)]

section
variable {s : State} {i : Nat} (hr : Runs s .dbx) (hroot : s.isRoot = true) (hi : i < 2)
include hr hroot hi

/-- A PDU at a QUALIFIED input unqualifies it where its code or its offset is worse. -/
theorem exec_esmcPdu_qualified (hst : s.refState i = 3) (event : Bool) (ssm : Nat) (freqOff delta : Int) :
    exec (.esmcPdu i event ssm freqOff delta) s = .next (
      if treeOfSsm (ssm % 16) = 0 ∨ treeOfSsm (s.rd F.refStatSsm i) < treeOfSsm (ssm % 16) ∨ freqOk freqOff = false then
        (s.takePdu i event ssm freqOff).setRefState i 4 delta
      else (s.takePdu i event ssm freqOff).showQl) := by
  show execEsmcPdu i event ssm freqOff delta s = _
  exact onRoot_eq hr hroot (by simp [hst, Nat.not_le.2 hi, or_assoc])

/-- A PDU at an input that waits to be qualified is judged by its run, code and offset. -/
theorem exec_esmcPdu_waiting (hst : s.refState i = 2 ∨ s.refState i = 4) (event : Bool) (ssm : Nat) (freqOff delta : Int) :
    exec (.esmcPdu i event ssm freqOff delta) s = .next (
      if (s.takePdu i event ssm freqOff).pduQualifies i ssm freqOff = true then
        (s.takePdu i event ssm freqOff).setRefState i 3 delta
      else s.takePdu i event ssm freqOff) := by
  show execEsmcPdu i event ssm freqOff delta s = _
  refine onRoot_eq hr hroot ?_
  rcases hst with hst | hst <;> simp [hst, Nat.not_le.2 hi]

/-- Silence sets esmc_tmo, and unqualifies a QUALIFIED input. -/
theorem exec_esmcTimeout (hst : 2 ≤ s.refState i) (hdue : (fgetD s.d.refs i {}).lastPdu + lfOfS 5 ≤ s.dbx.lfn) (delta : Int) :
    exec (.esmcTimeout i delta) s = .next (
      if s.refState i = 3 then (s.wr F.refStatEsmcTmo 1 i).setRefState i 4 delta else s.wr F.refStatEsmcTmo 1 i) := by
  show execEsmcTimeout i delta s = _
  refine onRoot_eq hr hroot (if_pos ?_)
  rw [decide_eq_true hi, decide_eq_true hst, esmcLimit, decide_eq_true hdue]
  rfl

end

/-- Settles O27: the guard of each row holds; a PDU and a silence are told apart by the state that they meet. -/
theorem referenceInputsChangeState : Obligations.ReferenceInputsChangeState := by
  refine ⟨?los, ?lock, ?qualifies, ?waits, ?worse, ?follows, ?run, ?timeout, ?silent, ?silentQualified, ?ocxo, ?ocxoLos,
    ?freqErr, ?lostLock⟩
  case los =>
    intro i delta s hr hroot hi hen hst
    show execRefLos i delta s = _
    exact onRoot_eq hr hroot (if_pos (by simp [hi, hen, hst]))
  case lock =>
    intro i s hr hroot hi hst
    show execRefBlockLockReturn i s = _
    exact onRoot_eq hr hroot (if_pos (by simp [hi, hst]))
  case qualifies =>
    intro i ssm event freqOff delta s hr hroot hi hst hq
    rw [exec_esmcPdu_waiting hr hroot hi hst, if_pos hq]
  case waits =>
    intro i ssm event freqOff delta s hr hroot hi hst hq
    rw [exec_esmcPdu_waiting hr hroot hi hst, if_neg (Bool.eq_false_iff.1 hq)]
  case worse =>
    intro i ssm event freqOff delta s hr hroot hi hst hworse
    rw [exec_esmcPdu_qualified hr hroot hi hst, if_pos hworse]
  case follows =>
    intro i ssm event freqOff delta s hr hroot hi hst hcode hle hfreq
    have hok : ¬(treeOfSsm (ssm % 16) = 0 ∨ treeOfSsm (s.rd F.refStatSsm i) < treeOfSsm (ssm % 16) ∨ freqOk freqOff = false) := by
      rintro (h | h | h)
      · omega
      · omega
      · exact absurd (h.symm.trans hfreq) Bool.false_ne_true
    rw [exec_esmcPdu_qualified hr hroot hi hst, if_neg hok]
  case run =>
    intro i ssm freqOff r s hrefs hssm hrun hcode hmin _ hfreq
    subst hrefs
    refine State.pduQualifies_iff.2 ⟨hcode, hmin, hfreq, ?_⟩
    rw [State.takePdu_refIn, RefIn.afterPdu_of_same hssm hrun]
    exact ⟨hssm, Nat.succ_le_succ hrun⟩
  case timeout =>
    intro i s hr hroot hi hst hdue
    show execQualifyTimeout i s = _
    refine onRoot_eq hr hroot (if_pos ?_)
    rw [decide_eq_true hi, decide_eq_true hst, qualifyLimit, decide_eq_true hdue]
    rfl
  case silent =>
    intro i delta s hr hroot hi hst hdue
    rw [exec_esmcTimeout hr hroot hi (by omega) hdue, if_neg (by omega)]
  case silentQualified =>
    intro i delta s hr hroot hi hst hdue
    rw [exec_esmcTimeout hr hroot hi (by omega) hdue, if_pos hst]
  case ocxo =>
    intro freqOff delta s hr hroot hen hst hfreq
    show execOcxoQualify freqOff delta s = _
    exact onRoot_eq hr hroot (if_pos (by simp [hen, hst, freqOk_eq_true_iff.2 hfreq]))
  case ocxoLos =>
    intro delta s hr hroot hen hst
    show execOcxoLos delta s = _
    exact onRoot_eq hr hroot (if_pos (by simp [hen, hst]))
  case freqErr =>
    intro i freqOff delta s hr hroot hi hst hfreq
    have hbad : freqOk freqOff = false := Bool.eq_false_iff.2 (mt freqOk_eq_true_iff.1 (Nat.not_le.2 hfreq))
    show execFrequencyError i freqOff delta s = _
    exact onRoot_eq hr hroot (if_pos (by simp [hi, hst, hbad]))
  case lostLock =>
    intro i s hr hroot hsel hi
    show execLostLockIndication i s = _
    exact onRoot_eq hr hroot (if_pos (by simp [hsel, hi]))

/-! ### Phase steps, the oven and mastership (R70, R76 to R80) -/

/-- The end of a step's window: no ramp, ref_step clear, and the echo sets under way discarded (R77, R78). -/
def State.endPhaseStep (s : State) (p : Part) : State :=
  ((s.modNode p fun n => { n with ramp := none }).wr (F.timeStatusRefStep p) 0).discardSets p

@[simp] theorem State.endPhaseStep_d (s : State) (p : Part) : (s.endPhaseStep p).d = s.d := by simp [State.endPhaseStep]

/-- A follower that has become master and valid, with the hold that it was in (R70). -/
def State.assumeMastership (s : State) : State :=
  ((s.wr F.selStatusMaster 1).modNode .dbx fun n =>
    { n with fromHold := s.timeState .dbx == 3 || (s.timeState .dbx == 1 && s.dbx.fromHold) }).rootValid

section
variable {s : State} {p : Part} {r : Ramp}

/-- The window of a step ends, and nothing follows where none is deferred. -/
theorem exec_refStepClear_of_none (hr : Runs s p) (hramp : (s.node p).ramp = some r) (hend : r.l0 + 1536 ≤ s.lfn p)
    (hnone : p = .dbx → s.d.deferred = none) (delta : Int) : exec (.refStepClear p delta) s = .next (s.endPhaseStep p) := by
  show execRefStepClear p delta s = _
  refine onLive_eq hr ?_
  simp only [hramp, if_neg (Nat.not_lt.2 hend)]
  cases p with
  | tsu => rfl
  | dbx =>
    have hd : (s.endPhaseStep .dbx).d.deferred = none := (congrArg _ (s.endPhaseStep_d .dbx)).trans (hnone rfl)
    rw [State.endPhaseStep] at hd
    simp only [hd]
    rfl

/-- The root begins the step that it has deferred. -/
theorem exec_refStepClear_of_some {from_ dest cause : Nat} (hr : Runs s .dbx) (hramp : s.dbx.ramp = some r)
    (hend : r.l0 + 1536 ≤ s.lfn .dbx) (hsome : s.d.deferred = some (from_, dest, cause)) (delta : Int) :
    exec (.refStepClear .dbx delta) s = .next ((((s.endPhaseStep .dbx).modD fun d => { d with deferred := none }).wr
      F.selStatusStepPending 0).startStep delta from_ dest cause) := by
  have hd : (s.endPhaseStep .dbx).d.deferred = some (from_, dest, cause) := (congrArg _ (s.endPhaseStep_d .dbx)).trans hsome
  rw [State.endPhaseStep] at hd
  show execRefStepClear .dbx delta s = _
  refine onLive_eq hr ?_
  simp only [State.node_dbx, hramp, if_neg (Nat.not_lt.2 hend), hd]
  rfl

/-- A judged failure: mastership, and then the own selected input or HOLDOVER. -/
theorem exec_masterFailureJudged (hr : Runs s .dbx) (hroot : s.isRoot = true) (hm : s.is F.selStatusMaster = false)
    (hf : s.masterFailed = true) (delta : Int) :
    exec (.masterFailureJudged delta) s = .next (
      if s.assumeMastership.rd F.selStatusSelState = 1 then
        s.assumeMastership.switchTo (s.assumeMastership.rd F.selStatusSelected) 3 3 delta
      else s.assumeMastership.enterHoldover) := by
  show execMasterFailureJudged delta s = _
  exact onRoot_eq hr hroot (if_neg (by simp [hm, hf]))

end

/-- Settles O28: the end of a step by whether one is deferred, a takeover by whether the own selector is locked. -/
theorem phaseStepsArePlannedAndEnded : Obligations.PhaseStepsArePlannedAndEnded := by
  refine ⟨?notice, ?clear, ?deferred, ?warm, ?takeover, ?holdover⟩
  case notice =>
    intro p delta l0 s hr hramp hbefore
    show execStepNoticeReceived p delta l0 s = _
    exact onLive_eq hr (if_neg (by simp [hramp, hbefore]))
  case clear => exact fun p delta r s hr hramp hend hnone => exec_refStepClear_of_none hr hramp hend hnone delta
  case deferred => exact fun delta r a b c s hr hramp hend hsome => exec_refStepClear_of_some hr hramp hend hsome delta
  case warm =>
    intro warm s hr hroot hne
    show execOcxoWarmChange warm s = _
    exact onRoot_eq hr hroot (if_neg hne)
  case takeover =>
    intro delta s hr hroot hm hf hsel
    exact (exec_masterFailureJudged hr hroot hm hf delta).trans (congrArg _ (if_pos hsel))
  case holdover =>
    intro delta s hr hroot hm hf hsel
    exact (exec_masterFailureJudged hr hroot hm hf delta).trans (congrArg _ (if_neg hsel))

/-! ### Outputs, anchors and ESMC transmission (R74, R82, R83) -/

/-- An edge that is due at a valid node and not yet given is driven, and remembered for its count. -/
theorem exec_outputEdge {s : State} {k sub : Nat} (hr : Runs s .dbx) (hv : s.timeValid .dbx = true)
    (hh : s.is (F.bootStatusHalted .dbx) = false) (hdue : s.edgeDue k ⟨s.dbx.lfn, sub % 8192⟩ = true)
    (hnew : fget? s.d.outLast k ≠ some ⟨s.dbx.lfn, sub % 8192⟩) :
    exec (.outputEdge k sub) s = .next ((s.modD fun d => { d with outLast := fset d.outLast k ⟨s.dbx.lfn, sub % 8192⟩ }).emit .dbx
      (if k = 6 then .pin .ref10m 1 else .pin (.output k) (max 1 (s.rd F.outCfgWidth k)))) := by
  show execOutputEdge k sub s = _
  refine onLive_eq hr (if_pos ?_)
  rw [hv, hh, hdue, decide_eq_true hnew]
  rfl

/-- Settles O29: an anchor is stored and followed, an edge is driven on the pin of its output. -/
theorem outputsFollowTimeAndAnchors : Obligations.OutputsFollowTimeAndAnchors := by
  refine ⟨?anchor, ?stale, ?output, ?ref10m, ?esmc⟩
  case anchor =>
    intro i sub s hr hroot hi
    show execPpsInEdge i sub s = _
    refine onRoot_eq hr hroot ?_
    simp only [if_pos hi, Bool.and_eq_true, decide_eq_true_eq]
  case stale =>
    intro k e s hr hroot hk hmode he hlate
    subst he
    show execAnchorStale k s = _
    refine onRoot_eq hr hroot ?_
    simp [hk, hmode, hlate]
  case output =>
    intro k sub s hr hk hv hh hdue hnew
    rw [exec_outputEdge hr hv hh hdue hnew, if_neg (by omega)]
  case ref10m =>
    intro sub s hr hv hh hdue hnew
    rw [exec_outputEdge hr hv hh hdue hnew, if_pos rfl]
  case esmc =>
    intro s hr hroot
    show execEsmcTransmit s = _
    exact onRoot_eq hr hroot rfl

end Sys2Proof.Machine
end

section
/-! SUPPORT. Proofs about slot maps, the share table and the optics: what a bound plan locks, the samples of the modules and
of the received power, and the presence and the enables of the modules. -/

namespace Sys2Proof.Machine

open RegMap

/-! ### What a bound plan locks (R97) -/

/-- An entry into the distributor's error log keeps the slot maps and the shares, which lie above the log's registers. -/
theorem State.rd_logErr_of_slotMap (s : State) {f : Fld} {i w : Nat} (hf : Place .dbx f i w) (hbase : 0x40000 ≤ f.base)
    (code port arg : Nat) : (s.logErr .dbx code port arg).rd f i w = s.rd f i w := by
  have hne : ∀ g : Fld, g.base < 0x40000 → f ≠ g := fun g hg h => absurd (h ▸ hbase) (Nat.not_le.2 hg)
  exact s.rd_logErr hf (hne _ (by decide)) (hne _ (by decide)) (hne _ (by decide)) (hne _ (by decide)) code port arg

theorem State.tmplUsed_dbx_iff {s : State} {t : Nat} : s.tmplUsed .dbx t = true ↔
    ∃ j < 132, s.rd (F.portCtrlTxTmpl .dbx) j = t ∨ s.rd (F.portCtrlRxTmpl .dbx) j = t := by
  simp only [State.tmplUsed, State.txTmpl, State.rxTmpl, List.any_eq_true, List.mem_range, Bool.or_eq_true, beq_iff_eq]
  rfl

/-- A plan of the partition in the plan store binds the partition. -/
theorem State.partitionBound_of_plan {s : State} {q : Nat} (h : ∃ x ∈ s.d.plans, s.rd F.condPartPartition x.2.slot = q) :
    s.partitionBound q = true := by
  have hplan : (s.d.plans.any fun x => s.rd F.condPartPartition x.2.slot == q) = true := by simpa using h
  simp only [State.partitionBound, hplan, Bool.true_or]

theorem State.tmplLocked_of_plan {s : State} {t : Nat}
    (hused : ∃ j < 132, s.rd (F.portCtrlTxTmpl .dbx) j = t ∨ s.rd (F.portCtrlRxTmpl .dbx) j = t)
    (hplan : ∃ q ∈ s.tmplPartitions t, ∃ x ∈ s.d.plans, s.rd F.condPartPartition x.2.slot = q) :
    s.tmplLocked t = true := by
  obtain ⟨q, hq, hbound⟩ := hplan
  have hany : (s.tmplPartitions t).any s.partitionBound = true := List.any_eq_true.2 ⟨q, hq, s.partitionBound_of_plan hbound⟩
  simp only [State.tmplLocked, State.tmplUsed_dbx_iff.2 hused, hany, Bool.and_self]

theorem State.shareLocked_of_plan {s : State} {k : Nat} (hvalid : s.is F.shareValid k = true)
    (hplan : ∃ x ∈ s.d.plans, s.rd F.condPartPartition x.2.slot = s.rd F.sharePartition k)
    (hentry : ∃ t < 64, (∃ j < 132, s.rd (F.portCtrlTxTmpl .dbx) j = t ∨ s.rd (F.portCtrlRxTmpl .dbx) j = t) ∧
      ∃ i < 144, entryClass (s.tmplEntry .dbx t i) ≠ 0 ∧ entryShare (s.tmplEntry .dbx t i) = k) :
    s.shareLocked k = true := by
  simp only [State.shareLocked, hvalid, State.partitionBound_of_plan hplan, Bool.true_and, List.any_eq_true, List.mem_range,
    Bool.and_eq_true, State.tmplUsed_dbx_iff, bne_iff_ne, beq_iff_eq]
  exact hentry

/-! ### Writes of the slot maps and the shares -/

section
variable {s : State} {off : Nat}

theorem exec_templateWrite_tsu (hr : Runs s .tsu) (hlo : 0x2800 ≤ off) (hhi : off < 0x3000) (v : Word) :
    exec (.templateWrite .tsu off v) s = .next (if s.tsuTmplLocked ((off - 0x2800) / 0x200) = true
      then s.logErr .tsu 0x0020 noPort ((off - 0x2800) / 0x200) else s.regWrite .tsu off (entryBits v.toNat) false true) := by
  show execTemplateWrite .tsu off v s = _
  exact onLive_eq hr (if_pos (by simp [hlo, hhi]))

theorem exec_templateWrite_dbx (hr : Runs s .dbx) (hlo : 0x40000 ≤ off) (hhi : off < 0x48000) (v : Word) :
    exec (.templateWrite .dbx off v) s = .next (if s.tmplLocked ((off - 0x40000) / 0x200) = true
      then s.logErr .dbx 0x0020 noPort ((off - 0x40000) / 0x200) else s.regWrite .dbx off (entryBits v.toNat) false true) := by
  show execTemplateWrite .dbx off v s = _
  exact onLive_eq hr (if_pos (by simp [hlo, hhi]))

/-- A share entry lies above the templates. -/
theorem exec_templateWrite_share (hr : Runs s .dbx) (hlo : 0x48000 ≤ off) (hhi : off < 0x4C000) (v : Word) :
    exec (.templateWrite .dbx off v) s = .next (if s.shareLocked ((off - 0x48000) / 8) = true
      then s.logErr .dbx 0x0020 noPort (0x10000 + (off - 0x48000) / 8) else s.regWrite .dbx off v.toNat false true) := by
  show execTemplateWrite .dbx off v s = _
  refine onLive_eq hr ((if_neg ?_).trans (if_pos ?_))
  · simp [Nat.not_lt.2 hlo]
  · simp [hlo, hhi]

end

/-- Settles O18: the plan in the store locks the entry, and the record of the discarded write keeps slot maps and shares. -/
theorem lockedTemplatesKeepTheirEntries : Obligations.LockedTemplatesKeepTheirEntries := by
  refine ⟨?template, ?share⟩
  case template =>
    intro off t v s hr hlo hhi ht hused hplan
    subst ht
    refine ⟨?_, fun f hf hbase _ i w hi hw => s.rd_logErr_of_slotMap ⟨hf, hi, hw⟩ hbase _ _ _⟩
    rw [exec_templateWrite_dbx hr hlo hhi, if_pos (State.tmplLocked_of_plan hused hplan)]
  case share =>
    intro off k v s hr hlo hhi hk hvalid hplan hentry
    subst hk
    refine ⟨?_, fun f hf hbase _ i w hi hw => s.rd_logErr_of_slotMap ⟨hf, hi, hw⟩ hbase _ _ _⟩
    rw [exec_templateWrite_share hr hlo hhi, if_pos (State.shareLocked_of_plan hvalid hplan hentry)]

/-! ### Optics (R113, R115, R116, R280) -/

/-- A word of two template entries keeps the bits of Table 5.6 and no others. -/
theorem bits_entryBits (v : Nat) : bits (entryBits v) 14 2 = 0 ∧ bits (entryBits v) 30 2 = 0 ∧
    bits (entryBits v) 0 14 = bits v 0 14 ∧ bits (entryBits v) 16 14 = bits v 16 14 := by
  simp only [bits, entryBits]
  omega

/-- Settles O30: a sample by presence and acknowledgement, a slot-map write by whether a bound plan locks it. -/
theorem opticsAreSampledAndJudged : Obligations.OpticsAreSampledAndJudged := by
  refine ⟨?record, ?present, ?nack, ?absent, ?bol, ?enable, ?arrive, ?leave, ?tsu, ?tsuLocked, ?tmpl, ?tmplLocked, ?share,
    ?shareLocked, fun v _ => bits_entryBits v⟩
  case record =>
    intro p r s hr hdiv
    show execDynamicRecordReceived p r s = _
    refine onLive_eq hr (if_neg ?_)
    simpa using hdiv
  case present =>
    intro k b0 bias1 pwr0 pwr1 rx s hr hk hpres
    show execElsSample k (some b0) bias1 pwr0 pwr1 rx s = _
    exact onLive_eq hr (if_pos (by simp [hk, hpres]))
  case nack =>
    intro k bias1 pwr0 pwr1 rx s hr hk hpres
    show execElsSample k none bias1 pwr0 pwr1 rx s = _
    exact onLive_eq hr (if_pos (by simp [hk, hpres]))
  case absent =>
    intro k bias1 b0 pwr0 pwr1 rx s hr habs
    show execElsSample k b0 bias1 pwr0 pwr1 rx s = _
    exact onLive_eq hr (if_neg (by simp [habs]))
  case bol =>
    intro k c s hr hsince hk hon hheld hdue
    show execBolCapture k s = _
    refine onLive_eq hr ?_
    simp only [hsince]
    exact if_pos (by simpa [hk, hon, hheld] using hdue)
  case enable =>
    intro v s hr
    show execElsEnable v s = _
    exact onLive_eq hr rfl
  case arrive =>
    intro k s hr hk habs
    show execElsPresenceChange k true s = _
    exact onLive_eq hr (if_pos (by simp [hk, habs]))
  case leave =>
    intro k s hr hk hpres
    show execElsPresenceChange k false s = _
    exact onLive_eq hr (if_pos (by simp [hk, hpres]))
  case tsu =>
    intro off v s hr hlo hhi hfree
    rw [exec_templateWrite_tsu hr hlo hhi, if_neg (Bool.eq_false_iff.1 hfree)]
  case tsuLocked =>
    intro off v s hr hlo hhi hlock
    rw [exec_templateWrite_tsu hr hlo hhi, if_pos hlock]
  case tmpl =>
    intro off v s hr hlo hhi hfree
    rw [exec_templateWrite_dbx hr hlo hhi, if_neg (Bool.eq_false_iff.1 hfree)]
  case tmplLocked =>
    intro off v s hr hlo hhi hlock
    rw [exec_templateWrite_dbx hr hlo hhi, if_pos hlock]
  case share =>
    intro off v s hr hlo hhi hfree
    rw [exec_templateWrite_share hr hlo hhi, if_neg (Bool.eq_false_iff.1 hfree)]
  case shareLocked =>
    intro off v s hr hlo hhi hlock
    rw [exec_templateWrite_share hr hlo hhi, if_pos hlock]

end Sys2Proof.Machine
end

section
/-! SUPPORT. Proofs about the rhizoid link: the reception of link frames and their repetition, the states of ports, lanes and
layouts, and the keys of a link. -/

namespace Sys2Proof.Machine

/-! ### Reception, NAKs and give-up (R89, R93, R99 to R101) -/

/-- A direction that has had lanes before, and others than now, has changed its layout. -/
theorem ite_laneChange {α : Type} (old lanes : Nat) (x y : α) :
    (if (old ≠ 0 && old ≠ lanes : Bool) = true then x else y) = if old = 0 ∨ old = lanes then y else x := by
  by_cases h0 : old = 0
  · simp [h0]
  · by_cases hl : old = lanes
    · simp [hl]
    · simp [h0, hl]

section
variable {s : State} {p : Part} {port : Nat}

/-- A wait for slots is over: they are asked for again while a request is left, or the link frame is given up. -/
theorem exec_nakRepeat {label : Nat} {m : Missing} (hr : Runs s p)
    (hfind : ((s.port p port).missing.find? fun m => m.label == label) = some m) (hdue : m.nakAt + s.nakWait p port ≤ s.lfn p) :
    exec (.nakRepeat p port label) s = .next (if m.naks < max 1 (s.rd (F.linkCfgNakMax p)) then
      (s.modPort p port fun t => { t with missing := ((s.port p port).missing.filter fun q => q.label != label) ++
        [{ m with naks := m.naks + 1, nakAt := s.lfn p }] }).sendNak p port label m.mask
      else ((s.modPort p port fun t => { t with missing := (s.port p port).missing.filter fun q => q.label != label }).bump
        (F.portLostCount p) port).ackLabel p port) := by
  show execNakRepeat p port label s = _
  refine onLive_eq hr ?_
  simp only [hfind, if_neg (Nat.not_lt.2 hdue)]

end

/-- Settles O32: a link frame by the state of its port, a NAK by whether its link frame is held, a wait by the requests made. -/
theorem linkFramesAreReceived : Obligations.LinkFramesAreReceived := by
  refine ⟨?received, ?dark, ?held, ?freed, ?again, ?lost, ?acked⟩
  case received =>
    intro p port frame s hr hst
    show execLinkFrameReceived p port frame s = _
    refine onLive_eq hr ((if_neg (Nat.not_lt.2 hst)).trans ?_)
    simp only [ite_laneChange, List.isEmpty_iff]
  case dark =>
    intro p port frame s hr hst
    show execLinkFrameReceived p port frame s = _
    exact onLive_eq hr (if_pos hst)
  case held =>
    intro p port lfnLow mask r s hr hup hheld
    show execNakReceived p port lfnLow mask s = _
    refine onLive_eq hr ((if_pos hup).trans ?_)
    simp only [hheld]
  case freed =>
    intro p port lfnLow mask s hr hup hnone
    show execNakReceived p port lfnLow mask s = _
    refine onLive_eq hr ((if_pos hup).trans ?_)
    simp only [hnone]
  case again =>
    intro p port label m s hr hfind hdue hleft
    rw [exec_nakRepeat hr hfind hdue, if_pos hleft]
  case lost =>
    intro p port label m s hr hfind hdue hmax
    rw [exec_nakRepeat hr hfind hdue, if_neg (Nat.not_lt.2 hmax)]
  case acked =>
    intro p port s hnone
    rw [State.ackLabel, State.port_modPort_self]
    simp only [hnone]

/-! ### Port states (R86, R107, R108, R111) -/

/-- A lane has gained block lock: its clean time starts, and it is the lane that locked last (R86, R107, R110). -/
def State.gainLock (s : State) (p : Part) (port lane : Nat) : State :=
  ((s.setLock p port lane true).setClean p port lane (some (s.lfn p))).modNode p fun n =>
    { n with lockLane := fset n.lockLane port lane }

/-- A lane has lost its block lock, and its clean time with it (R86, R110). -/
def State.loseLock (s : State) (p : Part) (port lane : Nat) : State :=
  (s.setLock p port lane false).setClean p port lane none

/-- A port that has gone dark: it knows no peer, and neither lane holds lock (R108). -/
def State.darkened (s : State) (p : Part) (port : Nat) : State :=
  ((s.setPort p port 1).forgetPeer p port).modPort p port fun t =>
    { t with lock0 := false, lock1 := false, clean0 := none, clean1 := none }

section
variable {s : State} {p : Part} {port : Nat}

/-- Valid headers alone give a lane block lock, and an enabled port that is DISABLED or DARK trains. -/
theorem exec_blockLockGained {lane : LaneHeaders} (hr : Runs s p) (hport : port < portCount p) (hlane : lane.lane < 2)
    (hlen : 64 ≤ lane.headers.length) (hgood : headerErrors lane = 0) :
    exec (.blockLockGained p port lane) s = .next (
      if ((s.gainLock p port lane.lane).rd (F.portStateState p) port ≤ 1 &&
          (s.gainLock p port lane.lane).is (F.portCtrlEnable p) port : Bool) = true
      then (s.gainLock p port lane.lane).startTraining p port else s.gainLock p port lane.lane) := by
  show execBlockLockGained p port lane s = _
  exact onLive_eq hr ((if_pos (by simp [hport, hlane])).trans (if_neg (by simp [hlen, hgood])))

/-- Invalid headers on a lane that holds lock: few of them restart its clean time, sixteen lose its lock. -/
theorem exec_blockLockLost {lane : LaneHeaders} (hr : Runs s p) (hport : port < portCount p) (hlane : lane.lane < 2)
    (hlock : (if lane.lane = 0 then (s.port p port).lock0 else (s.port p port).lock1) = true) (hbad : 1 ≤ headerErrors lane) :
    exec (.blockLockLost p port lane) s = .next (
      if headerErrors lane < 16 then s.setClean p port lane.lane (some (s.lfn p))
      else if (2 ≤ (s.loseLock p port lane.lane).rd (F.portStateState p) port &&
          if lane.lane = 0 then (s.port p port).lock1 else (s.port p port).lock0 : Bool) = true
      then (s.loseLock p port lane.lane).degradeLane p port lane.lane else s.loseLock p port lane.lane) := by
  show execBlockLockLost p port lane s = _
  exact onLive_eq hr (if_pos (by simp [hport, hlane, hlock, Nat.pos_iff_ne_zero.1 hbad]))

/-- A port that has been dark for long goes down, which is an event where light is expected. -/
theorem exec_portDark (hr : Runs s p) (hlong : s.darkLong p port = true) (hport : port < portCount p)
    (hst : s.rd (F.portStateState p) port ≠ 1) (hloop : s.rd (F.portCtrlLoop p) port ≠ 1)
    (hen : s.is (F.portCtrlEnable p) port = true) :
    exec (.portDark p port) s = .next (if (s.darkened p port).is (F.portCtrlExpected p) port = true
      then ((s.darkened p port).portEvent p (F.portEvtDark p) port).raiseAlert p 0x108 else s.darkened p port) := by
  show execPortDark p port s = _
  exact onLive_eq hr ((if_pos hlong).trans (if_neg (by simp [hport, hst, hloop, hen])))

/-- A port that is enabled trains where a lane has lock, and is DARK else. -/
theorem exec_portEnable_on (hr : Runs s p) (hport : port < portCount p) (hwas : s.is (F.portCtrlEnable p) port = false) :
    exec (.portEnable p port true) s = .next (if ((s.port p port).lock0 || (s.port p port).lock1) = true
      then (s.wr (F.portCtrlEnable p) 1 port).startTraining p port else (s.wr (F.portCtrlEnable p) 1 port).setPort p port 1) := by
  show execPortEnable p port true s = _
  refine onLive_eq hr ((if_neg (Nat.not_le.2 hport)).trans ?_)
  simp [hwas, b2n]

/-- Isolate, where it is not refused: set, it isolates an enabled port. -/
theorem exec_portIsolate_on (hr : Runs s p) (hport : port < portCount p) (hfree : p = .dbx → s.othersIsolated port = false)
    (hen : (s.wr (F.portCtrlIsolate p) 1 port).is (F.portCtrlEnable p) port = true) :
    exec (.portIsolate p port true) s = .next ((s.wr (F.portCtrlIsolate p) 1 port).isolatePort p port) := by
  have hfree' : ¬ (true && p == Part.dbx && s.othersIsolated port : Bool) = true := by simpa using hfree
  show execPortIsolate p port true s = _
  exact onLive_eq hr ((if_neg (Nat.not_le.2 hport)).trans ((if_neg hfree').trans (if_neg (by simp [b2n, hen]))))

/-- The two modes of a loopback that are on. -/
theorem loopMode_on {mode : Nat} (h : mode = 1 ∨ mode = 2) : mode % 4 = mode ∧ mode % 3 ≠ 0 := by omega

/-- A mode of loopback that is on isolates an enabled port, where it is permitted. -/
theorem exec_portLoopback_on {mode : Nat} (hr : Runs s p) (hport : port < portCount p) (hmode : mode = 1 ∨ mode = 2)
    (htsu : p = .tsu → s.up .tsu (1 - port) = true ∧ s.timeValid .tsu = true)
    (hdbx : p = .dbx → s.othersIsolated port = false)
    (hen : (s.wr (F.portCtrlLoop p) mode port).is (F.portCtrlEnable p) port = true) :
    exec (.portLoopback p port mode) s = .next ((s.wr (F.portCtrlLoop p) mode port).isolatePort p port) := by
  obtain ⟨hmod, hon⟩ := loopMode_on hmode
  show execPortLoopback p port mode s = _
  refine onLive_eq hr ((if_neg (Nat.not_le.2 hport)).trans ?_)
  cases p with
  | tsu =>
    obtain ⟨hup, hvalid⟩ := htsu rfl
    exact (if_neg (by simp [hup, hvalid])).trans (by simp [hmod, hon, hen])
  | dbx => exact (if_neg (by simp [hdbx rfl])).trans (by simp [hmod, hon, hen])

end

/-- Settles O33: the guard of each row, by the state that the port is in once the row has taken its first effect. -/
theorem portsChangeStateByLockAndControl : Obligations.PortsChangeStateByLockAndControl := by
  refine ⟨?gainTrain, ?gain, ?train, ?loseLane, ?lose, ?errors, ?darkExpected, ?dark, ?timeout, ?disable, ?enableLock,
    ?enableDark, ?isolate, ?isolateRefused, ?isolateOff, ?loopTsu, ?loopDbx, ?loopRefusedTsu, ?loopRefusedDbx, ?loopOff⟩
  case gainTrain =>
    intro p port lane s hr hport hlane hlen hgood hst hen
    exact (exec_blockLockGained hr hport hlane hlen hgood).trans
      (congrArg _ (if_pos (Bool.and_eq_true_iff.2 ⟨decide_eq_true hst, hen⟩)))
  case gain =>
    intro p port lane s hr hport hlane hlen hgood hst
    refine (exec_blockLockGained hr hport hlane hlen hgood).trans (congrArg _ (if_neg fun h => ?_))
    exact absurd (of_decide_eq_true (Bool.and_eq_true_iff.1 h).1) (Nat.not_le.2 hst)
  case train =>
    intro p port s hboth
    simp only [State.startTraining, hboth, Bool.false_eq_true, if_false]
  case loseLane =>
    intro p port lane s hr hport hlane hlock hbad hst hother
    refine (exec_blockLockLost hr hport hlane hlock (by omega)).trans (congrArg _ ?_)
    exact (if_neg (Nat.not_lt.2 hbad)).trans (if_pos (Bool.and_eq_true_iff.2 ⟨decide_eq_true hst, hother⟩))
  case lose =>
    intro p port lane s hr hport hlane hlock hbad hstay
    refine (exec_blockLockLost hr hport hlane hlock (by omega)).trans (congrArg _ ?_)
    refine (if_neg (Nat.not_lt.2 hbad)).trans (if_neg fun h => ?_)
    obtain ⟨hst, hother⟩ := Bool.and_eq_true_iff.1 h
    rcases hstay with hlow | hnone
    · exact absurd (of_decide_eq_true hst) (Nat.not_le.2 hlow)
    · exact absurd (hother.symm.trans hnone) (by decide)
  case errors =>
    intro p port lane s hr hport hlane hlock hbad hfew
    rw [exec_blockLockLost hr hport hlane hlock hbad, if_pos hfew]
  case darkExpected =>
    intro p port s hr hlong hport hst hloop hen hexp
    exact (exec_portDark hr hlong hport hst hloop hen).trans (congrArg _ (if_pos hexp))
  case dark =>
    intro p port s hr hlong hport hst hloop hen hexp
    exact (exec_portDark hr hlong hport hst hloop hen).trans (congrArg _ (if_neg (Bool.eq_false_iff.1 hexp)))
  case timeout =>
    intro p port s hr hst hdue
    show execTrainingTimeout p port s = _
    exact onLive_eq hr (if_pos (Bool.and_eq_true_iff.2 ⟨decide_eq_true hst, decide_eq_true hdue⟩))
  case disable =>
    intro p port s hr hport
    show execPortEnable p port false s = _
    exact onLive_eq hr (if_neg (Nat.not_le.2 hport))
  case enableLock =>
    intro p port s hr hport hwas hlock
    rw [exec_portEnable_on hr hport hwas, if_pos (Bool.or_eq_true_iff.2 hlock)]
  case enableDark =>
    intro p port s hr hport hwas h0 h1
    rw [exec_portEnable_on hr hport hwas, if_neg (by simp [h0, h1])]
  case isolate => exact fun p port s hr hport hfree hen => exec_portIsolate_on hr hport hfree hen
  case isolateRefused =>
    intro port s hr hport hother
    show execPortIsolate .dbx port true s = _
    exact onLive_eq hr ((if_neg (Nat.not_le.2 hport)).trans (if_pos hother))
  case isolateOff =>
    intro p port s hr hport hen hst hloop
    show execPortIsolate p port false s = _
    refine onLive_eq hr ((if_neg (Nat.not_le.2 hport)).trans ((if_neg (by simp)).trans ?_))
    simp [b2n, hen, hst, hloop]
  case loopTsu =>
    intro port mode s hr hport hmode hup hvalid hen
    exact exec_portLoopback_on hr hport hmode (fun _ => ⟨hup, hvalid⟩) (by simp) hen
  case loopDbx =>
    intro port mode s hr hport hmode hfree hen
    exact exec_portLoopback_on hr hport hmode (by simp) (fun _ => hfree) hen
  case loopRefusedTsu =>
    intro port mode s hr hport hmode hup
    obtain ⟨hmod, hon⟩ := loopMode_on hmode
    show execPortLoopback .tsu port mode s = _
    exact onLive_eq hr ((if_neg (Nat.not_le.2 hport)).trans (if_pos (by simp [hmod, hon, hup])))
  case loopRefusedDbx =>
    intro port mode s hr hport hmode hother
    obtain ⟨hmod, hon⟩ := loopMode_on hmode
    show execPortLoopback .dbx port mode s = _
    exact onLive_eq hr ((if_neg (Nat.not_le.2 hport)).trans (if_pos (by simp [hmod, hon, hother])))
  case loopOff =>
    intro p port s hr hport hen hst hiso
    show execPortLoopback p port 0 s = _
    refine onLive_eq hr ((if_neg (Nat.not_le.2 hport)).trans ?_)
    cases p with
    | tsu => exact (if_neg (by simp)).trans (by simp [hen, hst, hiso])
    | dbx => exact (if_neg (by simp)).trans (by simp [hen, hst, hiso])

/-! ### Lanes and layouts (R98, R109, R110) -/

/-- Settles O34: a drop by whether the lane was in use till then, a switch and a queue by the count that they wait for. -/
theorem lanesAreDroppedAndRestored : Obligations.LanesAreDroppedAndRestored := by
  refine ⟨?drop, ?dropAgain, ?undrop, ?unpin, ?request, ?switch, ?queue, ?restore⟩
  case drop =>
    intro p port lane s hr hport hlane hwant
    show execDropLane p port lane true s = _
    refine onLive_eq hr ((if_neg (by simp [hport, hlane])).trans ((if_neg (by decide)).trans (if_pos ?_)))
    rwa [State.port_wr]
  case dropAgain =>
    intro p port lane s hr hport hlane hwant
    show execDropLane p port lane true s = _
    refine onLive_eq hr ((if_neg (by simp [hport, hlane])).trans ((if_neg (by decide)).trans (if_neg ?_)))
    rwa [State.port_wr]
  case undrop =>
    intro p port lane s hr hport hlane
    show execDropLane p port lane false s = _
    exact onLive_eq hr ((if_neg (by simp [hport, hlane])).trans (if_pos rfl))
  case unpin =>
    intro p port s hr hport
    show execUnpin p port s = _
    exact onLive_eq hr (if_neg (Nat.not_le.2 hport))
  case request =>
    intro p port want s hr hport hlo hhi hst hne
    show execDegradeRequestReceived p port want s = _
    exact onLive_eq hr (if_pos (by simp [hport, hlo, hhi, hst, hne]))
  case switch =>
    intro p port c lanes s hr hat hdue
    show execLayoutSwitch p port s = _
    refine onLive_eq hr ?_
    simp only [hat]
    exact if_neg (Nat.not_lt.2 hdue)
  case queue =>
    intro p port c s hr hsince hdue
    show execDegradedQueueDrop p port s = _
    refine onLive_eq hr ?_
    simp only [hsince]
    exact if_neg (Nat.not_lt.2 hdue)
  case restore =>
    intro p port lane c s hr hlane hclean hwant hdue hdrop hpin
    show execLaneRestoreRequest p port lane s = _
    refine onLive_eq hr ?_
    simp only [hclean]
    exact if_pos (by simpa [hlane, hwant, hdrop, hpin] using hdue)

/-! ### The keys of a link (R103, R104, R291) -/

@[simp] theorem State.port_emit (s : State) (p : Part) (o : Out) (q : Part) (k : Nat) : (s.emit p o).port q k = s.port q k := by
  simp [State.port]

@[simp] theorem State.port_memRequest (s : State) (r : MemReq) (q : Part) (k : Nat) : (s.memRequest r).port q k = s.port q k := by
  simp [State.port]

@[simp] theorem State.port_interrupt (s : State) (p : Part) (i : Nat) (q : Part) (k : Nat) :
    (s.interrupt p i).port q k = s.port q k := by
  unfold State.interrupt
  simp only
  split
  · rfl
  · split
    · cases p <;> simp
    · exact State.port_wr ..

@[simp] theorem State.port_raiseAlert (s : State) (p : Part) (source : Nat) (q : Part) (k : Nat) :
    (s.raiseAlert p source).port q k = s.port q k := by
  cases p <;> simp [State.raiseAlert]

/-- The refusal of a peer by itself leaves the certificate that its port holds. -/
theorem State.refusePeer_cert (s : State) (p : Part) (port : Nat) :
    ((s.refusePeer p port).port p port).cert = (s.port p port).cert := by
  cases p <;> simp [State.refusePeer, State.bump]

/-- A certificate that is not accepted also takes away the one that the port holds. -/
theorem exec_linkCert_refused {s : State} {port : Nat} {cert : PeerCert} (hr : Runs s .dbx) (hport : port < 132)
    (hbad : s.acceptPeer .dbx port cert = false) :
    exec (.linkCert .dbx port cert) s =
      .next ((s.refusePeer .dbx port).modPort .dbx port fun t => { t with cert := none }) := by
  show execLinkCert .dbx port cert s = _
  exact onLive_eq hr ((if_neg (Nat.not_le.2 hport)).trans (if_neg (Bool.eq_false_iff.1 hbad)))

/-- The distributor after reset, but that its port 0 holds an accepted certificate. -/
def certHeld : State := State.reset.modPort .dbx 0 fun t => { t with cert := some ⟨true, 0, true, 0, []⟩ }

theorem certHeld_cert : (certHeld.port .dbx 0).cert = some ⟨true, 0, true, 0, []⟩ := by
  rw [certHeld, State.port_modPort_self]

/-- Refutes O35: where port 0 of a distributor holds a certificate and another comes whose chain does not verify, the model
forgets the one held; the statement's next state, which is the refusal alone, still holds it. -/
theorem not_linkKeysAreAgreedAndRatcheted : ¬ Obligations.LinkKeysAreAgreedAndRatcheted := by
  rintro ⟨-, -, -, -, -, -, hrefused, -⟩
  have hruns : Runs certHeld .dbx := by decide
  have hbad : certHeld.acceptPeer .dbx 0 ⟨false, 0, true, 0, []⟩ = false := rfl
  have hstate := (exec_linkCert_refused hruns (by decide) hbad).symm.trans (hrefused 0 _ certHeld hruns (by decide) hbad)
  injection hstate with hstate
  have hcert : (none : Option PeerCert) = some ⟨true, 0, true, 0, []⟩ := by
    calc (none : Option PeerCert)
      _ = (((certHeld.refusePeer .dbx 0).modPort .dbx 0 fun t => { t with cert := none }).port .dbx 0).cert := by
        rw [State.port_modPort_self]
      _ = ((certHeld.refusePeer .dbx 0).port .dbx 0).cert := by rw [hstate]
      _ = some ⟨true, 0, true, 0, []⟩ := by rw [State.refusePeer_cert, certHeld_cert]
  exact absurd hcert (by simp)

end Sys2Proof.Machine
end

section
/-! SUPPORT. Proofs about the croziers at a distributor: copies of a key, the end of the compare window, and the writes of the
routing tables. -/

namespace Sys2Proof.Machine

/-! ### Copies of a key (R120, R123 to R125) -/

/-- A well-formed crozier of a valid share, with a key in the window, is compared with the copy that the key holds. -/
theorem exec_crozierReceived_second {s : State} {share : Nat} {cz : Crozier} {k : CzKey} (port : Nat) (hr : Runs s .dbx)
    (hidle : czIdle cz = false) (hv : s.is F.shareValid share = true) (hform : czMalformed cz = false)
    (hk : s.d.czKeys.find? (fun k => k.partition == s.rd F.sharePartition share && czSameKey k.cz cz &&
      decide (s.dbx.lfn < k.atLfn + s.czWindow)) = some k) :
    exec (.crozierReceived port share cz) s = .next (s.czSecond k port cz) := by
  show execCrozierReceived port share cz s = _
  refine onLive_eq hr ?_
  simp only [hidle, hv, hform, hk, Bool.not_true, Bool.or_self, Bool.false_eq_true, if_false]

/-! ### The end of the compare window (R125) -/

/-- One key that leaves with a single copy: it counts, and is recorded where the other uplink has been UP throughout. -/
theorem exec_compareWindowExpiry_single {s : State} {k : CzKey} (hr : Runs s .dbx)
    (hk : ((s.d.czKeys.filter fun k => k.atLfn + s.czWindow ≤ s.dbx.lfn).filter fun k => !k.second) = [k]) :
    exec .compareWindowExpiry s = .next (
      if ((s.modD fun d => { d with czKeys := d.czKeys.filter fun k => !(k.atLfn + s.czWindow ≤ s.dbx.lfn) }).bump
          F.dczSingleCount).upSince .dbx (otherUplink k.port) k.atLfn = true
      then ((s.modD fun d => { d with czKeys := d.czKeys.filter fun k => !(k.atLfn + s.czWindow ≤ s.dbx.lfn) }).bump
          F.dczSingleCount).record .dbx 1 (Config.recordCode 1 125)
      else (s.modD fun d => { d with czKeys := d.czKeys.filter fun k => !(k.atLfn + s.czWindow ≤ s.dbx.lfn) }).bump
          F.dczSingleCount) := by
  show execCompareWindowExpiry s = _
  refine onLive_eq hr ?_
  simp only [hk, List.foldl_cons, List.foldl_nil]

/-- Settles O36: a crozier by the checks it passes and the key it finds, the expiry by its single copies, and a table write by
what the tables say to it. -/
theorem croziersAreForwardedOnce : Obligations.CroziersAreForwardedOnce := by
  refine ⟨?ignored, ?malformed, ?first, ?equal, ?differs, ?noSingle, ?singleRecorded, ?single, ?refused, ?taken, ?shown⟩
  case ignored =>
    intro port share cz s hr h
    show execCrozierReceived port share cz s = _
    refine onLive_eq hr (if_pos ?_)
    rcases h with h | h <;> simp [h]
  case malformed =>
    intro port share cz s hr hidle hv hform
    show execCrozierReceived port share cz s = _
    exact onLive_eq hr ((if_neg (by simp [hidle, hv])).trans (if_pos hform))
  case first =>
    intro port share cz s hr hidle hv hform hk
    show execCrozierReceived port share cz s = _
    refine onLive_eq hr ?_
    simp only [hidle, hv, hform, hk, Bool.not_true, Bool.or_self, Bool.false_eq_true, if_false]
  case equal =>
    intro port share cz k s hr hidle hv hform hk hdiff
    rw [exec_crozierReceived_second port hr hidle hv hform hk]
    simp only [State.czSecond, hdiff]
  case differs =>
    intro port share byte cz k s hr hidle hv hform hk hdiff
    rw [exec_crozierReceived_second port hr hidle hv hform hk]
    simp only [State.czSecond, hdiff]
  case noSingle =>
    intro s hr hnone
    show execCompareWindowExpiry s = _
    refine onLive_eq hr ?_
    simp only [hnone, List.foldl_nil]
  case singleRecorded =>
    intro k s hr hk hup
    rw [exec_compareWindowExpiry_single hr hk, if_pos hup]
  case single =>
    intro k s hr hk hup
    rw [exec_compareWindowExpiry_single hr hk, if_neg (Bool.eq_false_iff.1 hup)]
  case refused =>
    intro v s hr hw href
    show execTableWrite v s = _
    refine onLive_eq hr ?_
    simp only [hw, href, Bool.not_true, Bool.false_eq_true, if_false, if_true]
  case taken =>
    intro v s hr hw href
    show execTableWrite v s = _
    refine onLive_eq hr ?_
    simp only [hw, href, Bool.not_true, Bool.false_eq_true, if_false]
  case shown =>
    intro v s hr hw
    show execTableWrite v s = _
    refine onLive_eq hr ?_
    simp only [hw, Bool.not_false, if_true]

end Sys2Proof.Machine
end

section
/-! SUPPORT. Proofs about the TSU at the host-die boundary: entry reads, acknowledgements of launch words, the replay of the
generation bus, memory responses and the optical engine. -/

namespace Sys2Proof.Machine

/-! ### Memory responses (R331) -/

/-- The request of a tag has come back: the tag is free, and the request that has waited longest takes it. -/
theorem exec_memoryResponse {s : State} {tag : Nat} {q : MemReq} (hr : Runs s .tsu) (hq : fget? s.t.memReqs tag = some q)
    (err : Bool) :
    exec (.memoryResponse tag err) s =
      .next (((s.modT fun t => { t with memReqs := fdel t.memReqs tag }).nextRequest).answered q err) := by
  show execMemoryResponse tag err s = _
  refine onLive_eq hr ?_
  simp only [hq]

/-- A change of a ring pair sets it to what the change makes of what it holds. -/
theorem State.modRing_eq (s : State) (p : Part) (r : Nat) (f : RingRt → RingRt) :
    s.modRing p r f = s.modNode p fun n => { n with rings := fset n.rings r (f (s.ring p r)) } := by
  cases p <;> rfl

/-- The only completion held, of which no response is missing, is written. -/
theorem State.released_single {s : State} {r : Nat} {x : Nat × Completion} (hheld : (s.ring .tsu r).held = [x])
    (hopen : s.memOpen (.result r x.1) = false)
    (howed : (((s.modRing .tsu r fun t => { t with held := [] }).complete .tsu r x.2).ring .tsu r).irqOwed = false) :
    s.released r = (s.modRing .tsu r fun t => { t with held := [] }).complete .tsu r x.2 := by
  have hready : (s.ring .tsu r).held.filter (fun x => !s.memOpen (.result r x.1)) = [x] := by simp [hheld, hopen]
  have hring : (s.modRing .tsu r fun t => { t with held := t.held.filter fun y => !([x].contains y) }) =
      s.modRing .tsu r fun t => { t with held := [] } := by
    simp [State.modRing_eq, hheld]
  simp only [State.released, hready, hring, List.foldl_cons, List.foldl_nil, howed, Bool.false_and, Bool.false_eq_true,
    if_false]

/-- Settles O40: an entry read by the entry that its handle matches, a memory response by its request, and the rest by the
guards of their rows. -/
theorem boundaryWordsActAtTheTsu : Obligations.BoundaryWordsActAtTheTsu := by
  refine ⟨?stale, ?read, ?ack, ?sync, ?noSync, ?ring, ?ringErr, ?result, ?msix, ?carve, ?carveLost, ?tag, ?release, ?interrupt,
    ?poll, ?noPoll⟩
  case stale =>
    intro entry target handle s hr h
    show execEntryRead entry target handle s = _
    refine onLive_eq hr ?_
    simp only [h]
  case read =>
    intro entry target handle a s hr h
    show execEntryRead entry target handle s = _
    refine onLive_eq hr ?_
    simp only [h]
  case ack =>
    intro region target entry s hr h
    show execLwAck region target entry s = _
    exact onLive_eq hr (if_pos h)
  case sync =>
    intro s hr hsync hended
    show execGenSyncReplay s = _
    exact onLive_eq hr (if_neg (by simp [hsync, hended]))
  case noSync =>
    intro s hr h
    show execGenSyncReplay s = _
    refine onLive_eq hr (if_pos ?_)
    rcases h with h | h <;> simp [h]
  case ring =>
    intro tag r w s hr hq
    rw [exec_memoryResponse hr hq, State.answered, if_neg Bool.false_ne_true]
  case ringErr =>
    intro tag r w s hr hq
    rw [exec_memoryResponse hr hq, State.answered, if_pos rfl]
  case result =>
    intro tag r seq err s hr hq
    rw [exec_memoryResponse hr hq, State.answered]
  case msix =>
    intro tag r s hr hq
    rw [exec_memoryResponse hr hq]
    simp only [State.answered, if_true]
  case carve =>
    intro tag i s hr hq
    rw [exec_memoryResponse hr hq]
    simp only [State.answered, Bool.not_true, Bool.false_eq_true, if_false]
  case carveLost =>
    intro tag i s hr hq
    rw [exec_memoryResponse hr hq]
    simp only [State.answered, Bool.not_true, Bool.false_eq_true, if_false, if_true]
  case tag =>
    intro q l s hwait
    simp only [State.nextRequest, hwait]
  case release => exact fun r x s hheld hopen howed => State.released_single hheld hopen howed
  case interrupt =>
    intro status rx s hr
    show execOeInterrupt status rx s = _
    exact onLive_eq hr rfl
  case poll =>
    intro status rx s hr hlfn
    show execOePoll status rx s = _
    exact onLive_eq hr (if_pos hlfn)
  case noPoll =>
    intro status rx s hr hlfn
    show execOePoll status rx s = _
    exact onLive_eq hr (if_neg hlfn)

end Sys2Proof.Machine
end

section
/-! SUPPORT. Proofs about peristomes and swaps at a distributor: the PERI and SWAP words, the swap's advance and a peristome's
timeout. -/

namespace Sys2Proof.Machine

/-! ### PERI (R139, R141, R158) -/

/-- Where a PERI word leaves a channel that no swap holds: held at an ARMED peristome, through one whose timeout has passed, and
past any other. -/
def State.meetPeri (s : State) (ch k : Nat) : State :=
  if (s.peri k).state = 1 then
    if (s.peri k).timedOut then s.passPeri ch k true else (s.holdCh ch 3 (.peri k)).showPeri
  else s.modCh ch fun c => { c with r := { c.r with periPos := k % 2 ^ 12, periTmo := false }, offPeri := false }

section
variable {s : State} {ch w : Nat} {c : CondChan} {q : Plan}

/-- A PERI word without the arm bit leads its channel to the peristome as it stands. -/
theorem exec_peri_noArm (hr : Runs s .dbx) (hw : WordAt s ch 8 c q w) (harm : bit w 55 = false)
    (hstrict : c.r.epochStrict = false) :
    exec (.peri ch) s = .next (((s.countWord ch c).nextPc ch).meetPeri ch
      ((s.countWord ch c).rd F.condSharePeriBase c.r.slot + bits w 0 12)) := by
  show execPeri ch s = _
  refine onLive_eq hr ((State.withWord_ready hw rfl rfl).trans ?_)
  simp only [harm, hstrict, Bool.false_and, Bool.false_eq_true, if_false]
  rfl

/-- A PERI word with the arm bit arms a peristome that is not ARMED, and configures its target set, before its channel meets
it. -/
theorem exec_peri_arm (hr : Runs s .dbx) (hw : WordAt s ch 8 c q w) (harm : bit w 55 = true)
    (hidle : ((s.countWord ch c).peri ((s.countWord ch c).rd F.condSharePeriBase c.r.slot + bits w 0 12)).state ≠ 1)
    (hstrict : c.r.epochStrict = false) :
    exec (.peri ch) s = .next (((((s.countWord ch c).setPeri
        ((s.countWord ch c).rd F.condSharePeriBase c.r.slot + bits w 0 12)
        ⟨1, bits w 12 8, bits w 20 1, c.r.slot, (s.countWord ch c).periDeadline (bits w 48 5), false, false⟩).configPeri
          c.r.slot (q.entry (bits w 21 12)) (bits w 12 8) (bits w 33 3) (bits w 36 12) (bits w 20 1)).nextPc ch).meetPeri ch
      ((s.countWord ch c).rd F.condSharePeriBase c.r.slot + bits w 0 12)) := by
  show execPeri ch s = _
  refine onLive_eq hr ((State.withWord_ready hw rfl rfl).trans ?_)
  have hset : (bit w 55 && decide (((s.countWord ch c).peri
      ((s.countWord ch c).rd F.condSharePeriBase c.r.slot + bits w 0 12)).state ≠ 1)) = true := by simp [harm, hidle]
  simp only [hset, hstrict, Bool.false_and, Bool.false_eq_true, if_false, if_true]
  rfl

end

section
variable {s : State} {k : Nat} (ch : Nat)

theorem State.meetPeri_of_notArmed (h : (s.peri k).state ≠ 1) :
    s.meetPeri ch k = s.modCh ch fun c => { c with r := { c.r with periPos := k % 2 ^ 12, periTmo := false }, offPeri := false } :=
  if_neg h

theorem State.meetPeri_of_armed (h : (s.peri k).state = 1) (ht : (s.peri k).timedOut = false) :
    s.meetPeri ch k = (s.holdCh ch 3 (.peri k)).showPeri :=
  (if_pos h).trans (if_neg (Bool.eq_false_iff.1 ht))

theorem State.meetPeri_of_timedOut (h : (s.peri k).state = 1) (ht : (s.peri k).timedOut = true) :
    s.meetPeri ch k = s.passPeri ch k true :=
  (if_pos h).trans (if_pos ht)

end

/-! ### The words, the swap and the timeout (R142, R159) -/

/-- Settles O48: a PERI word by the peristome that its channel meets, a SWAP word by the swap of its slot, and a swap's advance
by its phase, its peristome and its layer. -/
theorem peristomeAndSwapWords : Obligations.PeristomeAndSwapWords := by
  refine ⟨?pass, ?hold, ?timedOut, ?arm, ?begin_, ?wait, ?drain, ?late, ?last, ?next, ?timeout⟩
  case pass =>
    intro ch w c q s hr hw harm hstrict hst
    rw [exec_peri_noArm hr hw harm hstrict, State.meetPeri_of_notArmed ch hst]
  case hold =>
    intro ch w c q s hr hw harm hstrict hst ht
    rw [exec_peri_noArm hr hw harm hstrict, State.meetPeri_of_armed ch hst ht]
  case timedOut =>
    intro ch w c q s hr hw harm hstrict hst ht
    rw [exec_peri_noArm hr hw harm hstrict, State.meetPeri_of_timedOut ch hst ht]
  case arm =>
    intro ch w c q s hr hw harm hidle hstrict hst ht
    rw [exec_peri_arm hr hw harm hidle hstrict, State.meetPeri_of_armed ch hst ht]
  case begin_ =>
    intro ch w c q s hr hw hreg hswap
    show execSwap ch s = _
    exact onLive_eq hr (State.withWord_ready hw hreg (by simp [hswap]))
  case wait =>
    intro ch w c q x s hr hw hreg hswap
    show execSwap ch s = _
    exact onLive_eq hr (State.withWord_held hw hreg (by simp [hswap]))
  case drain =>
    intro slot x s hr hswap hphase hleft
    show execSwapAdvance slot s = _
    refine onLive_eq hr ?_
    simp only [hswap]
    refine (if_pos hphase).trans (if_pos (List.all_eq_true.2 fun i hi => ?_))
    cases hc : s.chan i with
    | none => rfl
    | some c =>
      rcases hleft i hi c hc with hoff | hpos
      · simp [hoff]
      · simp [hpos]
  case late =>
    intro slot t x s hr hswap hphase hst hdl ht
    show execSwapAdvance slot s = _
    refine onLive_eq hr ?_
    simp only [hswap, hdl, if_neg hphase, if_neg hst, ht, decide_true, if_true]
  case last =>
    intro slot x s hr hswap hphase hst hlast
    show execSwapAdvance slot s = _
    refine onLive_eq hr ?_
    simp only [hswap]
    exact (if_neg hphase).trans ((if_pos hst).trans (if_pos hlast))
  case next =>
    intro slot x s hr hswap hphase hst hmore
    show execSwapAdvance slot s = _
    refine onLive_eq hr ?_
    simp only [hswap]
    exact (if_neg hphase).trans ((if_pos hst).trans (if_neg hmore))
  case timeout =>
    intro index t s hr hdl hst ht hfirst
    show execPeristomeTimeout index s = _
    refine onLive_eq hr ?_
    simp only [hdl]
    exact if_pos (by simp [hst, ht, hfirst])

end Sys2Proof.Machine
end

section
/-! SUPPORT. Proofs about the plan words of a channel in its turn: LAUNCH and EPOCH, WAITC and its deadline, REDUCE, SAMPLE and
ACCEPT, and the words that move the plan on. -/

namespace Sys2Proof.Machine

/-! ### The word whose turn it is (R148, R150, R153) -/

/-- The row of a word that is ready, reads no register that a REDUCE will still write and is not held answers what the word
makes of the state. -/
theorem onLive_word {s t : State} {ch op w : Nat} {c : CondChan} {q : Plan} (hr : Runs s .dbx) (hw : WordAt s ch op c q w)
    {reads : Nat → List Nat} {block : State → CondChan → Nat → Option (Nat × WaitFor)} {f : CondChan → Plan → Nat → State → State}
    (hreg : (reads w).any (fun g => c.outst.any fun x => x.2 == g) = false) (hfree : block s c w = none)
    (h : f c q w (s.countWord ch c) = t) : onLive .dbx s (fun s => s.withWord ch op reads block f) = .next t :=
  onLive_eq hr ((State.withWord_ready hw hreg hfree).trans h)

/-- A channel in its turn stands in the table and waits for nothing. -/
theorem WordAt.chan_wait {s : State} {ch op w : Nat} {c : CondChan} {q : Plan} (hw : WordAt s ch op c q w) :
    s.chan ch = some c ∧ c.wait = .none := by
  obtain ⟨-, hc, hready, -⟩ := hw
  simp only [chanReady, Bool.and_eq_true, beq_iff_eq] at hready
  exact ⟨hc, hready.2⟩

section
variable {s : State} {ch : Nat} {c : CondChan}

theorem State.chan_countWord (k : Nat) : (s.countWord ch c).chan k = s.chan k := rfl

theorem State.chan_modCh_self (h : s.chan ch = some c) (f : CondChan → CondChan) : (s.modCh ch f).chan ch = some (f c) := by
  simp only [State.modCh, h]
  exact fget?_fset_self ..

/-- A change of a listed channel is judged by what it makes of that channel. -/
theorem State.modCh_congr (h : s.chan ch = some c) {f g : CondChan → CondChan} (hfg : f c = g c) : s.modCh ch f = s.modCh ch g := by
  simp only [State.modCh, h, hfg]

/-- A held channel shows the execution state and what it waits for. -/
theorem State.chan_holdCh (h : s.chan ch = some c) (exec : Nat) (t : WaitFor) :
    (s.holdCh ch exec t).chan ch = some { c with r := { c.r with exec := exec }, wait := t } :=
  State.chan_modCh_self h _

/-- A word counts for the meter of its plan (R148). -/
theorem State.wordsUsed_countWord : (s.countWord ch c).wordsUsed c.r.plan = s.wordsUsed c.r.plan + 1 :=
  fgetD_fset_self ..

end

/-! ### LAUNCH and EPOCH (R151, R152, R159) -/

section
variable {s : State} {ch w : Nat} {c : CondChan} {q : Plan} {f : Nat → State → State}

/-- Within a run a word finds no boundary. -/
theorem State.atBoundary_within (h : s.chan ch = some c) : s.atBoundary ch false q w f = f w s := by
  simp only [State.atBoundary, h]
  rfl

/-- At the first word of a step a pause that waits takes effect instead of the word. -/
theorem State.atBoundary_paused (h : s.chan ch = some c) (hp : c.pauseBy ≠ []) :
    s.atBoundary ch true q w f = (s.uncount ch c).pauseNow ch 1 := by
  simp only [State.atBoundary, h]
  exact (if_neg (by simp)).trans (if_pos (by simpa using hp))

end

/-- Settles O44: a LAUNCH word by its turn, the meter of its plan and the crozier positions, an EPOCH word by its turn, the step
boundary by the place in the run and a waiting pause, and the count of a word. -/
theorem launchAndEpochWordsGather : Obligations.LaunchAndEpochWordsGather := by
  refine ⟨?launch, ?metered, ?epoch, ?within, ?paused, ?counted⟩
  case launch =>
    intro ch w c q s hr hw hreg hroom
    have hfree : (bit w 47 && decide (s.czCap c.r.slot = 0)) = false := by
      cases hlast : bit w 47 with
      | false => rfl
      | true => simp [hroom hlast]
    show execLaunch ch s = _
    exact onLive_word hr hw hreg (by simp only [hfree]; rfl) rfl
  case metered =>
    intro ch w c q s hr hrole hc hready hturn hplan hword hop hmeter hbad hfound hwords
    show execLaunch ch s = _
    exact onLive_eq hr
      (State.withWord_metered hrole hc hready hturn hplan hword hop hmeter hbad hfound hwords _ _ _)
  case epoch =>
    intro ch w c q s hr hw hreg
    show execEpoch ch s = _
    exact onLive_word hr hw hreg rfl rfl
  case within =>
    intro ch w q f c s h
    exact State.atBoundary_within h
  case paused =>
    intro ch w q f c s h hp
    exact State.atBoundary_paused h hp
  case counted =>
    intro ch _ c s
    exact State.wordsUsed_countWord

/-! ### WAITC and its deadline (R154, R243, R244) -/

/-- A step whose aggregate is short at its deadline: MISSING and the shortfall, which is counted. -/
def State.markMissing (s : State) (ch : Nat) : State :=
  (s.modCh ch fun c =>
    { c with r := { c.r with aggStatus := orSt c.r.aggStatus stMissing }, shortfall := c.r.expected - c.r.aggCount,
             dead := true }).bump F.condMissingCount

/-- What a deadline leaves once the faults have been judged: the wait ends where it still stands. -/
def State.endStanding (s : State) (ch : Nat) : State :=
  match s.chan ch with
  | some c => if c.wait == .aggregate && c.r.exec == 2 then s.endWait ch else s
  | none => s

section
variable {s : State} {ch : Nat} {c : CondChan}

theorem State.endStanding_of_waiting (hc : s.chan ch = some c) (hwait : c.wait = .aggregate) (hexec : c.r.exec = 2) :
    s.endStanding ch = s.endWait ch := by
  simp only [State.endStanding, hc]
  exact if_pos (by simp [hwait, hexec])

theorem State.endStanding_of_left (hc : s.chan ch = some c) (hleft : c.wait ≠ .aggregate ∨ c.r.exec ≠ 2) :
    s.endStanding ch = s := by
  simp only [State.endStanding, hc]
  refine if_neg ?_
  rcases hleft with h | h
  · simp [h]
  · simp [h]

end

section
variable {s : State} {ch : Nat} {c : CondChan} (hr : Runs s .dbx) (hc : s.chan ch = some c)
include hr hc

/-- The deadline of a channel that waits for an incomplete aggregate marks what is missing, has the faults judged, and ends the
wait where they leave it standing. -/
theorem exec_waitcDeadline_due (hwait : c.wait = .aggregate) (hexec : c.r.exec = 2) (hopen : c.r.stepOpen = true) (hshort : c.done = false)
    (hdue : c.deadline ≤ s.dbx.lfn) :
    exec (.waitcDeadline ch) s = .next (((s.markMissing ch).judgeFaults ch).endStanding ch) := by
  show execWaitcDeadline ch s = _
  refine onLive_eq hr ?_
  simp only [hc]
  exact if_neg (by simp [hwait, hexec, hopen, hshort, hdue])

/-- Before its deadline a wait goes on. -/
theorem exec_waitcDeadline_early (hearly : s.dbx.lfn < c.deadline) : exec (.waitcDeadline ch) s = .next s := by
  show execWaitcDeadline ch s = _
  refine onLive_eq hr ?_
  simp only [hc]
  exact if_pos (by simp [hearly])

end

/-- Settles O45: a WAITC word by the outstanding step and its aggregate, and the deadline of a channel that waits by the count
and by what its faults leave of the wait. -/
theorem waitWordsAndDeadlines : Obligations.WaitWordsAndDeadlines := by
  refine ⟨?pass, ?complete, ?wait, ?ends, ?judged, ?early⟩
  case pass =>
    intro ch w c q s hr hw hopen
    show execWaitc ch s = _
    exact onLive_word hr hw rfl rfl (by simp only [hopen]; rfl)
  case complete =>
    intro ch w c q s hr hw hopen hdone
    show execWaitc ch s = _
    exact onLive_word hr hw rfl rfl (by simp only [hopen, hdone]; rfl)
  case wait =>
    intro ch w c q s hr hw hopen hdone
    show execWaitc ch s = _
    exact onLive_word hr hw rfl rfl (by simp only [hopen, hdone]; rfl)
  case ends =>
    intro ch c c2 s hr hc hwait hexec hopen hshort hdue hc2 hwait2 hexec2
    rw [exec_waitcDeadline_due hr hc hwait hexec hopen hshort hdue]
    exact congrArg _ (State.endStanding_of_waiting hc2 hwait2 hexec2)
  case judged =>
    intro ch c c2 s hr hc hwait hexec hopen hshort hdue hc2 hleft
    rw [exec_waitcDeadline_due hr hc hwait hexec hopen hshort hdue]
    exact congrArg _ (State.endStanding_of_left hc2 hleft)
  case early =>
    intro ch c s hr hc _ _ _ _ hearly
    exact exec_waitcDeadline_early hr hc hearly

/-! ### REDUCE, SAMPLE and ACCEPT (R156, R188, R189) -/

/-- A word whose key is not open yet opens it, without partials and with the first deadline. -/
theorem State.attachWord_opens {s : State} {part : Nat} {h : PHdr}
    (hnew : (s.d.tau.find? fun k => k.partition == part && samePKey k.first h) = none) (w step pos : Nat) (roles : Option Ivs) :
    s.attachWord part h w step pos roles = (s.modD fun d => { d with tau := d.tau ++
      [{ partition := part, first := h, atLfn := s.dbx.lfn, deadline := some s.firstDeadline, word := some w, step := step,
         pos := pos, roles := roles }] }).showTau := by
  simp only [State.attachWord, hnew]

/-- Settles O46: a REDUCE, a SAMPLE and an ACCEPT word by what its turn does, and the key that a word opens. -/
theorem reduceSampleAcceptWords : Obligations.ReduceSampleAcceptWords := by
  refine ⟨?reduce, ?sample, ?opens, ?accept⟩
  case reduce =>
    intro ch w c q s hr hw
    show execReduce ch s = _
    exact onLive_word hr hw rfl rfl rfl
  case sample =>
    intro ch w c q s hr hw
    show execSample ch s = _
    exact onLive_word hr hw rfl rfl rfl
  case opens =>
    intro part w step pos h roles s hnew
    exact State.attachWord_opens hnew w step pos roles
  case accept =>
    intro ch w c q s hr hw
    obtain ⟨hc, -⟩ := hw.chan_wait
    have hcounted : (s.countWord ch c).chan ch = some c := (State.chan_countWord ch).trans hc
    show execAccept ch s = _
    exact onLive_word hr hw rfl rfl (State.modCh_congr hcounted rfl)

/-! ### Words held for a full ring (R160) -/

/-- The end of a POST or a HALT word, which has left `t`: a channel that it has held for a full ring counts. -/
def State.countHeld (s t : State) (ch : Nat) : State :=
  match t.chan ch, s.chan ch with
  | some a, some b => if a.wait == .ring && b.wait != .ring then t.bump F.condRingWaitCount else t
  | _, _ => t

section
variable {s t : State} {ch : Nat} {a b : CondChan}

theorem State.countHeld_of_free (ha : t.chan ch = some a) (hfree : a.wait ≠ .ring) : s.countHeld t ch = t := by
  simp only [State.countHeld, ha]
  cases s.chan ch with
  | none => rfl
  | some b => exact if_neg (by simp [hfree])

theorem State.countHeld_of_held (ha : t.chan ch = some a) (hheld : a.wait = .ring) (hb : s.chan ch = some b)
    (hwas : b.wait ≠ .ring) : s.countHeld t ch = t.bump F.condRingWaitCount := by
  simp only [State.countHeld, ha, hb]
  exact if_pos (by simp [hheld, hwas])

end

/-! ### BRANCH, LOOP, VARIANT, DIGEST, POST and HALT (R150, R155, R157, R160, R226) -/

/-- A DIGEST word with its soredium there, and room for its post where it asks for one, writes and compares the digest, and
posts it. -/
theorem exec_digest_ready {s : State} {ch w : Nat} {c : CondChan} {q : Plan} {x : Soredium} (hr : Runs s .dbx)
    (hw : WordAt s ch 12 c q w)
    (hreg : (if bit w 6 then [bits w 3 3] else []).any (fun g => c.outst.any fun x => x.2 == g) = false)
    (hsor : digestSor c = some x) (hroom : bit w 7 = true → s.ringFree c.r.ring = true) :
    exec (.digest ch) s = .next
      (let t := (s.countWord ch c).modRec ch fun r =>
        { r with pc := r.pc + 1, g := r.g.set (bits w 0 3) x.digest,
                 digestBad := if bit w 6 = true then c.r.g.getD (bits w 3 3) 0 != x.digest else r.digestBad }
       if bit w 7 = true then
         t.post ch 1 0xD16E x.digest
          (x.count % 2 ^ 22 + 2 ^ 22 * b2n x.incomplete + 2 ^ 23 * b2n x.multi + 2 ^ 24 * b2n x.weight + 2 ^ 25 * b2n x.varMixed) false
       else t) := by
  have hfree : (bit w 7 && !s.ringFree c.r.ring) = false := by
    cases hpost : bit w 7 with
    | false => rfl
    | true => simp [hroom hpost]
  show execDigest ch s = _
  refine onLive_word hr hw hreg (by simp only [hsor, hfree]; rfl) ?_
  simp only [hsor]
  cases bit w 6 with
  | false => rfl
  | true => rfl

/-- Settles O47: each word by its own operands: the condition of a BRANCH, the load bit of a LOOP, the hold of a VARIANT, the
soredium of a DIGEST, the room in the ring of a POST and the event bit of a HALT. -/
theorem controlWordsMoveThePlan : Obligations.ControlWordsMoveThePlan := by
  refine ⟨?branch, ?load, ?loop, ?holds, ?chooses, ?noSor, ?digest, ?digestPost, ?post, ?postHeld, ?halt, ?haltEvent⟩
  case branch =>
    intro ch w c q s hr hw hreg
    have hjump : ((s.countWord ch c).condHolds c q w != bit w 27) = true ↔ (s.countWord ch c).condHolds c q w = !bit w 27 :=
      bne_iff_ne.trans Bool.eq_not.symm
    show execBranch ch s = _
    refine onLive_word hr hw hreg rfl ?_
    simp only [hjump]
  case load =>
    intro ch w c q s hr hw hload
    show execLoop ch s = _
    exact onLive_word hr hw rfl rfl (by simp only [hload]; rfl)
  case loop =>
    intro ch w c q s hr hw hload
    show execLoop ch s = _
    exact onLive_word hr hw rfl rfl (by simp only [hload]; rfl)
  case holds =>
    intro ch w c q s hr hw hreg hhold
    show execVariant ch s = _
    exact onLive_word hr hw hreg rfl (if_pos hhold)
  case chooses =>
    intro ch w c q s hr hw hreg hhold
    show execVariant ch s = _
    exact onLive_word hr hw hreg rfl (if_neg (not_not_intro hhold))
  case noSor =>
    intro ch w c q s hr hw hreg hsor
    show execDigest ch s = _
    exact onLive_eq hr (State.withWord_held hw hreg (by simp [hsor]))
  case digest =>
    intro ch w c q x s hr hw hreg hsor hpost
    rw [exec_digest_ready hr hw hreg hsor (by simp [hpost])]
    simp only [hpost, Bool.false_eq_true, if_false]
  case digestPost =>
    intro ch w c q x s hr hw hreg hsor hpost hroom
    rw [exec_digest_ready hr hw hreg hsor fun _ => hroom]
    simp only [hpost, if_true]
  case post =>
    intro ch w c q a s hr hw hreg hroom hresume ha hfree
    show onLive .dbx s (fun s => s.countHeld (s.withWord ch 13 _ _ _) ch) = _
    refine onLive_eq hr ?_
    rw [State.withWord_ready hw hreg (by simp [hroom]), if_neg hresume]
    exact State.countHeld_of_free ha hfree
  case postHeld =>
    intro ch w c q a s hr hw hreg hroom ha hheld
    obtain ⟨hc, hwait⟩ := hw.chan_wait
    show onLive .dbx s (fun s => s.countHeld (s.withWord ch 13 _ _ _) ch) = _
    refine onLive_eq hr ?_
    rw [State.withWord_held hw hreg (if_neg (Bool.eq_false_iff.1 hroom))]
    exact State.countHeld_of_held ha hheld hc (by simp [hwait])
  case halt =>
    intro ch w c q s hr hw hevent
    obtain ⟨hc, -⟩ := hw.chan_wait
    have hcounted : (s.countWord ch c).chan ch = some c := (State.chan_countWord ch).trans hc
    show onLive .dbx s (fun s => s.countHeld (s.withWord ch 15 _ _ _) ch) = _
    refine onLive_eq hr ?_
    rw [State.withWord_ready hw rfl (by simp [hevent])]
    simp only [hevent, Bool.false_eq_true, if_false]
    exact State.countHeld_of_free (State.chan_holdCh hcounted 5 .none) (by simp)
  case haltEvent =>
    intro ch w c q a s hr hw hevent hroom ha hfree
    show onLive .dbx s (fun s => s.countHeld (s.withWord ch 15 _ _ _) ch) = _
    refine onLive_eq hr ?_
    rw [State.withWord_ready hw rfl (by simp [hroom])]
    simp only [hevent, if_true]
    exact State.countHeld_of_free ha hfree

end Sys2Proof.Machine
end

section
/-! SUPPORT. Proofs about the inputs that a conductor holds for commit: what is held, when an input is committed and applied, and
what a notice of the other member does. -/

namespace Sys2Proof.Machine

/-! ### Held inputs (R163, R167) -/

/-- An active member that no notice waits at fixes the commit count of what it holds, and tells the shadow. -/
theorem State.holdInput_of_active {s : State} (hrole : s.condRole = 0) (hnone : s.d.notices = []) (slot : Option Nat)
    (k : InputKind) :
    s.holdInput slot k = (s.modD fun d =>
      { d with inputs := d.inputs ++ [⟨d.nextId, k, s.dbx.lfn, some (s.dbx.lfn + s.commitLf slot), slot⟩],
               nextId := d.nextId + 1 }).emit .dbx (.input 1 k (some (s.dbx.lfn + s.commitLf slot))) := by
  have hactive : s.isActive = true := by simp [State.isActive, hrole]
  simp only [State.holdInput, hrole, hnone, hactive, State.modD_condRole]
  rfl

/-! ### Commits (R163) -/

section
variable {s : State} {id t : Nat} {x : Input} (hr : Runs s .dbx) (hx : (s.d.inputs.find? fun x => x.id == id) = some x)
  (ht : x.commitAt = some t)
include hr hx ht

/-- A committed input whose count has come, with none before it, leaves the list and takes its effect. -/
theorem exec_inputCommit_due (hdue : t ≤ s.dbx.lfn) (hrole : s.condRole ≠ 3)
    (hfirst : (s.d.inputs.any fun y => y.commitAt.isSome && inputBefore y x) = false) :
    exec (.inputCommit id) s =
      .next ((s.modD fun d => { d with inputs := d.inputs.filter fun y => y.id != id }).applyInput x.kind) := by
  show execInputCommit id s = _
  refine onLive_eq hr ?_
  simp only [hx, ht]
  exact if_neg (by simp [hdue, hrole, hfirst])

/-- Before its count an input stays. -/
theorem exec_inputCommit_early (hearly : s.dbx.lfn < t) : exec (.inputCommit id) s = .next s := by
  show execInputCommit id s = _
  refine onLive_eq hr ?_
  simp only [hx, ht]
  exact if_pos (by simp [hearly])

end

/-! ### Notices (R163, R164) -/

section
variable {s : State} {k : InputKind} {commitLfn : Nat} (hr : Runs s .dbx)
include hr

/-- A notice at an active member is an input that the shadow has sent: held unless it is held already. -/
theorem exec_commitNotice_atActive (hrole : s.condRole = 0) :
    exec (.commitNoticeReceived k commitLfn) s =
      .next (if s.d.inputs.any fun x => x.kind == k then s else s.holdInput (s.inputSlot k) k) := by
  show execCommitNoticeReceived k commitLfn s = _
  exact onLive_eq hr (if_pos hrole)

variable (hrole : s.condRole = 1)
include hrole

/-- A notice at a shadow for an input that it holds without a count stores the count, or drops an input whose count has passed
and puts the groups concerned into resync. -/
theorem exec_commitNotice_held {x : Input}
    (hx : (s.d.inputs.find? fun x => x.kind == k && x.commitAt.isNone) = some x) :
    exec (.commitNoticeReceived k commitLfn) s = .next
      (if commitLfn < s.dbx.lfn then
        ((s.concerned k).map groupOf).eraseDups.foldl State.enterResync
          (s.modD fun d => { d with inputs := d.inputs.filter fun y => y.id != x.id })
      else s.modD fun d =>
        { d with inputs := d.inputs.map fun y => if y.id = x.id then { y with commitAt := some commitLfn } else y }) := by
  show execCommitNoticeReceived k commitLfn s = _
  refine onLive_eq hr ?_
  simp only [hrole, hx]
  rfl

variable (hx : (s.d.inputs.find? fun x => x.kind == k && x.commitAt.isNone) = none)
include hx

/-- A late notice at a shadow for an input that it does not hold puts the groups concerned into resync. -/
theorem exec_commitNotice_unheldLate (hlate : commitLfn < s.dbx.lfn) :
    exec (.commitNoticeReceived k commitLfn) s =
      .next (((s.concerned k).map groupOf).eraseDups.foldl State.enterResync s) := by
  show execCommitNoticeReceived k commitLfn s = _
  refine onLive_eq hr ?_
  simp only [hrole, hx, hlate]
  rfl

/-- A notice in time at a shadow for an input that it does not hold, other than a descriptor, waits for it. -/
theorem exec_commitNotice_unheld (hintime : s.dbx.lfn ≤ commitLfn)
    (hk : ∀ ring seq dsc tenant kind, k ≠ .descriptor ring seq dsc tenant kind) :
    exec (.commitNoticeReceived k commitLfn) s =
      .next (s.modD fun d => { d with notices := d.notices ++ [(k, commitLfn)] }) := by
  have hlate : ¬ commitLfn < s.dbx.lfn := Nat.not_lt.2 hintime
  show execCommitNoticeReceived k commitLfn s = _
  refine onLive_eq hr ?_
  simp only [hrole, hx, hlate]
  cases k with
  | descriptor ring seq dsc tenant kind => exact absurd rfl (hk ring seq dsc tenant kind)
  | _ => rfl

end

section
variable {s : State} {ring seq tenant kind commitLfn : Nat} {dsc : Desc}

/-- A descriptor that the active member forwards in time is held at the shadow with its count from then on (R167). -/
theorem exec_commitNotice_descriptor (hr : Runs s .dbx) (hrole : s.condRole = 1)
    (hx : (s.d.inputs.find? fun x => x.kind == .descriptor ring seq dsc tenant kind && x.commitAt.isNone) = none)
    (hintime : s.dbx.lfn ≤ commitLfn) :
    exec (.commitNoticeReceived (.descriptor ring seq dsc tenant kind) commitLfn) s =
      .next (s.modD fun d => { d with
        inputs := d.inputs ++ [⟨d.nextId, .descriptor ring seq dsc tenant kind, s.dbx.lfn, some commitLfn,
          s.inputSlot (.descriptor ring seq dsc tenant kind)⟩],
        nextId := d.nextId + 1 }) := by
  have hlate : ¬ commitLfn < s.dbx.lfn := Nat.not_lt.2 hintime
  show execCommitNoticeReceived _ commitLfn s = _
  refine onLive_eq hr ?_
  simp only [hrole, hx, hlate]
  rfl

end

/-! ### Inputs without a notice (R163) -/

/-- A shadow sends the active member an input whose notice has been out for twice commit_lf, and no other. -/
theorem exec_commitNoticeTimeout {s : State} {id : Nat} {x : Input} (hr : Runs s .dbx)
    (hx : (s.d.inputs.find? fun x => x.id == id) = some x) (hrole : s.condRole = 1) (hnone : x.commitAt = none) :
    exec (.commitNoticeTimeout id) s =
      .next (if x.heldAt + 2 * s.commitLf x.slot ≤ s.dbx.lfn then s.emit .dbx (.input 2 x.kind none) else s) := by
  show execCommitNoticeTimeout id s = _
  refine onLive_eq hr ?_
  simp [hx, hrole, hnone]

/-- Settles O41: a contribution by its position, its copy and the apex, a layout report by the apex, a held input by the member's
role, a commit by its count, and a notice by the role, the input that it names and its count. -/
theorem conductorInputsAreHeldAndCommitted : Obligations.ConductorInputsAreHeldAndCommitted := by
  refine ⟨?late, ?second, ?aggregate, ?forward, ?layout, ?layoutUp, ?hold, ?commit, ?stay, ?sent, ?known, ?counted, ?dropped,
    ?resync, ?descriptor, ?notice, ?timeout, ?patient⟩
  case late =>
    intro pos second c s hr hroles
    show execCompletionContribution pos second c s = _
    exact onLive_eq hr (if_pos hroles)
  case second =>
    intro pos c s hr hroles
    show execCompletionContribution pos true c s = _
    exact onLive_eq hr (if_neg (Bool.eq_false_iff.1 hroles))
  case aggregate =>
    intro pos c k s hr hroles hapex
    show execCompletionContribution pos false c s = _
    refine onLive_eq hr ((if_neg (Bool.eq_false_iff.1 hroles)).trans ?_)
    simp only [hapex]
    rfl
  case forward =>
    intro pos c s hr hroles hapex
    show execCompletionContribution pos false c s = _
    refine onLive_eq hr ((if_neg (Bool.eq_false_iff.1 hroles)).trans ?_)
    simp only [hapex]
    rfl
  case layout =>
    intro partition uid port dir k degraded s hr hapex
    show execLayoutReport partition uid port dir degraded s = _
    refine onLive_eq hr ?_
    simp only [hapex]
  case layoutUp =>
    intro partition uid port dir degraded s hr hapex
    show execLayoutReport partition uid port dir degraded s = _
    refine onLive_eq hr ?_
    simp only [hapex]
  case hold =>
    intro slot k s hrole hnone
    exact State.holdInput_of_active hrole hnone slot k
  case commit =>
    intro id t x s hr hx ht hdue hrole hfirst
    exact exec_inputCommit_due hr hx ht hdue hrole hfirst
  case stay =>
    intro id t x s hr hx ht hearly
    exact exec_inputCommit_early hr hx ht hearly
  case sent =>
    intro k commitLfn s hr hrole hnew
    rw [exec_commitNotice_atActive hr hrole, if_neg (Bool.eq_false_iff.1 hnew)]
  case known =>
    intro k commitLfn s hr hrole hheld
    rw [exec_commitNotice_atActive hr hrole, if_pos hheld]
  case counted =>
    intro k commitLfn x s hr hrole hx hintime
    rw [exec_commitNotice_held hr hrole hx, if_neg (Nat.not_lt.2 hintime)]
  case dropped =>
    intro k commitLfn x s hr hrole hx hlate
    rw [exec_commitNotice_held hr hrole hx, if_pos hlate]
  case resync =>
    intro k commitLfn s hr hrole hx hlate
    exact exec_commitNotice_unheldLate hr hrole hx hlate
  case descriptor =>
    intro ring seq tenant kind commitLfn dsc s hr hrole hx hintime
    exact exec_commitNotice_descriptor hr hrole hx hintime
  case notice =>
    intro k commitLfn s hr hrole hx hintime hk
    exact exec_commitNotice_unheld hr hrole hx hintime hk
  case timeout =>
    intro id x s hr hx hrole hnone hdue
    rw [exec_commitNoticeTimeout hr hx hrole hnone, if_pos hdue]
  case patient =>
    intro id x s hr hx hrole hnone hearly
    rw [exec_commitNoticeTimeout hr hx hrole hnone, if_neg (Nat.not_le.2 hearly)]

end Sys2Proof.Machine
end

section
/-! SUPPORT. Proofs about the conductor's plan store: PLAN_LOAD and PLAN_RETIRE, reloaded words and the copies of the twin. -/

namespace Sys2Proof.Machine

/-- The row of a committed descriptor in flight answers what it makes of the state in which that descriptor has begun. -/
theorem onLive_desc {s t : State} {p : Part} {r seq op : Nat} {f : InFlight} (hr : Runs s p) (ha : Asked s p r seq op f)
    {g : InFlight → State → State} (h : g f (s.begin_ p r seq) = t) : onLive p s (fun s => s.withDesc p r seq op g) = .next t :=
  onLive_eq hr ((State.withDesc_asked ha g).trans h)

/-! ### PLAN_RETIRE (R146) -/

section
variable {s : State} {ring seq : Nat} {f : InFlight} (hr : Runs s .dbx) (ha : Asked s .dbx ring seq 0x11 f)
include hr ha

/-- PLAN_RETIRE by the plan that stands at its index. -/
theorem exec_planRetire_of_some {q : Plan} (hq : fget? s.d.plans (opnd f.desc 40 2) = some q) :
    exec (.planRetire ring seq) s = .next
      (if q.retiring = true then (s.begin_ .dbx ring seq).finish .dbx ring seq 0x13 0 0
       else if q.tenant ≠ f.tenant then (s.begin_ .dbx ring seq).finish .dbx ring seq 7 0 0
       else ((((s.begin_ .dbx ring seq).modD fun d =>
          { d with plans := fset d.plans (opnd f.desc 40 2) { q with retiring := true } }).showPlan).dropPlan
            (opnd f.desc 40 2)).finish .dbx ring seq 0 0 0) := by
  show execPlanRetire ring seq s = _
  refine onLive_desc hr ha ?_
  simp only [State.begin_d, hq]

end

/-- A retired plan without channels leaves the store, which shows it. -/
theorem State.dropPlan_of_retired {s : State} {i : Nat} {q : Plan} (hq : fget? s.d.plans i = some q) (hret : q.retiring = true)
    (hfree : s.planChans i = []) : s.dropPlan i = (s.modD fun d => { d with plans := fdel d.plans i }).showStore q.slot := by
  simp only [State.dropPlan, hq]
  exact if_pos (by simp [hret, hfree])

/-- Settles O43: PLAN_LOAD by its checks in their order, PLAN_RETIRE by the plan at its index, a reloaded word by the channel that
waits for it, and the copy of the twin by the member's role and its records. -/
theorem planStoreLoadsAndRetires : Obligations.PlanStoreLoadsAndRetires := by
  refine ⟨?foreign, ?load, ?retire, ?notOwn, ?already, ?notBound, ?drop, ?reload, ?copy, ?record⟩
  case foreign =>
    intro ring seq f s hr ha hten
    show execPlanLoad ring seq s = _
    exact onLive_desc hr ha (if_pos hten)
  case load =>
    intro ring seq f s hr ha hten
    show execPlanLoad ring seq s = _
    refine onLive_desc hr ha ((if_neg (not_not_intro hten)).trans ?_)
    simp only [Bool.not_eq_true']
  case retire =>
    intro ring seq f q s hr ha hq hret hten
    rw [exec_planRetire_of_some hr ha hq, if_neg (Bool.eq_false_iff.1 hret), if_neg (not_not_intro hten)]
  case notOwn =>
    intro ring seq f q s hr ha hq hret hten
    rw [exec_planRetire_of_some hr ha hq, if_neg (Bool.eq_false_iff.1 hret), if_pos hten]
  case already =>
    intro ring seq f q s hr ha hq hret
    rw [exec_planRetire_of_some hr ha hq, if_pos hret]
  case notBound =>
    intro ring seq f s hr ha hq
    show execPlanRetire ring seq s = _
    refine onLive_desc hr ha ?_
    simp only [State.begin_d, hq]
  case drop =>
    intro i q s hq hret hfree
    exact State.dropPlan_of_retired hq hret hfree
  case reload =>
    intro ch c s hr hc hwait
    show execStoreReloadComplete ch s = _
    refine onLive_eq hr ?_
    simp only [hc]
    exact if_pos (by simp [hwait])
  case copy =>
    intro records images s hr hup hrole
    show execShadowCopyComplete records images s = _
    refine onLive_eq hr (if_neg ?_)
    rcases hrole with h | h
    · simp [hup, h]
    · simp [hup, h]
  case record =>
    intro x s
    rfl

end Sys2Proof.Machine
end

section
/-! SUPPORT. Proofs about the life of a channel: its creation, binding, arming, pause, resumption and end, the quarantine of its
index, and EPOCH_SWAP. -/

namespace Sys2Proof.Machine

/-! ### Descriptors that name a channel (R207, R217) -/

section
variable {s : State} {x : InFlight} (ring seq : Nat)

/-- A descriptor whose channel checks fail completes with their status. -/
theorem State.withChan_refused {g : Nat} (hg : gateStatus (s.condTenant x.desc.handle) x.tenant x.kind = g) (hne : g ≠ 0)
    (f : CondChan → State → State) : s.withChan ring seq x f = s.finish .dbx ring seq g 0 0 := by
  subst hg
  exact if_pos hne

/-- One whose channel checks hold acts on the channel. -/
theorem State.withChan_admitted {c : CondChan} (hg : gateStatus (s.condTenant x.desc.handle) x.tenant x.kind = 0)
    (hc : s.chan (hIndex x.desc.handle) = some c) (f : CondChan → State → State) : s.withChan ring seq x f = f c s := by
  refine (if_neg (not_not_intro hg)).trans ?_
  simp only [hc]

end

section
variable {s t : State} {ring seq op : Nat} {x : InFlight} {f : InFlight → CondChan → State → State} (hr : Runs s .dbx)
  (ha : Asked s .dbx ring seq op x)
include hr ha

theorem onLive_chan_refused {g : Nat}
    (hg : gateStatus ((s.begin_ .dbx ring seq).condTenant x.desc.handle) x.tenant x.kind = g) (hne : g ≠ 0) :
    onLive .dbx s (fun s => s.withDesc .dbx ring seq op fun x s => s.withChan ring seq x (f x)) =
      .next ((s.begin_ .dbx ring seq).finish .dbx ring seq g 0 0) :=
  onLive_desc hr ha (State.withChan_refused ring seq hg hne (f x))

theorem onLive_chan {c : CondChan} (hg : gateStatus ((s.begin_ .dbx ring seq).condTenant x.desc.handle) x.tenant x.kind = 0)
    (hc : (s.begin_ .dbx ring seq).chan (hIndex x.desc.handle) = some c) (h : f x c (s.begin_ .dbx ring seq) = t) :
    onLive .dbx s (fun s => s.withDesc .dbx ring seq op fun x s => s.withChan ring seq x (f x)) = .next t :=
  onLive_desc hr ha ((State.withChan_admitted ring seq hg hc (f x)).trans h)

end

/-! ### CH_CREATE (R211) -/

section
variable {s : State} {f : InFlight} (ring seq : Nat)

/-- Without a free index, or with the slot's share spent, the conductor creates no channel. -/
theorem State.condCreate_full (h : 2 ^ 18 ≤ s.freeIndex ∨
    s.rd F.condShareChChannels (opnd f.desc 40 1) ≤ (s.d.chans.filter fun x => x.2.r.slot == opnd f.desc 40 1).length) :
    s.condCreate ring seq f = s.finish .dbx ring seq 0xA 0 0 :=
  if_pos (by simpa using h)

/-- With both, the conductor's lowest free index takes its generation. -/
theorem State.condCreate_free (hindex : s.freeIndex < 2 ^ 18)
    (hshare : (s.d.chans.filter fun x => x.2.r.slot == opnd f.desc 40 1).length < s.rd F.condShareChChannels (opnd f.desc 40 1)) :
    s.condCreate ring seq f = ((s.modD fun x => { x with
      chans := fset x.chans s.freeIndex
        { state := 1, tenant := f.tenant,
          r := { handle := mkHandle (s.gen .dbx s.freeIndex) s.freeIndex, slot := opnd f.desc 40 1,
                 attempt := fgetD s.d.attempts s.freeIndex 0 } } }).countCreate .dbx).finish .dbx ring seq 0
        (mkHandle (s.gen .dbx s.freeIndex) s.freeIndex) 0 :=
  if_neg (by simpa using ⟨hindex, hshare⟩)

/-- The channel that a TSU's CH_CREATE makes: the index under the generation of the handle. -/
def State.tsuCreated (s : State) (f : InFlight) : State :=
  (s.modT fun t => { t with
    chans := fset t.chans (hIndex f.desc.handle)
      { state := 1, gen := hGen f.desc.handle, tenant := f.tenant, ctx := f.desc.ext.take 64 } }).modNode .tsu fun n =>
    { n with gens := fset n.gens (hIndex f.desc.handle) (hGen f.desc.handle) }

/-- A free index of a TSU out of quarantine takes the handle's generation, told to the package where it is new. -/
theorem State.tsuCreate_free (hfree : fget? s.t.chans (hIndex f.desc.handle) = none)
    (hquar : s.inQuarantine .tsu (hIndex f.desc.handle) = false) :
    s.tsuCreate ring seq f = ((if s.gen .tsu (hIndex f.desc.handle) = hGen f.desc.handle then s.tsuCreated f
      else (s.tsuCreated f).genUpdate (hIndex f.desc.handle)).countCreate .tsu).finish .tsu ring seq 0 0 0 :=
  (if_neg (by simp [hfree])).trans (if_neg (Bool.eq_false_iff.1 hquar))

end

/-! ### CH_BIND (R206, R213, R215) -/

section
variable {s : State} {f : InFlight} (ring seq : Nat)

/-- A TSU binds a current channel of the tenant, or another under a manager, unless an entry of it is armed. -/
theorem State.tsuBind_of_gate (hg : gateStatus (s.tsuTenant f.desc.handle false) f.tenant f.kind = 0) :
    s.tsuBind ring seq f =
      if (s.t.arm.any fun x => x.2.cz.handle == f.desc.handle) = true then s.finish .tsu ring seq 9 0 0
      else (s.modT fun t => { t with
        chans := fmod t.chans (hIndex f.desc.handle) { state := 1, gen := hGen f.desc.handle, tenant := 0 } fun c =>
          { c with state := 2, targets := bitsOfWords (f.desc.ext.take 32) 8,
                   ctx := if f.desc.extLen = 96 then f.desc.ext.drop 32 else c.ctx } }).finish .tsu ring seq 0 0 0 :=
  if_neg (not_not_intro hg)

end

section
variable {s : State} {d : Desc} {c : CondChan} (ring seq : Nat)

/-- A channel that is neither created nor at rest is not bound. -/
theorem State.condBind_busy (h : (c.state == 1 || restful c) = false) :
    s.condBind ring seq d c = s.finish .dbx ring seq 9 0 0 :=
  if_pos (by simp only [h]; rfl)

variable (hrest : (c.state == 1 || restful c) = true) (hgrid : s.rd F.condGridSlot (opnd d 44 2) = c.r.slot)
include hrest hgrid

/-- Without a plan of the slot at the index nothing is bound. -/
theorem State.condBind_noPlan
    (hq : ((fget? s.d.plans (bits (opnd d 40 2) 0 12)).filter fun q => q.slot == c.r.slot && !q.retiring) = none) :
    s.condBind ring seq d c = s.finish .dbx ring seq 0x13 0 0 := by
  refine (if_neg (by simp only [hrest]; decide)).trans ((if_neg (not_not_intro hgrid)).trans ?_)
  simp only [hq]

/-- The conductor binds a created or resting channel to a plan of its slot with room for it, and drops a plan that it leaves. -/
theorem State.condBind_bound {q : Plan}
    (hq : ((fget? s.d.plans (bits (opnd d 40 2) 0 12)).filter fun q => q.slot == c.r.slot && !q.retiring) = some q)
    (hvariant : opnd d 42 1 < q.variants.length)
    (hring : 256 ≤ ring ∨ (s.ringKind .dbx (opnd d 43 1) = 2 ∧ (s.ring .dbx (opnd d 43 1)).tenant = c.tenant))
    (hshare : ((s.d.chans.filter fun x => x.2.state == 2 && x.1 != hIndex d.handle).filter fun x =>
      x.2.r.slot == c.r.slot).length < s.rd F.condShareChChannels c.r.slot)
    (hmax : ((s.d.chans.filter fun x => x.2.state == 2 && x.1 != hIndex d.handle).filter fun x =>
      x.2.r.plan == bits (opnd d 40 2) 0 12).length < q.maxChannels)
    (hreach : q.reaches (s.condFrame (opnd d 44 2)) = false) :
    s.condBind ring seq d c =
      (let b := (s.modD fun x => { x with
         chans := fset x.chans (hIndex d.handle)
           { state := 2, tenant := c.tenant, r := bindRecord c.r (bits (opnd d 40 2) 0 12) d, chosen := opnd d 42 1,
             aborts := c.aborts } }).showBound c.r.slot
       if c.state = 2 then b.dropPlan c.r.plan else b).finish .dbx ring seq 0 0 0 := by
  have hpost : ¬ (decide (ring < 256) && (decide (s.ringKind .dbx (opnd d 43 1) ≠ 2)
      || decide ((s.ring .dbx (opnd d 43 1)).tenant ≠ c.tenant))) = true := by
    rcases hring with h | ⟨hkind, hten⟩
    · simp [h]
    · simp [hkind, hten]
  refine (if_neg (by simp only [hrest]; decide)).trans ((if_neg (not_not_intro hgrid)).trans ?_)
  simp only [hq]
  refine (if_neg (Nat.not_le.2 hvariant)).trans ((if_neg hpost).trans (if_neg ?_))
  simp only [hreach, Bool.or_false, Bool.or_eq_true, decide_eq_true_eq, not_or]
  exact ⟨Nat.not_le.2 hshare, Nat.not_le.2 hmax⟩

end

/-! ### The DESTROYED event (R216) -/

section
variable {s : State} {index : Nat} {x : Destroyed} (hr : Runs s .dbx) (hx : fget? s.d.destroyed index = some x)
  (htd : x.td ≤ s.dbx.lfn)
include hr hx htd

/-- At T_d a channel that was not bound ends without an event. -/
theorem exec_destroyedEvent_unbound (hbound : x.bound = false) :
    exec (.destroyedEvent index) s =
      .next ((s.modD fun d => { d with destroyed := fdel d.destroyed index }).finish .dbx x.ring x.seq 0 x.td
        ((s.modD fun d => { d with destroyed := fdel d.destroyed index }).quarantineLf .dbx)) := by
  show execDestroyedEvent index s = _
  refine onLive_eq hr ?_
  simp only [hx]
  refine (if_neg (by simp [htd, hbound])).trans ?_
  simp only [hbound]
  rfl

/-- At T_d a bound one posts its event, where its ring has room, before the descriptor completes. -/
theorem exec_destroyedEvent_bound (hbound : x.bound = true) (hroom : s.ringFree x.r.ring = true) (hactive : s.isActive = true) :
    exec (.destroyedEvent index) s =
      .next
        (let t := (s.modD fun d => { d with destroyed := fdel d.destroyed index }).writeCompletion .dbx x.r.ring
           (chanPost x.r 2 0x84 0 0 true)
         t.finish .dbx x.ring x.seq 0 x.td (t.quarantineLf .dbx)) := by
  have hstill (f : DbxState → DbxState) : (s.modD f).isActive = true := by simpa [State.isActive] using hactive
  show execDestroyedEvent index s = _
  refine onLive_eq hr ?_
  simp only [hx]
  refine (if_neg (by simp [htd, hroom])).trans ?_
  simp only [hbound, hstill]
  rfl

end

/-! ### The life of a channel -/

/-- Settles O52: each descriptor by the part that runs it, the channel checks and the channel's own state, the DESTROYED event by
the binding of what has ended, and the end of a quarantine by its count. -/
theorem channelsLiveAndEnd : Obligations.ChannelsLiveAndEnd := by
  refine ⟨?create, ?full, ?tsuCreate, ?tsuCreateNew, ?tsuTaken, ?tsuQuarantined, ?tsuBind, ?tsuBindRefused, ?tsuBindArmed, ?bind,
    ?rebind, ?bindRefused, ?bindBusy, ?bindNoPlan, ?arm, ?armBusy, ?armNoWord, ?armRefused, ?pause, ?pauseReplay, ?pausePaused,
    ?pauseResting, ?pauseRefused, ?resume, ?resumeReplay, ?resumeRestore, ?resumeNot, ?resumeRefused, ?destroy, ?destroyRefused,
    ?tsuDestroy, ?tsuDestroyRefused, ?eventUnbound, ?eventBound, ?quarantine, ?quarantineAll, ?epochSwap⟩
  case create =>
    intro ring seq f s hr ha hindex hshare
    show execChCreate .dbx ring seq s = _
    exact onLive_desc hr ha (State.condCreate_free ring seq hindex hshare)
  case full =>
    intro ring seq f s hr ha hfull
    show execChCreate .dbx ring seq s = _
    exact onLive_desc hr ha (State.condCreate_full ring seq hfull)
  case tsuCreate =>
    intro ring seq f s hr ha hfree hquar hgen
    show execChCreate .tsu ring seq s = _
    refine onLive_desc hr ha ((State.tsuCreate_free ring seq hfree hquar).trans ?_)
    rw [if_pos hgen]
    rfl
  case tsuCreateNew =>
    intro ring seq f s hr ha hfree hquar hgen
    show execChCreate .tsu ring seq s = _
    refine onLive_desc hr ha ((State.tsuCreate_free ring seq hfree hquar).trans ?_)
    rw [if_neg hgen]
    rfl
  case tsuTaken =>
    intro ring seq f s hr ha htaken
    show execChCreate .tsu ring seq s = _
    exact onLive_desc hr ha (if_pos htaken)
  case tsuQuarantined =>
    intro ring seq f s hr ha hfree hquar
    show execChCreate .tsu ring seq s = _
    exact onLive_desc hr ha ((if_neg (by simp only [hfree]; decide)).trans (if_pos hquar))
  case tsuBind =>
    intro ring seq f s hr ha hg harmed
    show execChBind .tsu ring seq s = _
    exact onLive_desc hr ha ((State.tsuBind_of_gate ring seq hg).trans (if_neg (Bool.eq_false_iff.1 harmed)))
  case tsuBindRefused =>
    intro ring seq f g s hr ha hg hne
    subst hg
    show execChBind .tsu ring seq s = _
    exact onLive_desc hr ha (if_pos hne)
  case tsuBindArmed =>
    intro ring seq f s hr ha hg harmed
    show execChBind .tsu ring seq s = _
    exact onLive_desc hr ha ((State.tsuBind_of_gate ring seq hg).trans (if_pos harmed))
  case bind =>
    intro ring seq f c q s hr ha hg hc hrest hgrid hq hvariant hring hshare hmax hreach hstate
    show execChBind .dbx ring seq s = _
    refine onLive_chan hr ha hg hc
      ((State.condBind_bound ring seq hrest hgrid hq hvariant hring hshare hmax hreach).trans ?_)
    simp only [if_neg hstate]
  case rebind =>
    intro ring seq f c q s hr ha hg hc hrest hgrid hq hvariant hring hshare hmax hreach hstate
    show execChBind .dbx ring seq s = _
    refine onLive_chan hr ha hg hc
      ((State.condBind_bound ring seq hrest hgrid hq hvariant hring hshare hmax hreach).trans ?_)
    simp only [if_pos hstate]
  case bindRefused =>
    intro ring seq f g s hr ha hg hne
    show execChBind .dbx ring seq s = _
    exact onLive_chan_refused hr ha hg hne
  case bindBusy =>
    intro ring seq f c s hr ha hg hc hbusy
    show execChBind .dbx ring seq s = _
    exact onLive_chan hr ha hg hc (State.condBind_busy ring seq hbusy)
  case bindNoPlan =>
    intro ring seq f c s hr ha hg hc hrest hgrid hq
    show execChBind .dbx ring seq s = _
    exact onLive_chan hr ha hg hc (State.condBind_noPlan ring seq hrest hgrid hq)
  case arm =>
    intro ring seq f c s hr ha hg hc hstate hrest hword
    show execChArm ring seq s = _
    exact onLive_chan hr ha hg hc ((if_neg (by simp [hstate, hrest])).trans (if_neg (by simp only [hword]; decide)))
  case armBusy =>
    intro ring seq f c s hr ha hg hc hbusy
    show execChArm ring seq s = _
    exact onLive_chan hr ha hg hc (if_pos (by simpa [Bool.and_eq_true, imp_iff_not_or] using hbusy))
  case armNoWord =>
    intro ring seq f c s hr ha hg hc hstate hrest hword
    show execChArm ring seq s = _
    exact onLive_chan hr ha hg hc ((if_neg (by simp [hstate, hrest])).trans (if_pos (by simp only [hword]; decide)))
  case armRefused =>
    intro ring seq f g s hr ha hg hne
    show execChArm ring seq s = _
    exact onLive_chan_refused hr ha hg hne
  case pause =>
    intro ring seq f c s hr ha hg hc hstate hrest hpaused hreplay hnew
    show execChPause ring seq s = _
    exact onLive_chan hr ha hg hc ((if_neg (by simp [hstate, hrest])).trans ((if_neg hpaused).trans
      ((if_neg (Bool.eq_false_iff.1 hnew)).trans (if_neg hreplay))))
  case pauseReplay =>
    intro ring seq f c s hr ha hg hc hstate hreplay hnew
    have hrest : restful c = false := by simp [restful, hreplay]
    show execChPause ring seq s = _
    exact onLive_chan hr ha hg hc ((if_neg (by simp [hstate, hrest])).trans ((if_neg (by simp [hreplay])).trans
      ((if_neg (Bool.eq_false_iff.1 hnew)).trans (if_pos hreplay))))
  case pausePaused =>
    intro ring seq f c s hr ha hg hc hstate hpaused
    have hrest : restful c = false := by simp [restful, hpaused]
    show execChPause ring seq s = _
    exact onLive_chan hr ha hg hc ((if_neg (by simp [hstate, hrest])).trans (if_pos hpaused))
  case pauseResting =>
    intro ring seq f c s hr ha hg hc hrest
    show execChPause ring seq s = _
    exact onLive_chan hr ha hg hc (if_pos (by simpa using hrest))
  case pauseRefused =>
    intro ring seq f g s hr ha hg hne
    show execChPause ring seq s = _
    exact onLive_chan_refused hr ha hg hne
  case resume =>
    intro ring seq f c s hr ha hg hc hstate hpaused hlost hresume
    show execChResume ring seq s = _
    refine onLive_chan hr ha hg hc ((if_neg (by simp [hstate, hpaused, hlost])).trans ?_)
    simp only [if_neg hresume]
  case resumeReplay =>
    intro ring seq f c s hr ha hg hc hstate hpaused hlost hresume hfaulted
    show execChResume ring seq s = _
    refine onLive_chan hr ha hg hc ((if_neg (by simp [hstate, hpaused, hlost])).trans ?_)
    simp only [if_pos hresume, if_pos hfaulted]
  case resumeRestore =>
    intro ring seq f c s hr ha hg hc hstate hpaused hlost hresume hfaulted
    show execChResume ring seq s = _
    refine onLive_chan hr ha hg hc ((if_neg (by simp [hstate, hpaused, hlost])).trans ?_)
    simp only [if_pos hresume, if_neg (Bool.eq_false_iff.1 hfaulted)]
  case resumeNot =>
    intro ring seq f c s hr ha hg hc hnot
    show execChResume ring seq s = _
    exact onLive_chan hr ha hg hc (if_pos (by simpa [or_assoc] using hnot))
  case resumeRefused =>
    intro ring seq f g s hr ha hg hne
    show execChResume ring seq s = _
    exact onLive_chan_refused hr ha hg hne
  case destroy =>
    intro ring seq f c s hr ha hg hc hnew
    show execChDestroy .dbx ring seq s = _
    exact onLive_desc hr ha ((if_neg (Bool.eq_false_iff.1 hnew)).trans (State.withChan_admitted ring seq hg hc _))
  case destroyRefused =>
    intro ring seq f g s hr ha hg hne hnew
    show execChDestroy .dbx ring seq s = _
    exact onLive_desc hr ha ((if_neg (Bool.eq_false_iff.1 hnew)).trans (State.withChan_refused ring seq hg hne _))
  case tsuDestroy =>
    intro ring seq f c s hr ha hg hc
    show execChDestroy .tsu ring seq s = _
    refine onLive_desc hr ha ((if_neg (not_not_intro hg)).trans ?_)
    simp only [hc]
  case tsuDestroyRefused =>
    intro ring seq f g s hr ha hg hne
    subst hg
    show execChDestroy .tsu ring seq s = _
    exact onLive_desc hr ha (if_pos hne)
  case eventUnbound =>
    intro index x s hr hx htd hbound
    exact exec_destroyedEvent_unbound hr hx htd hbound
  case eventBound =>
    intro index x s hr hx htd hbound hroom hactive
    exact exec_destroyedEvent_bound hr hx htd hbound hroom hactive
  case quarantine =>
    intro p index t s hr ht hend
    show execQuarantineEnd p index s = _
    refine onLive_eq hr ?_
    simp only [ht]
    exact if_neg (Nat.not_lt.2 hend)
  case quarantineAll =>
    intro p index t s hr hnone ht hend
    show execQuarantineEnd p index s = _
    refine onLive_eq hr ?_
    simp only [hnone, ht]
    exact if_neg (Nat.not_lt.2 hend)
  case epochSwap =>
    intro ring seq f s hr ha
    show execEpochSwap ring seq s = _
    exact onLive_desc hr ha rfl

end Sys2Proof.Machine
end

section
/-! SUPPORT. Proofs about the die's front end and the broadcasts of results: contribution words, copies of a broadcast at a
distributor and at a TSU, result slots, and the logits that a die holds. -/

namespace Sys2Proof.Machine

/-! ### Contribution words (R169, R328) -/

/-- The checks that let a contribution word in, negated one by one, turn it away. -/
theorem contributionWord_turnedAway_iff {s : State} {hdr : CtHdr} :
    (!s.hasRole || (s.chanOf hdr.handle).isNone || decide (s.attempt (hIndex hdr.handle) ≠ hdr.attempt)
        || s.t.closed.any (samePKey (rfeHdr hdr (s.rd F.roleRole)))) = true ↔
      s.hasRole = false ∨ s.chanOf hdr.handle = none ∨ s.attempt (hIndex hdr.handle) ≠ hdr.attempt ∨
        s.t.closed.any (samePKey (rfeHdr hdr (s.rd F.roleRole))) = true := by
  simp only [Bool.or_eq_true, Bool.not_eq_true', Option.isNone_iff_eq_none, decide_eq_true_eq, or_assoc]

section
variable {s : State} {hdr : CtHdr} (data : List Byte) (hr : Runs s .tsu)
include hr

/-- A contribution word that is let in enters its key; with the last word the key closes. -/
theorem exec_contributionWord_enters (last : Bool) (hrole : s.hasRole = true) (hchan : (s.chanOf hdr.handle).isSome = true)
    (hatt : s.attempt (hIndex hdr.handle) = hdr.attempt)
    (hopen : s.t.closed.any (samePKey (rfeHdr hdr (s.rd F.roleRole))) = false) :
    exec (.contributionWord hdr data last) s = .next (
      if last then s.closeRfe (rfeWord ((s.t.rfe.find? fun x => samePKey x.hdr (rfeHdr hdr (s.rd F.roleRole))).getD
        (rfeOpen hdr (s.rd F.roleRole))) hdr (s.rd F.roleRole) data)
      else (s.modT fun t => { t with rfe := (t.rfe.filter fun x => !samePKey x.hdr (rfeHdr hdr (s.rd F.roleRole))) ++
        [rfeWord ((s.t.rfe.find? fun x => samePKey x.hdr (rfeHdr hdr (s.rd F.roleRole))).getD
          (rfeOpen hdr (s.rd F.roleRole))) hdr (s.rd F.roleRole) data] }).showRfe) := by
  show execContributionWord hdr data last s = _
  refine onLive_eq hr (if_neg fun h => ?_)
  rcases contributionWord_turnedAway_iff.1 h with h | h | h | h
  · simp [hrole] at h
  · simp [h] at hchan
  · exact h hatt
  · simp [hopen] at h

end

/-! ### A broadcast at a distributor (R123, R188) -/

section
variable {s : State} {at_ : BcastAt} {h : PHdr} {body : List Nat} {b : BcastKey} (c : Content)

/-- A share that is not valid sends a broadcast nowhere. -/
theorem State.passDown_of_not_valid (hv : s.is F.shareValid at_.share = false) : s.passDown at_ h body c = s :=
  if_pos (by simp [hv])

variable (hv : s.is F.shareValid at_.share = true)
include hv

/-- The first copy of a broadcast is kept and goes down to the roles of its scope. -/
theorem State.passDown_first
    (hk : (s.d.bcasts.filter fun b => s.dbx.lfn < b.atLfn + max 1 (s.rd F.czCfgWindow)).find?
      (fun b => b.partition == s.rd F.sharePartition at_.share && samePKey b.hdr h) = none) :
    s.passDown at_ h body c =
      (s.modD fun d => { d with bcasts := (s.d.bcasts.filter fun b => s.dbx.lfn < b.atLfn + max 1 (s.rd F.czCfgWindow)) ++
        [⟨h, body, s.dbx.lfn, at_.port, s.rd F.sharePartition at_.share⟩] }).sendDown (s.rd F.sharePartition at_.share) 3
        (s.scopeRoles (s.rd F.sharePartition at_.share) h.scope h.domain h.blkA) c := by
  refine (if_neg (by simp [hv])).trans ?_
  simp only [hk]

variable (hk : (s.d.bcasts.filter fun b => s.dbx.lfn < b.atLfn + max 1 (s.rd F.czCfgWindow)).find?
  (fun b => b.partition == s.rd F.sharePartition at_.share && samePKey b.hdr h) = some b)
include hk

/-- A second copy that equals the first changes nothing. -/
theorem State.passDown_equal (heq : b.hdr = h ∧ b.body = body) : s.passDown at_ h body c = s := by
  refine (if_neg (by simp [hv])).trans ?_
  simp only [hk]
  exact if_pos (by simp [heq])

/-- A second copy that differs is pair divergence. -/
theorem State.passDown_differs (hne : ¬(b.hdr = h ∧ b.body = body)) :
    s.passDown at_ h body c =
      (s.divLog h.handle h.stepLo b.port at_.port (firstDiff (bcastBytes b.hdr b.body) (bcastBytes h body))).pairDiverges := by
  refine (if_neg (by simp [hv])).trans ?_
  simp only [hk]
  exact if_neg (by simpa using hne)

end

section
variable {s : State} (port share : Nat) (hdr : PHdr) (hr : Runs s .dbx)
include hr

/-- A result at a distributor is passed down. -/
theorem exec_resultBroadcast_dbx (body : List Byte) (nowSub : Nat) :
    exec (.resultBroadcast ⟨.dbx, port, share⟩ hdr body nowSub) s =
      .next (s.passDown ⟨.dbx, port, share⟩ hdr body (.result hdr body)) := by
  show execResultBroadcast ⟨.dbx, port, share⟩ hdr body nowSub s = _
  exact onLive_live hr _

/-- A pass 2 broadcast at a distributor is passed down. -/
theorem exec_pass2Broadcast_dbx (m w : Nat) (skip : Bool) :
    exec (.pass2Broadcast ⟨.dbx, port, share⟩ hdr m w skip) s =
      .next (s.passDown ⟨.dbx, port, share⟩ { hdr with op := opPass2 } [m, w, b2n skip]
        (.pass2 { hdr with op := opPass2 } m w skip)) := by
  show execPass2Broadcast ⟨.dbx, port, share⟩ hdr m w skip s = _
  exact onLive_live hr _

end

/-! ### A result at a die (R188, R329) -/

/-- A result that a die acts on takes the lowest free slot where none waits, or waits for one. -/
def State.takeResult (s : State) (h : PHdr) (body : List Nat) : State :=
  match s.freeSlot, s.t.slotWait with
  | some i, [] => s.fillSlot i h body
  | _, _ => (s.bump F.busResultWaitCount).modT fun t => { t with slotWait := t.slotWait ++ [(h, body)] }

section
variable {s : State} (h : PHdr) (body : List Nat)

theorem State.takeResult_of_free {i : Nat} (hfree : s.freeSlot = some i) (hnone : s.t.slotWait = []) :
    s.takeResult h body = s.fillSlot i h body := by
  simp only [State.takeResult, hfree, hnone]

theorem State.takeResult_waits (hwait : s.freeSlot = none ∨ s.t.slotWait ≠ []) :
    s.takeResult h body =
      (s.bump F.busResultWaitCount).modT fun t => { t with slotWait := t.slotWait ++ [(h, body)] } := by
  unfold State.takeResult
  split
  next hfree hnone => simp [hfree, hnone] at hwait
  next => rfl

end

/-- The first copy of a result at a TSU is taken. -/
theorem exec_resultBroadcast_first {s : State} {port nowSub : Nat} {hdr : PHdr} {body : List Byte} (share : Nat)
    (hr : Runs s .tsu)
    (hfirst : ((s.modNode .tsu fun n => { n with sub := max n.sub (nowSub % 8192) }).keepBcast port hdr body).2 = true) :
    exec (.resultBroadcast ⟨.tsu, port, share⟩ hdr body nowSub) s = .next
      (((s.modNode .tsu fun n => { n with sub := max n.sub (nowSub % 8192) }).keepBcast port hdr body).1.takeResult hdr body) := by
  show execResultBroadcast ⟨.tsu, port, share⟩ hdr body nowSub s = _
  exact onLive_eq hr (if_neg (Bool.eq_false_iff.1 (congrArg not hfirst)))

/-! ### Pass 2 at a die (R189) -/

/-- The state of a die that has dropped the logits which answer a broadcast. -/
def State.dropLogits (s : State) (h : PHdr) : State :=
  (s.modT fun t => { t with logits := t.logits.filter fun b => some b != logitsOf s.t.logits h }).showRfe

/-- What a die that had released the logits `held` for a broadcast answers to it. -/
def State.answerPass2 (s : State) (h : PHdr) (m w : Nat) (held : Option LogitBuf) : State :=
  match held with
  | some b => s.sendPass2 h (sumNat (b.logits.map fun x => weightAcc (logitWeight h.format x m w)) : Nat) false
  | none => if s.dieInScope h then s.sendPass2 h 0 true else s

section
variable {s : State} {h : PHdr} {held : Option LogitBuf} (m w : Nat)

theorem State.answerPass2_of_held {b : LogitBuf} (hheld : held = some b) :
    s.answerPass2 h m w held =
      s.sendPass2 h (sumNat (b.logits.map fun x => weightAcc (logitWeight h.format x m w)) : Nat) false := by
  rw [hheld, State.answerPass2]

theorem State.answerPass2_of_none (hheld : held = none) (hscope : s.dieInScope h = true) :
    s.answerPass2 h m w held = s.sendPass2 h 0 true := by
  rw [hheld]
  exact if_pos hscope

end

/-- The first copy of a pass 2 broadcast releases the logits of its key, and is answered unless it skips. -/
theorem exec_pass2Broadcast_first {s : State} {port m w : Nat} {skip : Bool} {hdr : PHdr} (share : Nat) (hr : Runs s .tsu)
    (hfirst : (s.keepBcast port { hdr with op := opPass2 } [m, w, b2n skip]).2 = true) :
    exec (.pass2Broadcast ⟨.tsu, port, share⟩ hdr m w skip) s = .next (
      if skip then (s.keepBcast port { hdr with op := opPass2 } [m, w, b2n skip]).1.dropLogits { hdr with op := opPass2 }
      else ((s.keepBcast port { hdr with op := opPass2 } [m, w, b2n skip]).1.dropLogits { hdr with op := opPass2 }).answerPass2
        { hdr with op := opPass2 } m w
        (logitsOf (s.keepBcast port { hdr with op := opPass2 } [m, w, b2n skip]).1.t.logits { hdr with op := opPass2 })) := by
  show execPass2Broadcast ⟨.tsu, port, share⟩ hdr m w skip s = _
  exact onLive_eq hr (if_neg (Bool.eq_false_iff.1 (congrArg not hfirst)))

/-! ### The statement -/

/-- Settles O49: a contribution word by its checks, a broadcast by its node and by the copy it is, a waiting result by the free
slot, and held logits by their age. -/
theorem reductionFrontEndContributes : Obligations.ReductionFrontEndContributes := by
  refine ⟨?close, ?enter, ?refused, ?fill, ?wait, ?second, ?next, ?expiry, ?resultNowhere, ?resultFirst, ?resultEqual,
    ?resultDiffers, ?pass2Second, ?pass2Skip, ?pass2Sum, ?pass2Err, ?pass2Nowhere, ?pass2First, ?pass2Equal, ?pass2Differs,
    ?release⟩
  case close =>
    intro hdr data s hr hrole hchan hatt hopen
    exact exec_contributionWord_enters data hr true hrole hchan hatt hopen
  case enter =>
    intro hdr data s hr hrole hchan hatt hopen
    exact exec_contributionWord_enters data hr false hrole hchan hatt hopen
  case refused =>
    intro hdr data last s hr h
    show execContributionWord hdr data last s = _
    exact onLive_eq hr (if_pos (contributionWord_turnedAway_iff.2 h))
  case fill =>
    intro i port share nowSub hdr body s hr hfirst hfree hnone
    exact (exec_resultBroadcast_first share hr hfirst).trans (congrArg _ (State.takeResult_of_free hdr body hfree hnone))
  case wait =>
    intro port share nowSub hdr body s hr hfirst h
    exact (exec_resultBroadcast_first share hr hfirst).trans (congrArg _ (State.takeResult_waits hdr body h))
  case second =>
    intro port share nowSub hdr body s hr hsecond
    show execResultBroadcast ⟨.tsu, port, share⟩ hdr body nowSub s = _
    exact onLive_eq hr (if_pos (congrArg not hsecond))
  case next =>
    intro i h b rest s hr hfree hwait
    show execResultWait s = _
    refine onLive_eq hr ?_
    simp only [hfree, hwait]
  case expiry =>
    intro s hr
    show execResultKeyExpiry s = _
    exact onLive_live hr _
  case resultNowhere =>
    intro port share nowSub hdr body s hr hv
    exact (exec_resultBroadcast_dbx port share hdr hr body nowSub).trans (congrArg _ (State.passDown_of_not_valid _ hv))
  case resultFirst =>
    intro port share nowSub hdr body s hr hv hk
    exact (exec_resultBroadcast_dbx port share hdr hr body nowSub).trans (congrArg _ (State.passDown_first _ hv hk))
  case resultEqual =>
    intro port share nowSub hdr body b s hr hv hk heq
    exact (exec_resultBroadcast_dbx port share hdr hr body nowSub).trans (congrArg _ (State.passDown_equal _ hv hk heq))
  case resultDiffers =>
    intro port share nowSub hdr body b s hr hv hk hne
    exact (exec_resultBroadcast_dbx port share hdr hr body nowSub).trans
      (congrArg _ (State.passDown_differs _ hv hk (of_eq_false hne)))
  case pass2Second =>
    intro port share m w skip hdr s hr hsecond
    show execPass2Broadcast ⟨.tsu, port, share⟩ hdr m w skip s = _
    exact onLive_eq hr (if_pos (congrArg not hsecond))
  case pass2Skip =>
    intro port share m w skip hdr s hr hfirst hskip
    exact (exec_pass2Broadcast_first share hr hfirst).trans (congrArg _ (if_pos hskip))
  case pass2Sum =>
    intro port share m w skip hdr b s hr hfirst hskip hheld
    refine (exec_pass2Broadcast_first share hr hfirst).trans (congrArg _ ((if_neg (Bool.eq_false_iff.1 hskip)).trans ?_))
    exact State.answerPass2_of_held m w hheld
  case pass2Err =>
    intro port share m w skip hdr s hr hfirst hskip hheld hscope
    refine (exec_pass2Broadcast_first share hr hfirst).trans (congrArg _ ((if_neg (Bool.eq_false_iff.1 hskip)).trans ?_))
    exact State.answerPass2_of_none m w hheld hscope
  case pass2Nowhere =>
    intro port share m w skip hdr s hr hv
    exact (exec_pass2Broadcast_dbx port share hdr hr m w skip).trans (congrArg _ (State.passDown_of_not_valid _ hv))
  case pass2First =>
    intro port share m w skip hdr s hr hv hk
    exact (exec_pass2Broadcast_dbx port share hdr hr m w skip).trans (congrArg _ (State.passDown_first _ hv hk))
  case pass2Equal =>
    intro port share m w skip hdr b s hr hv hk heq
    exact (exec_pass2Broadcast_dbx port share hdr hr m w skip).trans (congrArg _ (State.passDown_equal _ hv hk heq))
  case pass2Differs =>
    intro port share m w skip hdr b s hr hv hk hne
    exact (exec_pass2Broadcast_dbx port share hdr hr m w skip).trans
      (congrArg _ (State.passDown_differs _ hv hk (of_eq_false hne)))
  case release =>
    intro s hr hgone
    show execLogitRelease s = _
    exact onLive_eq hr (if_neg (by simpa only [List.isEmpty_iff] using hgone))

end Sys2Proof.Machine
end

section
/-! SUPPORT. Proofs about the tree arithmetic at a distributor: partials and soredia by the copies they are, the ends of keys by
flush and deadline, and the generator test. -/

namespace Sys2Proof.Machine

/-- What a node does with a copy, by what the copy is. -/
def Copy.act {α : Type} (same differs : Nat → α) (surplus first : α) : Copy → α
  | .same i => same i
  | .differs i => differs i
  | .surplus => surplus
  | .first => first

/-- Where a first copy fares as a surplus one does, one act covers both. -/
theorem Copy.act_late {α : Type} {c : Copy} (same differs : Nat → α) (late : α) (h : c = .first ∨ c = .surplus) :
    c.act same differs late late = late := by
  rcases h with rfl | rfl <;> rfl

/-! ### Partials (R170, R173, R264) -/

/-- What a first copy does at its open key. -/
def State.firstPartial (s : State) (k : TauKey) (port : Nat) (p : PPartial) (apex : Bool) : State :=
  if k.due then s.bump F.tauLateDiscCount
  else if k.through then s.passPartial k port p
  else if k.parts.isEmpty && !s.tauRoom { k with first := p.hdr } then s.noTauSpace k
  else s.joinPartial k port p apex

section
variable {s : State} {k : TauKey} (port : Nat) {p : PPartial} (apex : Bool)

theorem State.firstPartial_of_due (hdue : k.due = true) : s.firstPartial k port p apex = s.bump F.tauLateDiscCount :=
  if_pos hdue

variable (hdue : k.due = false)
include hdue

theorem State.firstPartial_passes (hthrough : k.through = true) :
    s.firstPartial k port p apex = s.passPartial k port p :=
  (if_neg (Bool.eq_false_iff.1 hdue)).trans (if_pos hthrough)

variable (hthrough : k.through = false)
include hthrough

theorem State.firstPartial_joins (h : k.parts ≠ [] ∨ s.tauRoom { k with first := p.hdr } = true) :
    s.firstPartial k port p apex = s.joinPartial k port p apex := by
  refine (if_neg (Bool.eq_false_iff.1 hdue)).trans ((if_neg (Bool.eq_false_iff.1 hthrough)).trans (if_neg ?_))
  rcases h with h | h
  · simp [h]
  · simp [h]

theorem State.firstPartial_noSpace (hparts : k.parts = []) (hroom : s.tauRoom { k with first := p.hdr } = false) :
    s.firstPartial k port p apex = s.noTauSpace k := by
  refine (if_neg (Bool.eq_false_iff.1 hdue)).trans ((if_neg (Bool.eq_false_iff.1 hthrough)).trans (if_pos ?_))
  rw [hroom, hparts]
  rfl

end

/-- The key that the first partial opens where there is room. -/
def State.partialKey (s : State) (port partition : Nat) (p : PPartial) : TauKey :=
  { partition := partition, first := p.hdr, atLfn := s.dbx.lfn, parts := [(port, p)],
    deadline := if (s.apexSlot partition).isSome then some s.firstDeadline else none }

/-- The key that a node without room, below the apex, holds for the partials it passes on. -/
def State.throughKey (s : State) (partition : Nat) (p : PPartial) : TauKey :=
  { partition := partition, first := p.hdr, atLfn := s.dbx.lfn, parts := [], deadline := none, through := true }

section
variable {s : State} {port partition : Nat} {p : PPartial} (hr : Runs s .dbx)
  (hroles : (ivMeet ((s.bump F.tauInCount).rolesAt partition ((s.bump F.tauInCount).posOf port))
    ((s.bump F.tauInCount).scopeRoles partition p.hdr.scope p.hdr.domain p.hdr.blkA)).isEmpty = false)
include hr hroles

/-- A partial of an open key acts by the copy it is. -/
theorem exec_partialReceived_open {k : TauKey} {c : Copy}
    (hk : ((s.bump F.tauInCount).d.tau.find? fun k => k.partition == partition && samePKey k.first p.hdr) = some k)
    (hc : (s.bump F.tauInCount).partCopy k port p = c) :
    exec (.partialReceived port partition p) s = .next (c.act ((s.bump F.tauInCount).seenCopy k)
      (fun i => (s.bump F.tauInCount).partDiffers k i port p) ((s.bump F.tauInCount).bump F.tauLateDiscCount)
      ((s.bump F.tauInCount).firstPartial k port p ((s.bump F.tauInCount).apexSlot partition).isSome)) := by
  show execPartialReceived port partition p s = _
  refine onLive_eq hr ((if_neg (Bool.eq_false_iff.1 hroles)).trans ?_)
  simp only [hk, hc]
  cases c <;> rfl

variable (hk : ((s.bump F.tauInCount).d.tau.find? fun k => k.partition == partition && samePKey k.first p.hdr) = none)
include hk

/-- A partial of a closed key is compared as a second copy, and is late as any other. -/
theorem exec_partialReceived_shut {k : TauKey} {c : Copy}
    (hshut : ((s.bump F.tauInCount).d.tauShut.find? fun k => k.partition == partition && samePKey k.first p.hdr) = some k)
    (hc : (s.bump F.tauInCount).partCopy k port p = c) :
    exec (.partialReceived port partition p) s = .next (c.act ((s.bump F.tauInCount).seenCopy k)
      (fun i => (s.bump F.tauInCount).partDiffers k i port p) ((s.bump F.tauInCount).bump F.tauLateDiscCount)
      ((s.bump F.tauInCount).bump F.tauLateDiscCount)) := by
  show execPartialReceived port partition p s = _
  refine onLive_eq hr ((if_neg (Bool.eq_false_iff.1 hroles)).trans ?_)
  simp only [hk, hshut, hc]
  cases c <;> rfl

/-- The first partial of a key opens and joins it where there is room; without room the key completes at the apex, and is passed
through elsewhere. -/
theorem exec_partialReceived_new
    (hshut : ((s.bump F.tauInCount).d.tauShut.find? fun k => k.partition == partition && samePKey k.first p.hdr) = none) :
    exec (.partialReceived port partition p) s = .next (
      if (s.bump F.tauInCount).tauRoom ((s.bump F.tauInCount).partialKey port partition p) then
        ((s.bump F.tauInCount).modD fun d => { d with tau := d.tau ++ [(s.bump F.tauInCount).partialKey port partition p] }).joined
          ((s.bump F.tauInCount).partialKey port partition p) ((s.bump F.tauInCount).apexSlot partition).isSome
      else if ((s.bump F.tauInCount).apexSlot partition).isSome then
        (s.bump F.tauInCount).noTauSpace ((s.bump F.tauInCount).partialKey port partition p)
      else (((s.bump F.tauInCount).modD fun d => { d with tau := d.tau ++
          [(s.bump F.tauInCount).throughKey partition p] }).bump F.tauPassthroughCount).passPartial
            ((s.bump F.tauInCount).throughKey partition p) port p) := by
  show execPartialReceived port partition p s = _
  refine onLive_eq hr ((if_neg (Bool.eq_false_iff.1 hroles)).trans ?_)
  simp only [hk, hshut]
  cases hapex : ((s.bump F.tauInCount).apexSlot partition).isSome
  · simp only [State.partialKey, State.throughKey, hapex, Bool.false_eq_true, if_false]
  · simp only [State.partialKey, hapex, if_true]

end

/-! ### Soredia (R225, R264) -/

section
variable {s : State} {port partition : Nat} {q : Soredium} (hr : Runs s .dbx)
  (hroles : ((s.bump F.sorInCount).rolesAt partition ((s.bump F.sorInCount).posOf port)).isEmpty = false)
include hr hroles

/-- A soredium of an open key acts by the copy it is. -/
theorem exec_sorediumReceived_open {k : SorKey} {c : Copy}
    (hk : ((s.bump F.sorInCount).d.sors.find? fun k => k.partition == partition && sameSor k.acc q) = some k)
    (hc : (s.bump F.sorInCount).sorCopy k port q = c) :
    exec (.sorediumReceived port partition q) s = .next (c.act ((s.bump F.sorInCount).seenSor k)
      (fun i => (s.bump F.sorInCount).sorDiffers k i port q) ((s.bump F.sorInCount).bump F.sorLateDiscCount)
      ((s.bump F.sorInCount).joinSorKey k port q)) := by
  show execSorediumReceived port partition q s = _
  refine onLive_eq hr ((if_neg (Bool.eq_false_iff.1 hroles)).trans ?_)
  simp only [hk, hc]
  cases c <;> rfl

variable (hk : ((s.bump F.sorInCount).d.sors.find? fun k => k.partition == partition && sameSor k.acc q) = none)
include hk

/-- A soredium of a closed key is compared as a second copy, and is late as any other. -/
theorem exec_sorediumReceived_shut {k : SorKey} {c : Copy}
    (hshut : ((s.bump F.sorInCount).d.sorShut.find? fun k => k.partition == partition && sameSor k.acc q) = some k)
    (hc : (s.bump F.sorInCount).sorCopy k port q = c) :
    exec (.sorediumReceived port partition q) s = .next (c.act ((s.bump F.sorInCount).seenSor k)
      (fun i => (s.bump F.sorInCount).sorDiffers k i port q) ((s.bump F.sorInCount).bump F.sorLateDiscCount)
      ((s.bump F.sorInCount).bump F.sorLateDiscCount)) := by
  show execSorediumReceived port partition q s = _
  refine onLive_eq hr ((if_neg (Bool.eq_false_iff.1 hroles)).trans ?_)
  simp only [hk, hshut, hc]
  cases c <;> rfl

end

/-! ### Flush and deadline (R171, R172, R225, R255) -/

/-- The deadline of a soredia key: that of its step with the flush time where that step is its channel's last, and else the flush
time after it opened (log 24). -/
def State.sorDeadline (s : State) (k : SorKey) : Nat :=
  match s.bound k.acc.handle with
  | some c => if lastStep c.r = k.acc.step then c.deadline + s.flushLf else k.atLfn + s.flushLf
  | none => k.atLfn + s.flushLf

/-- A soredia key of the apex at the deadline of its step closes. -/
theorem exec_keyDeadline_soredium {s : State} {key : Nat} {k : SorKey} (hr : Runs s .dbx) (hnone : s.d.tau = [])
    (hk : s.d.sors[key]? = some k) (hapex : (s.apexSlot k.partition).isSome = true)
    (hdue : s.sorDeadline k ≤ s.dbx.lfn) : exec (.keyDeadline key) s = .next (s.closeSor k) := by
  show execKeyDeadline key s = _
  refine onLive_eq hr ?_
  simp only [hnone, List.getElem?_nil, List.length_nil, Nat.sub_zero, hk]
  exact if_pos (by rw [hapex]; exact decide_eq_true hdue)

/-! ### The statement -/

/-- Settles O50: a partial and a soredium by the key they find and the copy they are, a flush and a deadline by the kind of key
that is counted, and the generator test by its run bit. -/
theorem treeCombinesPartialsAndSoredia : Obligations.TreeCombinesPartialsAndSoredia := by
  refine ⟨?noRole, ?opens, ?noSpace, ?through, ?same, ?differs, ?surplus, ?due, ?passes, ?joins, ?noTauSpace, ?shutSame,
    ?shutDiffers, ?shutLate, ?sorNoRole, ?sorOpens, ?sorSame, ?sorDiffers, ?sorSurplus, ?sorJoins, ?sorShutSame,
    ?sorShutDiffers, ?sorShutLate, ?flushTau, ?flushPoll, ?flushSor, ?flushWait, ?deadline, ?deadlineUnbound,
    ?deadlineBound, ?kcg⟩
  case noRole =>
    intro port partition p s hr hroles
    show execPartialReceived port partition p s = _
    exact onLive_eq hr (if_pos hroles)
  case opens =>
    intro port partition p k s hr hroles hk hshut hkey hroom
    subst hkey
    exact (exec_partialReceived_new hr hroles hk hshut).trans (congrArg _ (if_pos hroom))
  case noSpace =>
    intro port partition p k s hr hroles hk hshut hkey hroom hapex
    subst hkey
    exact (exec_partialReceived_new hr hroles hk hshut).trans
      (congrArg _ ((if_neg (Bool.eq_false_iff.1 hroom)).trans (if_pos hapex)))
  case through =>
    intro port partition p s hr hroles hk hshut hapex hroom
    exact (exec_partialReceived_new hr hroles hk hshut).trans
      (congrArg _ ((if_neg (Bool.eq_false_iff.1 hroom)).trans (if_neg (Bool.eq_false_iff.1 hapex))))
  case same =>
    intro port partition p k i s hr hroles hk hc
    exact exec_partialReceived_open hr hroles hk hc
  case differs =>
    intro port partition p k i s hr hroles hk hc
    exact exec_partialReceived_open hr hroles hk hc
  case surplus =>
    intro port partition p k s hr hroles hk hc
    exact exec_partialReceived_open hr hroles hk hc
  case due =>
    intro port partition p k s hr hroles hk hc hdue
    exact (exec_partialReceived_open hr hroles hk hc).trans (congrArg _ (State.firstPartial_of_due port _ hdue))
  case passes =>
    intro port partition p k s hr hroles hk hc hdue hthrough
    exact (exec_partialReceived_open hr hroles hk hc).trans (congrArg _ (State.firstPartial_passes port _ hdue hthrough))
  case joins =>
    intro port partition p k s hr hroles hk hc hdue hthrough h
    exact (exec_partialReceived_open hr hroles hk hc).trans (congrArg _ (State.firstPartial_joins port _ hdue hthrough h))
  case noTauSpace =>
    intro port partition p k s hr hroles hk hc hdue hthrough hparts hroom
    exact (exec_partialReceived_open hr hroles hk hc).trans
      (congrArg _ (State.firstPartial_noSpace port _ hdue hthrough hparts hroom))
  case shutSame =>
    intro port partition p k i s hr hroles hk hshut hc
    exact exec_partialReceived_shut hr hroles hk hshut hc
  case shutDiffers =>
    intro port partition p k i s hr hroles hk hshut hc
    exact exec_partialReceived_shut hr hroles hk hshut hc
  case shutLate =>
    intro port partition p k s hr hroles hk hshut hc
    exact (exec_partialReceived_shut hr hroles hk hshut rfl).trans (congrArg _ (Copy.act_late _ _ _ hc))
  case sorNoRole =>
    intro port partition q s hr hroles
    show execSorediumReceived port partition q s = _
    exact onLive_eq hr (if_pos hroles)
  case sorOpens =>
    intro port partition q s hr hroles hk hshut
    show execSorediumReceived port partition q s = _
    refine onLive_eq hr ((if_neg (Bool.eq_false_iff.1 hroles)).trans ?_)
    simp only [hk, hshut]
  case sorSame =>
    intro port partition q k i s hr hroles hk hc
    exact exec_sorediumReceived_open hr hroles hk hc
  case sorDiffers =>
    intro port partition q k i s hr hroles hk hc
    exact exec_sorediumReceived_open hr hroles hk hc
  case sorSurplus =>
    intro port partition q k s hr hroles hk hc
    exact exec_sorediumReceived_open hr hroles hk hc
  case sorJoins =>
    intro port partition q k s hr hroles hk hc
    exact exec_sorediumReceived_open hr hroles hk hc
  case sorShutSame =>
    intro port partition q k i s hr hroles hk hshut hc
    exact exec_sorediumReceived_shut hr hroles hk hshut hc
  case sorShutDiffers =>
    intro port partition q k i s hr hroles hk hshut hc
    exact exec_sorediumReceived_shut hr hroles hk hshut hc
  case sorShutLate =>
    intro port partition q k s hr hroles hk hshut hc
    exact (exec_sorediumReceived_shut hr hroles hk hshut rfl).trans (congrArg _ (Copy.act_late _ _ _ hc))
  case flushTau =>
    intro key k s hr hk hlate hapex
    show execFlushExpiry key s = _
    refine onLive_eq hr ?_
    simp only [hk, hlate, hapex, decide_true, Option.isSome_none, Bool.not_true, Bool.not_false, Bool.false_eq_true, if_false,
      if_true]
  case flushPoll =>
    intro key slot k s hr hk hlate hapex hpoll
    show execFlushExpiry key s = _
    refine onLive_eq hr ?_
    simp only [hk, hlate, hapex, hpoll, decide_true, Option.isSome_some, Bool.not_true, Bool.false_eq_true, if_false, if_true]
  case flushSor =>
    intro key k s hr hnone hk hlate hapex
    show execFlushExpiry key s = _
    refine onLive_eq hr ?_
    simp only [hnone, List.getElem?_nil, List.length_nil, Nat.sub_zero, hk]
    exact if_pos (by simp [hlate, hapex])
  case flushWait =>
    intro key q s hr hnone hsors hq hlate
    show execFlushExpiry key s = _
    refine onLive_eq hr ?_
    simp only [hnone, hsors, List.getElem?_nil, List.length_nil, Nat.sub_zero, hq]
    exact if_pos hlate
  case deadline =>
    intro key t k s hr hk hdeadline hlate hdue
    show execKeyDeadline key s = _
    refine onLive_eq hr ?_
    simp only [hk]
    exact if_pos (by simp [hdeadline, hlate, hdue])
  case deadlineUnbound =>
    intro key k s hr hnone hk hapex hbound hlate
    exact exec_keyDeadline_soredium hr hnone hk hapex (by rwa [State.sorDeadline, hbound])
  case deadlineBound =>
    intro key k c s hr hnone hk hapex hbound hstep hlate
    refine exec_keyDeadline_soredium hr hnone hk hapex ?_
    simpa only [State.sorDeadline, hbound, hstep, if_true] using hlate
  case kcg =>
    intro v s hr hrun
    show execKcgTest v s = _
    exact onLive_eq hr (if_neg (Bool.eq_false_iff.1 (congrArg not hrun)))

end Sys2Proof.Machine
end

section
/-! SUPPORT. Proofs about register writes: what a part takes of a write and what it refuses, the set-up lock and the rows that
answer a write of their own. -/

namespace Sys2Proof.Machine

/-! ### REGISTER_WRITE (R351 to R354) -/

section
variable {s : State} {p : Part} {off : Nat} {whole : Bool} (hr : Runs s p) (v : Word) (rot : Bool)
  (hfields : (fieldsAt p off).isEmpty = false) (hwhole : p = .dbx → whole = true)
  (hrot : p = .tsu → rotOffset off = true → rot = true)
include hr hfields hwhole hrot

/-- Of a whole write into a ring block the part takes what R196 does not discard. -/
theorem exec_registerWrite_ring {r o : Nat} (hring : ringOf p off = some (r, o)) :
    exec (.registerWrite p off v whole rot) s = .next (if s.ringRefuses p r o v.toNat = true then
      s.wr (F.ringStatusCfgRefused p) 1 r else s.regWrite p off v.toNat rot false) := by
  show execRegisterWrite p off v whole rot s = _
  refine onLive_eq hr ((if_neg (Bool.eq_false_iff.1 hfields)).trans ?_)
  refine (if_neg (by simpa using hwhole)).trans ((if_neg (by simpa using hrot)).trans ?_)
  simp only [hring]

/-- Another whole write takes effect unless a bound plan holds the conductor's register. -/
theorem exec_registerWrite_plain (hring : ringOf p off = none) :
    exec (.registerWrite p off v whole rot) s = .next
      (if (p == Part.dbx && s.condHeld off) = true then s.wr F.condStatusCfgRefused 1
       else let t := (s.regWrite p off v.toNat rot false).afterWrite p off
         if p = .tsu then t.keepKey off v.toNat else t) := by
  show execRegisterWrite p off v whole rot s = _
  refine onLive_eq hr ((if_neg (Bool.eq_false_iff.1 hfields)).trans ?_)
  refine (if_neg (by simpa using hwhole)).trans ((if_neg (by simpa using hrot)).trans ?_)
  simp only [hring]
  cases p <;> rfl

end

/-! ### SETUP_LOCK_SET (R357, R358) -/

/-- The set bit, alone and while the lock is open, sets the lock where no cause of Table 17.3 stands; else the part shows the
cause and logs it. -/
theorem exec_setupLockSet_open {s : State} {p : Part} {v : Word} (hr : Runs s p) (hset : bit v.toNat 1 = true)
    (hclear : bit v.toNat 2 = false) (hopen : s.locked p = false) :
    exec (.setupLockSet p v) s = .next (if s.lockCause p = 0 then s.wr (F.setupLockLock p) 1
      else ((s.wr (F.setupLockLockRefused p) 1).wr (F.setupLockRefuseCause p) (s.lockCause p)).logErr p 0x0002 noPort
        (s.lockCause p)) := by
  show execSetupLockSet p v s = _
  refine onLive_eq hr ((if_neg (Bool.eq_false_iff.1 hclear)).trans (if_neg ?_))
  simp [hset, hopen]

/-- Settles O1: a write by the first refusal that meets it, the lock by the cause that stands. -/
theorem registerRowsTakeEffect : Obligations.RegisterRowsTakeEffect := by
  refine ⟨?taken, ?partly, ?unassigned, ?rotOnly, ?ringRefused, ?held, ?lock, ?lockRefused, ?pop, ?pref⟩
  case taken =>
    intro p off v whole rot s hr hfields hwhole hrot hring hfree
    refine (exec_registerWrite_plain hr v rot hfields hwhole hrot hring).trans (congrArg _ (if_neg ?_))
    simpa using hfree
  case partly =>
    intro off v rot s hr hfields
    show execRegisterWrite .dbx off v false rot s = _
    exact onLive_eq hr ((if_neg (Bool.eq_false_iff.1 hfields)).trans (if_pos rfl))
  case unassigned =>
    intro p off v whole rot s hr hfields
    show execRegisterWrite p off v whole rot s = _
    exact onLive_eq hr (if_pos hfields)
  case rotOnly =>
    intro off v whole s hr hfields hrot
    show execRegisterWrite .tsu off v whole false s = _
    refine onLive_eq hr ((if_neg (Bool.eq_false_iff.1 hfields)).trans ((if_neg Bool.false_ne_true).trans (if_pos ?_)))
    simpa using hrot
  case ringRefused =>
    intro p off r o v rot s hr hfields hplain hring href
    have hrot : p = .tsu → rotOffset off = true → rot = true := fun _ h => absurd (hplain.symm.trans h) Bool.false_ne_true
    rw [exec_registerWrite_ring hr v rot hfields (fun _ => rfl) hrot hring, if_pos href]
  case held =>
    intro off v rot s hr hfields hring hheld
    exact (exec_registerWrite_plain hr v rot hfields (fun _ => rfl) (fun h => nomatch h) hring).trans
      (congrArg _ (if_pos (by simpa using hheld)))
  case lock =>
    intro p v s hr hset hclear hopen hcause
    rw [exec_setupLockSet_open hr hset hclear hopen, if_pos hcause]
  case lockRefused =>
    intro p v s hr hset hclear hopen hcause
    rw [exec_setupLockSet_open hr hset hclear hopen, if_neg hcause]
  case pop =>
    intro p s hr
    show execErrlogPop p s = _
    exact onLive_eq hr rfl
  case pref =>
    intro v delta s hr
    show execPrefWrite v delta s = _
    exact onLive_eq hr rfl

end Sys2Proof.Machine
end

section
/-! SUPPORT. Proofs about handles and ring pairs: generations, enable and doorbells, the descriptor that is fetched, and
completions that wait. -/

namespace Sys2Proof.Machine

/-! ### Handles (R210) -/

theorem hIndex_mkHandle {i : Nat} (hi : i < 2 ^ 18) (g : Nat) : hIndex (mkHandle g i) = i := by
  rw [hIndex, mkHandle, Nat.mul_add_mod', Nat.mod_eq_of_lt hi]

theorem hGen_mkHandle {g i : Nat} (hg : g < 2 ^ 14) (hi : i < 2 ^ 18) : hGen (mkHandle g i) = g := by
  simp only [hGen, mkHandle]
  omega

/-- The generation after 16,383 is 1, and after an earlier one the next number. -/
theorem nextGen_eq {g : Nat} (hg : g ≤ 16383) : nextGen g = if g = 16383 then 1 else g + 1 := by
  simp only [nextGen]
  exact if_congr (by omega) rfl rfl

theorem nextGen_range (g : Nat) : 1 ≤ nextGen g ∧ nextGen g ≤ 16383 := by
  unfold nextGen
  split <;> omega

/-- Settles O17: the handle holds the generation above the 18 bits of the index. -/
theorem handlesAndGenerations : Obligations.HandlesAndGenerations := by
  intro g i hpos hmax hi
  have ⟨hword, hne⟩ : mkHandle g i < 2 ^ 32 ∧ mkHandle g i ≠ 0 := by
    simp only [mkHandle]
    omega
  have ⟨hlo, hhi⟩ := nextGen_range g
  exact ⟨hIndex_mkHandle hi g, hGen_mkHandle (by omega) hi, hword, hne, hlo, hhi, nextGen_eq hmax⟩

/-! ### The descriptor that is fetched (R197, R203, R207) -/

/-- The state in which a descriptor has been taken from a ring pair: the consumed count and the sequence number have moved, and
a TSU reads ahead. -/
def State.taken (s : State) (p : Part) (ring : Nat) : State :=
  ((s.wr (F.ringSqHeadConsumed p) (s.rd (F.ringSqHeadConsumed p) ring + 1) ring).wr64 (F.ringSeqLoSeq p) (F.ringSeqHiSeq p)
    (s.rd64 (F.ringSeqLoSeq p) (F.ringSeqHiSeq p) ring + 1) ring).fetchAhead p ring

/-- The number under which a ring pair's next descriptor runs: its sequence number, told apart by the binding. -/
def State.nextSeq (s : State) (p : Part) (ring : Nat) : Nat :=
  s.rd64 (F.ringSeqLoSeq p) (F.ringSeqHiSeq p) ring + 2 ^ 64 * (s.ring p ring).bind

/-- The record in flight of the descriptor `e` that takes the place of the fetched `d`. -/
def State.flightOf (s : State) (p : Part) (ring : Nat) (d e : Desc) : InFlight :=
  { seq := s.nextSeq p ring, desc := e, committed := !(opConductor p d.opcode || policyInput p d),
    tenant := (s.ring p ring).tenant, kind := (s.taken p ring).ringKind p ring, key := (s.ring p ring).key,
    slots := (s.ring p ring).slots, order := ((s.taken p ring).node p).starts }

/-- The taken descriptor is in flight, as the next that has started at the part. -/
def State.started (s : State) (p : Part) (ring : Nat) (f : InFlight) : State :=
  ((s.taken p ring).modRing p ring fun t => { t with flight := t.flight ++ [f] }).modNode p fun x =>
    { x with starts := x.starts + 1 }

section
variable {s : State} {p : Part} {ring : Nat} {d : Desc} (hr : Runs s p) (hrun : s.ringRuns p ring = true)
  (hwaiting : (s.ring p ring).waiting = []) (hmore : s.rd (F.ringSqHeadConsumed p) ring ≠ (s.ring p ring).sqTail)
  (hfence : bit d.flags 1 = true → (s.ring p ring).flight = [])
include hr hrun hwaiting hmore hfence

/-- A ring pair that may fetch takes the descriptor and goes on by the status of its checks. -/
theorem exec_descriptorFetch {st : Nat}
    (hst : (s.taken p ring).descStatus p ring (s.rd64 (F.ringSeqLoSeq p) (F.ringSeqHiSeq p) ring) d = st) :
    exec (.descriptorFetch p ring d) s = .next
      (let f := s.flightOf p ring d (if st = 1 then { d with cookie := 0 } else d)
       let t := s.started p ring f
       if st = 1 then (t.bump (F.ringBadTagCount p) ring).finish p ring (s.nextSeq p ring) 1 0 0
       else if st ≠ 0 then t.finish p ring (s.nextSeq p ring) st 0 0
       else if (opConductor p d.opcode || policyInput p d) = true then
         t.holdInput (t.descSlot d) (.descriptor ring (s.nextSeq p ring) d f.tenant f.kind)
       else t) := by
  subst hst
  have hmay : ¬ (!s.ringRuns p ring || !(s.ring p ring).waiting.isEmpty
      || s.rd (F.ringSqHeadConsumed p) ring == (s.ring p ring).sqTail
      || (bit d.flags 1 && !(s.ring p ring).flight.isEmpty)) = true := by
    simpa [hrun, hwaiting, hmore] using hfence
  show execDescriptorFetch p ring d s = _
  exact onLive_eq hr (if_neg hmay)

/-- One whose tag fails counts and completes with BAD_TAG, its cookie lost. -/
theorem exec_descriptorFetch_badTag
    (hst : (s.taken p ring).descStatus p ring (s.rd64 (F.ringSeqLoSeq p) (F.ringSeqHiSeq p) ring) d = 1) :
    exec (.descriptorFetch p ring d) s = .next
      (((s.started p ring (s.flightOf p ring d { d with cookie := 0 })).bump (F.ringBadTagCount p) ring).finish p ring
        (s.nextSeq p ring) 1 0 0) :=
  (exec_descriptorFetch hr hrun hwaiting hmore hfence hst).trans (congrArg _ (if_pos rfl))

/-- One that fails another check completes with the status of that check. -/
theorem exec_descriptorFetch_failed {st : Nat}
    (hst : (s.taken p ring).descStatus p ring (s.rd64 (F.ringSeqLoSeq p) (F.ringSeqHiSeq p) ring) d = st) (hlt : 1 < st) :
    exec (.descriptorFetch p ring d) s = .next
      ((s.started p ring (s.flightOf p ring d d)).finish p ring (s.nextSeq p ring) st 0 0) := by
  have htag : st ≠ 1 := Nat.ne_of_gt hlt
  have hfail : st ≠ 0 := Nat.ne_zero_of_lt hlt
  rw [exec_descriptorFetch hr hrun hwaiting hmore hfence hst]
  simp only [if_neg htag, if_pos hfail]

/-- One that passes is held for commit as an input of the conductor, and in flight else. -/
theorem exec_descriptorFetch_passed
    (hst : (s.taken p ring).descStatus p ring (s.rd64 (F.ringSeqLoSeq p) (F.ringSeqHiSeq p) ring) d = 0) :
    exec (.descriptorFetch p ring d) s = .next
      (let f := s.flightOf p ring d d
       let t := s.started p ring f
       if (opConductor p d.opcode || policyInput p d) = true then
         t.holdInput (t.descSlot d) (.descriptor ring (s.nextSeq p ring) d f.tenant f.kind)
       else t) :=
  exec_descriptorFetch hr hrun hwaiting hmore hfence hst

end

/-- Settles O19: the tag is the first of the checks, so a descriptor whose tag fails has no other status. -/
theorem badTagsEndWithoutEffect : Obligations.BadTagsEndWithoutEffect := by
  intro p ring d s hr hrun hwaiting hmore hfence htag
  exact exec_descriptorFetch_badTag hr hrun hwaiting hmore hfence (State.descStatus_badTag htag)

/-! ### Enable and doorbells (R196, R197) -/

section
variable {s : State} {p : Part} {ring : Nat} (hr : Runs s p)
include hr

/-- The enable of a pair that is off starts it from counts of 0, where it is bound. -/
theorem exec_ringEnable_of_off (hring : ring < ringCount p) (hoff : s.is (F.ringCfgEnable p) ring = false) :
    exec (.ringEnable p ring) s = .next
      (if s.ringKind p ring = 0 then s.wr (F.ringStatusCfgRefused p) 1 ring
       else ((((((s.modRing p ring fun t => { t with sqTail := 0, cqHead := 0 }).wr (F.ringCfgEnable p) 1 ring).wr
        (F.ringSqHeadConsumed p) 0 ring).wr (F.ringCqTailWritten p) 0 ring).wr (F.ringStatusRunning p) 1 ring).wr
          (F.ringStatusErr p) 0 ring)) := by
  show execRingEnable p ring s = _
  refine onLive_eq hr (if_neg ?_)
  simp [hoff, hring]

variable (hrun : s.ringRuns p ring = true) (v : Word)
include hrun

/-- A tail that would move back or pass the ring's size stops the pair; another is taken. -/
theorem exec_sqTailWrite :
    exec (.sqTailWrite p ring v) s = .next
      (if (0 < ahead32 v.toNat (s.ring p ring).sqTail ∧ ahead32 v.toNat (s.ring p ring).sqTail < 2 ^ 31)
          ∨ 2 ^ s.rd (F.ringCfgSqLog2 p) ring < ahead32 (s.rd (F.ringSqHeadConsumed p) ring) v.toNat then s.stopRing p ring 1
       else (s.modRing p ring fun t => { t with sqTail := v.toNat }).fetchAhead p ring) := by
  show execSqTailWrite p ring v s = _
  refine onLive_eq hr ((if_neg (by simp [hrun])).trans ?_)
  simp only [Bool.or_eq_true, Bool.and_eq_true, decide_eq_true_eq]

/-- A head that would move back or pass what is written stops the pair; another is taken. -/
theorem exec_cqHeadWrite :
    exec (.cqHeadWrite p ring v) s = .next
      (if ahead32 (s.ring p ring).cqHead (s.rd (F.ringCqTailWritten p) ring)
          < ahead32 v.toNat (s.rd (F.ringCqTailWritten p) ring) then s.stopRing p ring 1
       else s.modRing p ring fun t => { t with cqHead := v.toNat }) := by
  show execCqHeadWrite p ring v s = _
  exact onLive_eq hr (if_neg (by simp [hrun]))

end

/-- Settles O51: a doorbell by whether it keeps within its bounds, a completion by what waits, a fetched descriptor by the status
of its checks. -/
theorem ringsMoveTheirCounts : Obligations.RingsMoveTheirCounts := by
  refine ⟨?enable, ?unbound, ?enabled, ?disable, ?tail, ?tailStops, ?head, ?headStops, ?waiting, ?posts, ?moderation, ?ready,
    ?input, ?badTag, ?failed, ?nop⟩
  case enable =>
    intro p ring s hr hring hoff hbound
    rw [exec_ringEnable_of_off hr hring hoff, if_neg hbound]
  case unbound =>
    intro p ring s hr hring hoff hkind
    rw [exec_ringEnable_of_off hr hring hoff, if_pos hkind]
  case enabled =>
    intro p ring s hr hon
    show execRingEnable p ring s = _
    exact onLive_eq hr (if_pos (by simp [hon]))
  case disable =>
    intro p ring s hr hon
    show execRingDisable p ring s = _
    exact onLive_eq hr (if_pos hon)
  case tail =>
    intro p ring v s hr hrun hback hsize
    rw [exec_sqTailWrite hr hrun, if_neg (by omega)]
  case tailStops =>
    intro p ring v s hr hrun hout
    rw [exec_sqTailWrite hr hrun, if_pos hout]
  case head =>
    intro p ring v s hr hrun hin
    rw [exec_cqHeadWrite hr hrun, if_neg (Nat.not_lt.2 hin)]
  case headStops =>
    intro p ring v s hr hrun hout
    rw [exec_cqHeadWrite hr hrun, if_pos hout]
  case waiting =>
    intro p ring c rest s hr hwaiting hspace
    show execCompletionWrite p ring s = _
    refine onLive_eq hr ?_
    simp only [hwaiting]
    exact if_neg (Bool.eq_false_iff.1 hspace)
  case posts =>
    intro ring s hr hwaiting
    show execCompletionWrite .dbx ring s = _
    refine onLive_eq hr ?_
    simp only [hwaiting]
    rfl
  case moderation =>
    intro p ring t l s hr hunsig hdue
    show execMsixModeration p ring s = _
    refine onLive_eq hr ?_
    simp only [hunsig]
    exact if_pos hdue
  case ready =>
    intro p ring d s hr hrun hwaiting hmore hfence hst hplain
    exact (exec_descriptorFetch_passed hr hrun hwaiting hmore hfence hst).trans
      (congrArg _ (if_neg (Bool.eq_false_iff.1 hplain)))
  case input =>
    intro p ring d s hr hrun hwaiting hmore hfence hst hinput
    exact (exec_descriptorFetch_passed hr hrun hwaiting hmore hfence hst).trans (congrArg _ (if_pos hinput))
  case badTag =>
    intro p ring d s hr hrun hwaiting hmore hfence hst
    exact exec_descriptorFetch_badTag hr hrun hwaiting hmore hfence hst
  case failed =>
    intro p ring d st s hr hrun hwaiting hmore hfence hst hlt
    exact exec_descriptorFetch_failed hr hrun hwaiting hmore hfence hst hlt
  case nop =>
    intro p ring seq f s hr ha
    show execNop p ring seq s = _
    exact onLive_desc hr ha rfl

end Sys2Proof.Machine
end

section
/-! SUPPORT. Proofs about the digest tap and the weight gate: output and load blocks, the deadline of a shard, layers that open,
MANIFEST and DIGEST_READ. -/

namespace Sys2Proof.Machine

/-! ### Output blocks (R221, R222, R330) -/

section
variable {s : State} {tag : Nat} (addr : Nat) (words : List Nat)

/-- An output block enters while the tap is on and the compute domain is not in reset. -/
theorem exec_tapWrite_output (hr : Runs s .tsu) (hkind : bits tag 0 2 = 1) :
    exec (.tapWrite tag addr words) s = .next
      (if (s.t.cmpAck || !s.is F.digCfgEnable) = true then s else s.tapOutput tag addr words) := by
  show execTapWrite tag addr words s = _
  refine onLive_eq hr ?_
  simp only [hkind]

theorem exec_tapWrite_entered (hr : Runs s .tsu) (hkind : bits tag 0 2 = 1) (hack : s.t.cmpAck = false)
    (hon : s.is F.digCfgEnable = true) : exec (.tapWrite tag addr words) s = .next (s.tapOutput tag addr words) :=
  (exec_tapWrite_output addr words hr hkind).trans (congrArg _ (if_neg (by simp [hack, hon])))

/-- Without a step of the channel that is still open the block is late. -/
theorem State.tapOutput_late (hstep : (s.t.steps.find? fun o =>
      hIndex o.handle == bits tag 2 18 && o.step % 256 == bits tag 20 8 && !o.sent) = none) :
    s.tapOutput tag addr words = s.bump F.digLateWriteCount := by
  simp only [State.tapOutput, hstep]

/-- Into an open step the block is digested under its layer, whose epoch the layer's first block takes. -/
theorem State.tapOutput_step {o : OpenStep} (hstep : (s.t.steps.find? fun o =>
      hIndex o.handle == bits tag 2 18 && o.step % 256 == bits tag 20 8 && !o.sent) = some o) :
    s.tapOutput tag addr words =
      (let e := if o.layers.any (fun x => x.layer == bits tag 28 10) = true then (0, s) else s.layerEpoch (bits tag 28 10)
       e.2.setStep { o with
         layers := tapLayer o.layers (bits tag 28 10) (digestBlock (s.rd F.roleRole) (bits tag 28 10) addr words) e.1 }) := by
  simp only [State.tapOutput, hstep]

end

/-! ### Load blocks (R231, R232) -/

section
variable {s : State} {tag : Nat} (words : List Nat)

/-- A load block is judged by the gate, in a compute-domain reset as well. -/
theorem exec_tapWrite_load (addr : Nat) (hr : Runs s .tsu) (hkind : bits tag 0 2 = 2) :
    exec (.tapWrite tag addr words) s = .next (s.tapLoad tag words) := by
  show execTapWrite tag addr words s = _
  refine onLive_eq hr ?_
  simp only [hkind]

theorem State.tapLoad_noManifest
    (hm : ((fget? s.t.layers (bits tag 2 10)).bind fun l => s.manifestOf l.epoch) = none) :
    s.tapLoad tag words = s.unlisted (bits tag 2 10) := by
  simp only [State.tapLoad, hm]

section
variable {m : Manifest} (hm : ((fget? s.t.layers (bits tag 2 10)).bind fun l => s.manifestOf l.epoch) = some m)
include hm

theorem State.tapLoad_noShard (hx : (m.shardsOf (bits tag 2 10)).find? (fun x => x.id == bits tag 12 16) = none) :
    s.tapLoad tag words = s.unlisted (bits tag 2 10) := by
  simp only [State.tapLoad, hm, hx]

section
variable {x : Shard} (hx : (m.shardsOf (bits tag 2 10)).find? (fun x => x.id == bits tag 12 16) = some x)
include hx

/-- The checks that a block of a listed shard meets, in their order. -/
theorem State.tapLoad_shard : s.tapLoad tag words =
    if x.state = 4 then s
    else if (x.state = 2 || x.blocks.contains (bits tag 28 20)) = true then s.failShard m x 3
    else if x.len ≤ 64 * bits tag 28 20 then s.failShard m x 4
    else if (x.state = 0 && (256 ≤ s.openShards.length || 2097152 < s.bitmapUsed + x.len / 64)) = true then
      s.failShard m x 5
    else s.takeBlock m x (bits tag 28 20) words := by
  simp only [State.tapLoad, hm, hx]

theorem State.tapLoad_missing (hst : x.state = 4) : s.tapLoad tag words = s :=
  (State.tapLoad_shard words hm hx).trans (if_pos hst)

/-- A block that comes twice or after verification. -/
theorem State.tapLoad_repeated (hst : x.state ≠ 4) (hrep : x.state = 2 ∨ x.blocks.contains (bits tag 28 20) = true) :
    s.tapLoad tag words = s.failShard m x 3 := by
  rw [State.tapLoad_shard words hm hx, if_neg hst, if_pos (by simpa using hrep)]

/-- A new block of a shard that is neither MISSING nor VERIFIED goes on to the checks of length and room. -/
theorem State.tapLoad_new (hmissing : x.state ≠ 4) (hverified : x.state ≠ 2)
    (hnew : x.blocks.contains (bits tag 28 20) = false) : s.tapLoad tag words =
    if x.len ≤ 64 * bits tag 28 20 then s.failShard m x 4
    else if (x.state = 0 && (256 ≤ s.openShards.length || 2097152 < s.bitmapUsed + x.len / 64)) = true then
      s.failShard m x 5
    else s.takeBlock m x (bits tag 28 20) words := by
  rw [State.tapLoad_shard words hm hx, if_neg hmissing, if_neg (by rw [hnew]; simpa using hverified)]

end
end
end

/-! ### Deadlines and layers (R232, R234) -/

/-- A shard that is PENDING or LOADING at its deadline fails. -/
theorem exec_shardDeadline_due {s : State} {layer shard : Nat} {m : Manifest} {x : Shard} (hr : Runs s .tsu)
    (hm : ((fget? s.t.layers layer).bind fun l => s.manifestOf l.epoch) = some m)
    (hx : (m.shardsOf layer).find? (fun x => x.id == shard) = some x) (hst : x.state < 2) (hdue : x.deadline ≤ s.tsu.lfn) :
    exec (.shardDeadline layer shard) s = .next (s.failShard m x 6) := by
  show execShardDeadline layer shard s = _
  refine onLive_eq hr ?_
  simp only [hm, hx]
  exact if_pos (by simp [hst, hdue])

/-- The incoming manifest, where it is newer than the epoch at which the layer is open. -/
def State.newerManifest (s : State) (layer : Nat) : Option Manifest :=
  s.t.mfIn.filter fun m => (fget? s.t.layers layer).all fun l => decide (l.epoch < m.epoch)

section
variable {s : State} {layer : Nat} (hr : Runs s .tsu)
include hr

/-- A layer opens at the newer manifest; without one it is left not ready, with a fault record. -/
theorem exec_layerOpen : exec (.layerOpen layer) s = .next
    ((s.newerManifest layer).elim ((s.setReady layer false).record .tsu 3 (Config.recordCode 3 234))
      fun m => (s.openLayer m.epoch layer).promote) := by
  show execLayerOpen layer s = _
  refine onLive_eq hr ?_
  unfold State.newerManifest
  cases fget? s.t.layers layer <;> dsimp only [Option.map, Option.all] <;> split
  all_goals
    next hfilter =>
      rw [hfilter]
      rfl

theorem exec_layerOpen_newer {m : Manifest} (hin : s.t.mfIn = some m)
    (hnew : (fget? s.t.layers layer).all (fun l => decide (l.epoch < m.epoch)) = true) :
    exec (.layerOpen layer) s = .next (s.openLayer m.epoch layer).promote := by
  have hnewer : s.newerManifest layer = some m := by simp only [State.newerManifest, hin, Option.filter_some, if_pos hnew]
  rw [exec_layerOpen hr, hnewer, Option.elim_some]

theorem exec_layerOpen_left (hnewer : s.newerManifest layer = none) :
    exec (.layerOpen layer) s = .next ((s.setReady layer false).record .tsu 3 (Config.recordCode 3 234)) := by
  rw [exec_layerOpen hr, hnewer, Option.elim_none]

end

/-! ### MANIFEST (R230) and DIGEST_READ (R227) -/

section
variable {s : State} {ring seq : Nat} {f : InFlight}

/-- A MANIFEST that does not yet wait for the root of trust is judged by its tenant field. -/
theorem exec_manifest_begun (hr : Runs s .tsu) (ha : Asked s .tsu ring seq 0x20 f)
    (hidle : (s.begin_ .tsu ring seq).t.mbWait.any (fun x => x.kind == 5 && x.ring == ring && x.seq == seq) = false) :
    exec (.manifest ring seq) s = .next
      (if leNat f.desc.ext 96 16 ≠ f.tenant then (s.begin_ .tsu ring seq).finish .tsu ring seq 7 0 0
       else (s.begin_ .tsu ring seq).mbRequest 5 ring seq
        (toLe 48 (mfDigest f.desc.ext) ++ (f.desc.ext.drop 416).take 96 ++ toLe 16 (leNat f.desc.ext 96 16))) := by
  show execManifest ring seq s = _
  exact onLive_desc hr ha (if_neg (Bool.eq_false_iff.1 hidle))

/-- At a TSU the checks of the handle and the tenant come first. -/
theorem exec_digestRead_tsu (hr : Runs s .tsu) (ha : Asked s .tsu ring seq 0x30 f) :
    exec (.digestRead .tsu ring seq) s = .next
      (let g := gateStatus ((s.begin_ .tsu ring seq).tsuTenant f.desc.handle false) f.tenant f.kind
       let r := (s.begin_ .tsu ring seq).tsuRecords f.desc
       if g ≠ 0 then (s.begin_ .tsu ring seq).finish .tsu ring seq g 0 0
       else (r.2.result .tsu ring seq f.desc r.1.1).finish .tsu ring seq 0 0 r.1.2) := by
  show execDigestRead .tsu ring seq s = _
  exact onLive_desc hr ha rfl

end

/-- Settles O53: an output block by the step and the layer that it finds, a load block by its manifest, its shard and the gate's
checks in their order, a layer by the incoming manifest, MANIFEST by its tenant and DIGEST_READ by the part that answers. -/
theorem weightGateJudgesWrites : Obligations.WeightGateJudgesWrites := by
  refine ⟨?layer, ?newLayer, ?off, ?late, ?opened, ?opens, ?repeated, ?beyond, ?noRoom, ?missing, ?noShard, ?noManifest,
    ?deadline, ?newer, ?noIncoming, ?notNewer, ?manifest, ?tenant, ?dbxRead, ?tsuRead, ?tsuRefused⟩
  case layer =>
    intro tag addr words o s hr hkind hack hon hstep hlayer
    rw [exec_tapWrite_entered addr words hr hkind hack hon, State.tapOutput_step addr words hstep]
    simp only [if_pos hlayer]
  case newLayer =>
    intro tag addr words o s hr hkind hack hon hstep hlayer
    rw [exec_tapWrite_entered addr words hr hkind hack hon, State.tapOutput_step addr words hstep]
    simp only [if_neg (Bool.eq_false_iff.1 hlayer)]
  case off =>
    intro tag addr words s hr hkind hoff
    exact (exec_tapWrite_output addr words hr hkind).trans (congrArg _ (if_pos (by simpa using hoff)))
  case late =>
    intro tag addr words s hr hkind hack hon hstep
    rw [exec_tapWrite_entered addr words hr hkind hack hon, State.tapOutput_late addr words hstep]
  case opened =>
    intro tag addr words m x s hr hkind hm hx hst hnew hlen
    rw [exec_tapWrite_load words addr hr hkind, State.tapLoad_new words hm hx (by omega) (by omega) hnew,
      if_neg (Nat.not_le.2 hlen), if_neg (by simp [hst])]
  case opens =>
    intro tag addr words m x s hr hkind hm hx hst hnew hlen hopen hroom
    rw [exec_tapWrite_load words addr hr hkind, State.tapLoad_new words hm hx (by omega) (by omega) hnew,
      if_neg (Nat.not_le.2 hlen), if_neg (by simp [hopen, hroom])]
  case repeated =>
    intro tag addr words m x s hr hkind hm hx hst hrep
    rw [exec_tapWrite_load words addr hr hkind, State.tapLoad_repeated words hm hx hst hrep]
  case beyond =>
    intro tag addr words m x s hr hkind hm hx hmissing hverified hnew hlen
    rw [exec_tapWrite_load words addr hr hkind, State.tapLoad_new words hm hx hmissing hverified hnew, if_pos hlen]
  case noRoom =>
    intro tag addr words m x s hr hkind hm hx hst hnew hlen hfull
    rw [exec_tapWrite_load words addr hr hkind, State.tapLoad_new words hm hx (by omega) (by omega) hnew,
      if_neg (Nat.not_le.2 hlen), if_pos (by simpa [hst] using hfull)]
  case missing =>
    intro tag addr words m x s hr hkind hm hx hst
    rw [exec_tapWrite_load words addr hr hkind, State.tapLoad_missing words hm hx hst]
  case noShard =>
    intro tag addr words m s hr hkind hm hx
    rw [exec_tapWrite_load words addr hr hkind, State.tapLoad_noShard words hm hx]
  case noManifest =>
    intro tag addr words s hr hkind hm
    rw [exec_tapWrite_load words addr hr hkind, State.tapLoad_noManifest words hm]
  case deadline =>
    intro layer shard m x s hr hm hx hst hdue
    exact exec_shardDeadline_due hr hm hx hst hdue
  case newer =>
    intro layer m s hr hin hnew
    exact exec_layerOpen_newer hr hin hnew
  case noIncoming =>
    intro layer s hr hin
    exact exec_layerOpen_left hr (by rw [State.newerManifest, hin, Option.filter_none])
  case notNewer =>
    intro layer m s hr hin hold
    exact exec_layerOpen_left hr (by
      simp only [State.newerManifest, hin, Option.filter_some, if_neg (Bool.eq_false_iff.1 hold)])
  case manifest =>
    intro ring seq f s hr ha hidle htenant
    rw [exec_manifest_begun hr ha hidle, if_neg (not_not_intro htenant)]
  case tenant =>
    intro ring seq f s hr ha hidle htenant
    rw [exec_manifest_begun hr ha hidle, if_pos htenant]
  case dbxRead =>
    intro ring seq f s hr ha
    show execDigestRead .dbx ring seq s = _
    exact onLive_desc hr ha rfl
  case tsuRead =>
    intro ring seq f s hr ha hg
    exact (exec_digestRead_tsu hr ha).trans (congrArg _ (if_neg (not_not_intro hg)))
  case tsuRefused =>
    intro ring seq f g s hr ha hg hne
    subst hg
    exact (exec_digestRead_tsu hr ha).trans (congrArg _ (if_pos hne))

end Sys2Proof.Machine
end

section
/-! SUPPORT. Proofs about the resets and releases of the two parts, the end of B3 and the clearing of a boot record. -/

namespace Sys2Proof.Machine

/-! ### CFG_DONE (R240) -/

/-- What a write of TSU_BOOT_CFG leaves: the value taken, or under the set-up lock the refusal of another cfg_done. -/
def State.cfgWritten (s : State) (v : Word) : State :=
  if s.locked .tsu && s.rd F.bootCfgCfgDone ≠ bits v.toNat 0 1 then s.logErr .tsu 0x0001 noPort 0x400
  else s.regWrite .tsu 0x400 v.toNat false (!s.locked .tsu)

/-- What a written cfg_done decides of a B3 that has begun: its end where its condition holds, else its failure. -/
def State.decideTree (s : State) (v : Word) : State :=
  if !bit v.toNat 0 || !s.tsu.bootBegun.contains 3 || s.ended .tsu 3 then s
  else if s.stepDone .tsu 3 then s.endStep .tsu 3
  else if s.is F.bootCfgCfgDone then s.failStep .tsu 3 0x302
  else s

theorem exec_cfgDone {s : State} (hr : Runs s .tsu) (v : Word) :
    exec (.cfgDone v) s = .next ((s.cfgWritten v).decideTree v) := by
  show execCfgDone v s = _
  exact onLive_eq hr rfl

theorem State.cfgWritten_open {s : State} (hopen : s.locked .tsu = false) (v : Word) :
    s.cfgWritten v = s.regWrite .tsu 0x400 v.toNat false true := by
  rw [State.cfgWritten, if_neg (by simp [hopen]), hopen, Bool.not_false]

theorem State.cfgWritten_locked {s : State} {v : Word} (hlocked : s.locked .tsu = true)
    (hnew : s.rd F.bootCfgCfgDone ≠ bits v.toNat 0 1) : s.cfgWritten v = s.logErr .tsu 0x0001 noPort 0x400 :=
  if_pos (by simpa [hlocked] using hnew)

/-- A write that does not set cfg_done leaves B3 as it was, and so does one after its end. -/
theorem State.decideTree_idle {s : State} {v : Word} (hidle : bit v.toNat 0 = false ∨ s.ended .tsu 3 = true) :
    s.decideTree v = s := by
  refine if_pos ?_
  rcases hidle with hclear | hended
  · simp [hclear]
  · simp [hended]

section
variable {s : State} {v : Word} (hbit : bit v.toNat 0 = true) (hbegun : s.tsu.bootBegun.contains 3 = true)
  (hrunning : s.ended .tsu 3 = false)
include hbit hbegun hrunning

/-- A set cfg_done decides of a B3 that runs. -/
theorem State.decideTree_running : s.decideTree v =
    if s.stepDone .tsu 3 = true then s.endStep .tsu 3
    else if s.is F.bootCfgCfgDone = true then s.failStep .tsu 3 0x302
    else s :=
  if_neg (by rw [hbit, hbegun, hrunning]; decide)

theorem State.decideTree_ends (hdone : s.stepDone .tsu 3 = true) : s.decideTree v = s.endStep .tsu 3 := by
  rw [State.decideTree_running hbit hbegun hrunning, if_pos hdone]

theorem State.decideTree_fails (hdone : s.stepDone .tsu 3 = false) (hset : s.is F.bootCfgCfgDone = true) :
    s.decideTree v = s.failStep .tsu 3 0x302 := by
  rw [State.decideTree_running hbit hbegun hrunning, if_neg (Bool.eq_false_iff.1 hdone), if_pos hset]

end

/-! ### DIE_RESET_RELEASE and DISTRIBUTOR_RESET_RELEASE (R240, R241, R342, R343) -/

/-- A release starts a TSU that is held, and is without effect on one that runs. -/
theorem exec_dieResetRelease (lvl oe port : Nat) (s : State) :
    exec (.dieResetRelease lvl oe port) s = .next
      (if s.tsu.live = true then s else (s.modNode .tsu fun n => { n with live := true }).strapTsu lvl oe port) := rfl

theorem exec_distributorResetRelease_live (bootSrc smbAddr : Nat) {s : State} (hlive : s.dbx.live = true) :
    exec (.distributorResetRelease bootSrc smbAddr) s = .next s := by
  show execDistributorResetRelease bootSrc smbAddr s = _
  rw [execDistributorResetRelease, if_pos hlive]

/-- A part that is held starts where no trip holds, and tells of a trip that ended under reset. -/
theorem exec_distributorResetRelease_held (bootSrc smbAddr : Nat) {s : State} (hheld : s.dbx.live = false) :
    exec (.distributorResetRelease bootSrc smbAddr) s = .next
      (if s.d.tripped = true then s.releaseReset bootSrc smbAddr
       else if s.d.tripOwed = true then (s.releaseReset bootSrc smbAddr).startDbx.tellTrip
       else (s.releaseReset bootSrc smbAddr).startDbx) := by
  show execDistributorResetRelease bootSrc smbAddr s = _
  rw [execDistributorResetRelease, if_neg (Bool.eq_false_iff.1 hheld)]

/-- Settles O6: a release by whether the part is held and what trip stands, a write of cfg_done by the lock and by what it
decides of B3. -/
theorem partsResetAndStart : Obligations.PartsResetAndStart := by
  refine ⟨?dieReset, ?dieStarts, ?dieRuns, ?reset, ?starts, ?startsAfterTrip, ?tripHolds, ?runs, ?treeEnds, ?treeFails, ?locked,
    ?cleared, ?record⟩
  case dieReset => exact fun _ => rfl
  case dieStarts =>
    intro lvl oe port s hheld
    rw [exec_dieResetRelease, if_neg (Bool.eq_false_iff.1 hheld)]
  case dieRuns =>
    intro lvl oe port s hlive
    rw [exec_dieResetRelease, if_pos hlive]
  case reset => exact fun _ => rfl
  case starts =>
    intro bootSrc smbAddr s hheld htrip howed
    rw [exec_distributorResetRelease_held _ _ hheld, if_neg (Bool.eq_false_iff.1 htrip), if_neg (Bool.eq_false_iff.1 howed)]
  case startsAfterTrip =>
    intro bootSrc smbAddr s hheld htrip howed
    rw [exec_distributorResetRelease_held _ _ hheld, if_neg (Bool.eq_false_iff.1 htrip), if_pos howed]
  case tripHolds =>
    intro bootSrc smbAddr s hheld htrip
    rw [exec_distributorResetRelease_held _ _ hheld, if_pos htrip]
  case runs =>
    intro bootSrc smbAddr s hlive
    exact exec_distributorResetRelease_live _ _ hlive
  case treeEnds =>
    intro v s hr hopen hbit hdone _ hbegun hrunning
    rw [exec_cfgDone hr, State.cfgWritten_open hopen, State.decideTree_ends hbit hbegun hrunning hdone]
  case treeFails =>
    intro v s hr hopen hbit hdone hset hbegun hrunning
    rw [exec_cfgDone hr, State.cfgWritten_open hopen, State.decideTree_fails hbit hbegun hrunning hdone hset]
  case locked =>
    intro v s hr hlocked hnew hended
    rw [exec_cfgDone hr, State.cfgWritten_locked hlocked hnew, State.decideTree_idle (.inr hended)]
  case cleared =>
    intro v s hr hopen hbit
    rw [exec_cfgDone hr, State.cfgWritten_open hopen, State.decideTree_idle (.inl hbit)]
  case record =>
    intro p step s hr hstep
    show execBootRecClear p step s = _
    exact onLive_eq hr (if_pos hstep)

end Sys2Proof.Machine
end

section
/-! SUPPORT. Proofs about the wait graph at a tick, and about wait queries, their replies and verdicts. -/

namespace Sys2Proof.Machine

/-! ### WAIT_GRAPH_EVALUATION (R254) -/

/-- One microsecond after a tick that has not been evaluated, the overrunning steps take their classes. -/
theorem exec_waitGraphEvaluation_due {s : State} (hr : Runs s .tsu) (htick : s.isTick s.evalTick = true)
    (hpast : s.evalTick * 8192 + 100000 ≤ s.tsu.lfn * 8192 + s.tsu.sub) (honce : s.t.evalAt ≠ some s.evalTick) :
    exec .waitGraphEvaluation s = .next
      (((s.t.steps.filter fun o => o.tick + s.frameLen == s.evalTick && o.overran).foldl
        (fun u o => u.recordClass s.evalTick o) (s.modT fun x => { x with evalAt := some s.evalTick })).modT fun x =>
          { x with waits := x.waits.filter fun n => (n.ended.map fun e => mtBefore ⟨s.evalTick, 0⟩ e).getD true }) := by
  show execWaitGraphEvaluation s = _
  refine onLive_eq hr ((if_neg (by simp [htick, honce, hpast])).trans ?_)
  refine congrArg (State.modT _) (funext fun x => ?_)
  refine congrArg (fun l => ({ x with waits := l } : TsuState)) (List.filter_congr fun n _ => ?_)
  cases n.ended <;> rfl

/-! ### WAIT_QUERY (R255) -/

/-- A TSU that serves a role of the partition replies with the class of its step. -/
theorem exec_waitQuery_member {s : State} {partition : Nat} (handle step : Nat) (hr : Runs s .tsu) (hrole : s.hasRole = true)
    (hpart : s.diePartition = partition) :
    exec (.waitQuery partition handle step) s = .next
      (let c := s.answerClass handle step
       let role := if c.1 = 1 then (s.rd F.roleRole, s) else (s.draw.1 % 2 ^ 21, s.draw.2)
       role.2.mgmtUp .tsu 4 partition
        [handle, step % 65536, b2n (c.1 == 0), b2n (c.1 == 1), b2n c.2, b2n (c.1 == 2), role.1, role.1]) := by
  show execWaitQuery partition handle step s = _
  exact onLive_eq hr (if_neg (by simp [hrole, hpart]))

/-! ### WAIT_REPLY (R255) -/

/-- The query of the partition that a reply names by its channel and the low bits of its step. -/
def State.askedOf (s : State) (partition : Nat) (r : WaitReply) : Option HangQ :=
  s.d.hangs.find? fun q => q.partition == partition && q.handle == r.handle && q.step % 65536 == r.stepLo

/-- The query `q` with the reply joined, in its place among the queries. -/
def State.joinReply (s : State) (q : HangQ) (pos : Nat) (r : WaitReply) : State :=
  s.modD fun d => { d with hangs := d.hangs.map fun x => if x = q then joinWait q pos r else x }

section
variable {s : State} {pos partition : Nat} {r : WaitReply} (hr : Runs s .dbx) (hroles : (s.rolesAt partition pos).isEmpty = false)
include hr hroles

theorem exec_waitReply_below (hapex : s.apexSlot partition = none) :
    exec (.waitReply pos partition r) s = .next (s.nodeWait pos partition r) := by
  show execWaitReply pos partition r s = _
  exact onLive_eq hr ((if_neg (Bool.eq_false_iff.1 hroles)).trans (if_neg (by simp [hapex])))

variable (hapex : (s.apexSlot partition).isSome = true)
include hapex

theorem exec_waitReply_atApex : exec (.waitReply pos partition r) s = .next (s.apexWait pos partition r) := by
  show execWaitReply pos partition r s = _
  exact onLive_eq hr ((if_neg (Bool.eq_false_iff.1 hroles)).trans (if_pos hapex))

theorem exec_waitReply_unasked (hq : s.askedOf partition r = none) : exec (.waitReply pos partition r) s = .next s := by
  rw [State.askedOf] at hq
  rw [exec_waitReply_atApex hr hroles hapex]
  simp only [State.apexWait, hq]

/-- A reply joins its query once for each position; the verdict is taken with the last role. -/
theorem exec_waitReply_asked {q : HangQ} (hq : s.askedOf partition r = some q) :
    exec (.waitReply pos partition r) s = .next
      (if q.seen.contains pos = true then s
       else if (joinWait q pos r).expected ≤ (joinWait q pos r).count then (s.joinReply q pos r).takeVerdict (joinWait q pos r)
       else s.joinReply q pos r) := by
  rw [State.askedOf] at hq
  rw [exec_waitReply_atApex hr hroles hapex]
  simp only [State.apexWait, hq, State.joinReply]

end

/-- Settles O57: a query by the class that is answered, a reply by where it comes from and the query that it finds. -/
theorem waitsTakeTheirVerdicts : Obligations.WaitsTakeTheirVerdicts := by
  refine ⟨?tick, ?blocked, ?unblocked, ?noRole, ?last, ?joins, ?again, ?unasked, ?below, ?timeout⟩
  case tick =>
    intro s hr htick hpast honce
    exact exec_waitGraphEvaluation_due hr htick hpast honce
  case blocked =>
    intro partition handle step s hr hrole hpart hcls
    rw [exec_waitQuery_member handle step hr hrole hpart]
    simp only [hcls, if_true]
    rfl
  case unblocked =>
    intro partition handle step s hr hrole hpart hcls
    refine ⟨s.draw.1 % 2 ^ 21, ?_⟩
    rw [exec_waitQuery_member handle step hr hrole hpart]
    simp only [if_neg hcls, beq_false_of_ne hcls]
    rfl
  case noRole =>
    intro pos partition r s hr hroles
    show execWaitReply pos partition r s = _
    exact onLive_eq hr (if_pos hroles)
  case last =>
    intro pos partition r q s hr hroles hapex hq hnew hall
    rw [exec_waitReply_asked hr hroles hapex hq, if_neg (Bool.eq_false_iff.1 hnew), if_pos hall, State.joinReply]
  case joins =>
    intro pos partition r q s hr hroles hapex hq hnew hopen
    rw [exec_waitReply_asked hr hroles hapex hq, if_neg (Bool.eq_false_iff.1 hnew), if_neg (Nat.not_le.2 hopen), State.joinReply]
  case again =>
    intro pos partition r q s hr hroles hapex hq hseen
    rw [exec_waitReply_asked hr hroles hapex hq, if_pos hseen]
  case unasked =>
    intro pos partition r s hr hroles hapex hq
    exact exec_waitReply_unasked hr hroles hapex hq
  case below =>
    intro pos partition r s hr hroles hapex
    exact exec_waitReply_below hr hroles hapex
  case timeout =>
    intro ch q s hr hq
    show execHangVerdictTimeout ch s = _
    refine onLive_eq hr ?_
    simp only [hq]
    rfl

end Sys2Proof.Machine
end

section
/-! SUPPORT. Proofs about ready and suspect reports, restores that run out, and the compute domain's reset. -/

namespace Sys2Proof.Machine

/-! ### SUSPECT_REPORT (R257, R258) -/

/-- The channels to replay of a suspect report: those of its handles that are bound, in ascending order. -/
def State.suspectChans (s : State) (handles : List Nat) : List Nat :=
  sortNat ((handles.filter fun h => (s.bound h).isSome).map hIndex)

/-- At the apex a report is acted on where the slot's mode, the isolation and its own overflow allow it. -/
theorem exec_suspectReport_atApex {s : State} {partition k : Nat} (role target : Nat) (handles : List Nat) (overflow : Bool)
    (faultLfn : Nat) (hr : Runs s .dbx) (hapex : s.apexSlot partition = some k) :
    exec (.suspectReport partition role target handles overflow faultLfn) s = .next
      (if s.fltMode k = 1 ∧ s.is F.dfltCfgSuspectEn = true ∧ overflow = false then
        if (s.suspectChans handles).isEmpty = true then s
        else s.modD fun d => { d with suspects := d.suspects ++ [s.suspectChans handles] }
       else s.bump F.dfltUnresolvedCount) := by
  show execSuspectReport partition role target handles overflow faultLfn s = _
  refine onLive_eq hr ?_
  simp only [hapex]
  exact if_congr (by simp [and_assoc]) rfl rfl

/-! ### The compute domain's reset (R239, R333) -/

theorem State.requestReset_idle {s : State} (hack : s.t.cmpAck = false) (hidle : s.rd F.fltStatusCmpState ≠ 1) :
    s.requestReset = (s.wr F.fltStatusCmpState 1).emit .tsu (.pin .cmpRstReq 1) :=
  if_neg (by simp [hack, hidle])

theorem State.requestReset_underWay {s : State} (hbusy : s.t.cmpAck = true ∨ s.rd F.fltStatusCmpState = 1) :
    s.requestReset = s :=
  if_pos (by simpa using hbusy)

theorem exec_cmpReset {s : State} (hr : Runs s .tsu) (v : Word) :
    exec (.cmpReset v) s = .next (if bit v.toNat 0 = true then s.requestReset else s) := by
  show execCmpReset v s = _
  exact onLive_eq hr rfl

/-- The compute domain runs again, and a die that serves a role reports it ready. -/
theorem exec_cmpRstAckFall {s : State} (hr : Runs s .tsu) (hack : s.t.cmpAck = true) :
    exec .cmpRstAckFall s = .next
      (let u := (s.modT fun t => { t with cmpAck := false }).wr F.fltStatusCmpState 0
       if u.is F.roleRoleValid = true then u.reportReady true else u) := by
  show execCmpRstAckFall s = _
  exact onLive_eq hr (if_neg (by simp [hack]))

/-- Settles O58: a report by whether the node is the apex and what its slot allows, a reset by whether one is under way. -/
theorem reportsSuspectsAndComputeResets : Obligations.ReportsSuspectsAndComputeResets := by
  refine ⟨?ready, ?readyUp, ?suspectUp, ?held, ?unbound, ?unresolved, ?restore, ?asks, ?silent, ?kill, ?rise, ?fall, ?fallIdle⟩
  case ready =>
    intro partition role lfn k ready s hr hapex
    show execReadyReport partition role ready lfn s = _
    refine onLive_eq hr ?_
    simp only [hapex]
  case readyUp =>
    intro partition role lfn ready s hr hapex
    show execReadyReport partition role ready lfn s = _
    refine onLive_eq hr ?_
    simp only [hapex]
  case suspectUp =>
    intro partition role target faultLfn handles overflow s hr hapex
    show execSuspectReport partition role target handles overflow faultLfn s = _
    refine onLive_eq hr ?_
    simp only [hapex]
  case held =>
    intro partition role target faultLfn handles overflow k s hr hapex hmode hen hover hsome
    rw [exec_suspectReport_atApex _ _ _ _ _ hr hapex, if_pos ⟨hmode, hen, hover⟩]
    exact congrArg _ (if_neg (Bool.eq_false_iff.1 hsome))
  case unbound =>
    intro partition role target faultLfn handles overflow k s hr hapex hmode hen hover hnone
    rw [exec_suspectReport_atApex _ _ _ _ _ hr hapex, if_pos ⟨hmode, hen, hover⟩]
    exact congrArg _ (if_pos hnone)
  case unresolved =>
    intro partition role target faultLfn handles overflow k s hr hapex hnot
    rw [exec_suspectReport_atApex _ _ _ _ _ hr hapex, if_neg]
    rintro ⟨hmode, hen, hover⟩
    simp [hmode, hen, hover] at hnot
  case restore =>
    intro ch c s hr hc hexec hwait hdue
    show execRestoreTimeout ch s = _
    refine onLive_eq hr ?_
    simp only [hc]
    exact if_pos (by simp [hexec, hwait, hdue])
  case asks =>
    intro v s hr hbit hack hidle
    rw [exec_cmpReset hr, if_pos hbit, State.requestReset_idle hack hidle]
  case silent =>
    intro v s hr hnot
    rw [exec_cmpReset hr]
    rcases hnot with hclear | hbusy
    · rw [if_neg (Bool.eq_false_iff.1 hclear)]
    · rw [State.requestReset_underWay hbusy, ite_self]
  case kill =>
    intro target handle k s hr hk
    show execKillTimeout target handle s = _
    refine onLive_eq hr ?_
    simp only [hk]
  case rise =>
    intro s hr hack
    show execCmpRstAckRise s = _
    exact onLive_eq hr (if_neg (Bool.eq_false_iff.1 hack))
  case fall =>
    intro s hr hack hvalid
    exact (exec_cmpRstAckFall hr hack).trans (congrArg _ (if_pos hvalid))
  case fallIdle =>
    intro s hr hack hnone
    exact (exec_cmpRstAckFall hr hack).trans (congrArg _ (if_neg (Bool.eq_false_iff.1 hnone)))

end Sys2Proof.Machine
end

section
/-! SUPPORT. Proofs about the run of the queue: every command answers a next state, most are without effect on a part that is
held in reset, and a block of which both parts are held stays so until a release or a recovery. -/

namespace Sys2Proof.Machine

/-! ### Every command answers a next state (R353, log 3) -/

/-- The command acts on a part that is held in reset: the resets and releases, the end of a thermal trip and the boundary scan
(R240, R333, R342, R343, R350). -/
def actsHeld : Instr → Bool
  | .dieReset | .dieResetRelease .. | .distributorReset | .distributorResetRelease .. | .thermalRecovery _
  | .boundaryScanInstruction _ => true
  | _ => false

/-- Any other command is the meaning of a row of one part that is out of reset. -/
theorem exec_onLive {c : Instr} (h : actsHeld c = false) (s : State) : ∃ p f, exec c s = onLive p s f := by
  cases c
  case dieReset | dieResetRelease | distributorReset | distributorResetRelease | thermalRecovery | boundaryScanInstruction =>
    cases h
  all_goals unfold exec; exact ⟨_, _, rfl⟩

theorem exec_next (c : Instr) (s : State) : ∃ t, exec c s = .next t := by
  cases hc : actsHeld c
  case false =>
    obtain ⟨p, f, h⟩ := exec_onLive hc s
    exact ⟨_, h⟩
  case true =>
    cases c
    case dieReset | dieResetRelease | distributorReset | distributorResetRelease | thermalRecovery | boundaryScanInstruction =>
      exact ⟨_, rfl⟩
    all_goals cases hc

/-- The step of a state whose queue begins with a command is that command's effect with the rest of the queue behind it. -/
theorem step_cons {s : State} {c : Instr} {rest : List Instr} (h : s.pending = c :: rest) :
    step s = exec c { s with pending := rest } := by
  simp only [step, h]

theorem step_nil {s : State} (h : s.pending = []) : step s = .next s.idle := by
  simp only [step, h]

theorem step_next (s : State) : ∃ t, step s = .next t := by
  cases h : s.pending with
  | nil => exact ⟨_, step_nil h⟩
  | cons c rest =>
    rw [step_cons h]
    exact exec_next c _

/-- Settles O9: the step is defined by the front of the queue. -/
theorem stepRunsFrontCommand : Obligations.StepRunsFrontCommand :=
  fun _ _ _ h => step_cons h

/-- Settles O12: by induction on the number of steps, each of which answers a next state. -/
theorem noRunStops : Obligations.NoRunStops := by
  intro k
  induction k with
  | zero => exact fun _ => rfl
  | succ k ih =>
    intro s
    obtain ⟨t, ht⟩ := step_next s
    simpa only [SafeRun, run, ht] using ih t

/-! ### What keeps the parts in or out of reset, and the queue -/

/-- In `t` each part is out of reset exactly when it is in `s`, and the same commands wait. -/
structure SameHold (s t : State) : Prop where
  live : ∀ p, (t.node p).live = (s.node p).live
  pending : t.pending = s.pending

namespace SameHold

theorem refl (s : State) : SameHold s s := ⟨fun _ => rfl, rfl⟩

theorem trans {s t u : State} (h : SameHold s t) (k : SameHold t u) : SameHold s u :=
  ⟨fun p => (k.live p).trans (h.live p), k.pending.trans h.pending⟩

theorem wr (s : State) (f : Fld) (v : Nat) (i w : Nat := 0) : SameHold s (s.wr f v i w) :=
  ⟨s.wr_node_live f v i w, s.wr_pending f v i w⟩

theorem emit (s : State) (p : Part) (o : Out) : SameHold s (s.emit p o) :=
  ⟨s.emit_node_live p o, s.emit_pending p o⟩

theorem modD (s : State) (f : DbxState → DbxState) : SameHold s (s.modD f) :=
  ⟨fun p => by rw [s.modD_node f p], rfl⟩

theorem foldl {α : Type} {f : State → α → State} (h : ∀ s a, SameHold s (f s a)) (l : List α) (s : State) :
    SameHold s (l.foldl f s) :=
  List.foldlRecOn (motive := SameHold s) l f (refl s) fun t ht a _ => ht.trans (h t a)

theorem bothHeld {s t : State} (h : SameHold s t) (hs : BothHeld s) : BothHeld t :=
  ⟨(h.live .tsu).trans hs.1, (h.live .dbx).trans hs.2⟩

end SameHold

theorem State.strapTsu_sameHold (s : State) (lvl oe port : Nat) : SameHold s (s.strapTsu lvl oe port) := by
  unfold State.strapTsu
  refine (SameHold.trans ?_ (.foldl (fun t _ => .wr t _ _ _) _ _)).trans (.emit _ _ _)
  exact SameHold.trans (((SameHold.wr s _ _).trans (.wr _ _ _)).trans (.wr _ _ _)) (.foldl (fun t _ => .wr t _ _ _) _ _)

theorem State.pinsOff_sameHold (s : State) : SameHold s s.pinsOff := by
  unfold State.pinsOff
  refine (SameHold.trans ?_ (.foldl (fun t _ => .emit t _ _) _ _)).trans (.emit _ _ _)
  exact SameHold.trans (((SameHold.emit s _ _).trans (.emit _ _ _)).trans (.emit _ _ _)) (.foldl (fun t _ => .emit t _ _) _ _)

/-! ### Where both parts are held -/

/-- A command releases a part or ends a thermal trip (R240, R342, R343). -/
def releases : Instr → Bool
  | .dieResetRelease .. | .distributorResetRelease .. | .thermalRecovery _ => true
  | _ => false

theorem releases_eq_false_iff (c : Instr) : releases c = false ↔
    (∀ lvl oe port, c ≠ .dieResetRelease lvl oe port) ∧ (∀ b a, c ≠ .distributorResetRelease b a) ∧
      (∀ tj, c ≠ .thermalRecovery tj) := by
  constructor
  · intro h
    refine ⟨?_, ?_, ?_⟩ <;> (intros; rintro rfl; cases h)
  · rintro ⟨hdie, hdbx, htrip⟩
    unfold releases
    split
    · exact absurd rfl (hdie _ _ _)
    · exact absurd rfl (hdbx _ _)
    · exact absurd rfl (htrip _)
    · rfl

/-- Both parts are held, and the queue is that of `s`. -/
structure HeldWith (q : List Instr) (s : State) : Prop where
  held : BothHeld s
  queue : s.pending = q

theorem HeldWith.keep {q : List Instr} {s t : State} (h : HeldWith q s) (k : SameHold s t) : HeldWith q t :=
  ⟨k.bothHeld h.held, k.pending.trans h.queue⟩

theorem HeldWith.resetTsu {q : List Instr} {s : State} (h : HeldWith q s) : HeldWith q s.resetTsu := by
  have cleared : HeldWith q { s with
      tsu := { live := false, out := s.tsu.out, bindings := s.tsu.bindings, lockLane := s.tsu.lockLane }, t := {} } :=
    ⟨⟨rfl, h.held.2⟩, h.queue⟩
  exact cleared.keep (((State.strapTsu_sameHold _ _ _ _).trans (.emit _ _ _)).trans (.emit _ _ _))

theorem HeldWith.resetDbx {q : List Instr} {s : State} (h : HeldWith q s) : HeldWith q s.resetDbx := by
  have cleared : HeldWith q { s with
      dbx := { live := false, out := s.dbx.out, bindings := s.dbx.bindings, images := s.stagedRun.1, lockLane := s.dbx.lockLane },
      d := { store := s.d.store, tripped := s.d.tripped, tripOwed := s.d.tripOwed } } :=
    ⟨⟨h.held.1, rfl⟩, h.queue⟩
  exact cleared.keep ((((SameHold.wr _ _ _).trans (.wr _ _ _)).trans (.wr _ _ _)).trans (State.pinsOff_sameHold _))

/-- A node in reset does not count. -/
theorem Node.idle_held {n : Node} (h : n.live = false) : n.idle = n := by
  simp [Node.idle, h]

/-- On a block that is held a command that releases no part keeps it held, and leaves the queue to the next. -/
theorem HeldWith.exec {q : List Instr} {c : Instr} {s t : State} (h : HeldWith q s) (hc : releases c = false)
    (ht : exec c s = .next t) : HeldWith q t := by
  cases hact : actsHeld c
  case false =>
    obtain ⟨p, f, hp⟩ := exec_onLive hact s
    have hdead : (s.node p).live = false := by cases p <;> [exact h.held.1; exact h.held.2]
    rw [hp, onLive_dead hdead] at ht
    cases ht
    exact h
  case true =>
    cases c
    case dieReset =>
      cases ht
      exact h.resetTsu
    case distributorReset =>
      cases ht
      have hreset : HeldWith q s.assertReset := h.resetDbx.keep (.modD _ _)
      refine hreset.keep ?_
      split
      · exact .refl _
      · exact (SameHold.emit _ _ _).trans (.emit _ _ _)
    case boundaryScanInstruction =>
      cases ht
      split
      · exact h.keep (.emit _ _ _)
      · exact h
    case dieResetRelease | distributorResetRelease | thermalRecovery => cases hc
    all_goals cases hact

/-- Settles O13: no waiting command but the three releases ends a reset, and none of them waits. -/
theorem heldBlockStaysHeld : Obligations.HeldBlockStaysHeld := by
  intro s t hs hq ht
  simp only [← releases_eq_false_iff] at hq ⊢
  cases hp : s.pending with
  | nil =>
    rw [step_nil hp, State.idle, Node.idle_held hs.1, Node.idle_held hs.2] at ht
    cases ht
    exact ⟨hs, hq⟩
  | cons c rest =>
    rw [step_cons hp] at ht
    have hrest : HeldWith rest { s with pending := rest } := ⟨hs, rfl⟩
    have hnext : HeldWith rest t := hrest.exec (hq c (hp ▸ List.mem_cons_self)) ht
    refine ⟨hnext.held, fun c' hc' => hq c' ?_⟩
    rw [hp]
    exact List.mem_cons_of_mem _ (hnext.queue ▸ hc')

end Sys2Proof.Machine
end

section
/-! SUPPORT. Proofs about the values after reset and the bound of the error log. -/

namespace Sys2Proof.Machine

/-- Right after reset no field has been written (R355). -/
theorem State.reset_regs (p : Part) : (State.reset.node p).regs = [] := by
  cases p <;> rfl

theorem State.rd_reset (f : Fld) (i w : Nat) : State.reset.rd f i w = f.resetAt i := by
  rw [State.rd, Node.rd, State.reset_regs, fgetD, fget?_nil, Option.getD_none]

/-- Settles O11: a field that has not been written reads its reset value, and State.reset fills no list. -/
theorem resetGivesEveryFieldItsValue : Obligations.ResetGivesEveryFieldItsValue := by
  refine ⟨State.rd_reset, fun p => ⟨?_, ?_, ?_⟩, rfl, rfl, rfl, rfl, rfl, rfl, rfl, rfl⟩
  · rw [State.locked, State.is, State.rd_reset]
    cases p <;> rfl
  · rw [State.timeState, State.rd_reset]
    cases p <;> rfl
  · cases p <;> exact ⟨rfl, rfl, rfl, rfl⟩

/-- Into a full log no entry goes: it is counted as lost. -/
theorem State.logErr_full {s : State} {p : Part} (h : 64 ≤ (s.node p).errlog.length) (code port arg : Nat) :
    s.logErr p code port arg = s.bump (F.errlogStatusLost p) :=
  if_pos h

/-- Settles O22: by whether the log has room for the entry. -/
theorem errorLogHoldsSixtyFour : Obligations.ErrorLogHoldsSixtyFour := by
  intro p code port arg s
  refine ⟨fun hroom => ?_, fun hfull => ⟨?_, ?_⟩⟩
  · rw [State.logErr_errlog, if_neg (Nat.not_le.2 hroom)]
    exact ⟨rfl, by simpa using hroom⟩
  · rw [State.logErr_errlog, if_pos hfull]
  · rw [State.logErr_full hfull, State.rd_bump]

end Sys2Proof.Machine
end

section
/-! SUPPORT. Proofs about staged images and scrubs: what a write of the stage control does, and when a scrub begins and ends. -/

namespace Sys2Proof.Machine

/-! ### STAGE_COMMIT and STAGE_CLEAR (R295) -/

/-- What a write of DBX_SEC_STAGE_CTRL leaves before it commits: the value taken, and with clear no staged image. -/
def State.stageWritten (s : State) (v : Word) : State :=
  if bit v.toNat 19 = true then (s.regWrite .dbx 0x90004 v.toNat false false).clearStaged
  else s.regWrite .dbx 0x90004 v.toNat false false

/-- A commit stages a verified image of index 2 to 5 whose security version is not below the fused one. -/
theorem exec_stageCommit {s : State} (hr : Runs s .dbx) {v : Word} (hbit : bit v.toNat 18 = true) (sigOk : Bool) (svn digest : Nat) :
    exec (.stageCommit v sigOk svn digest) s = .next
      (let t := s.stageWritten v
       let i := t.rd F.stageCtrlImage
       let u := t.wr F.stageCtrlDone 1
       if sigOk = true ∧ u.rd F.secSvnFusedMin ≤ svn ∧ 2 ≤ i ∧ i ≤ 5 then
         ((u.wr F.stageCtrlRejected 0).modNode .dbx fun n =>
           { n with staged := n.staged.filter (fun x => x.1 != i) ++ [(i, digest, svn)] }).showSec
       else ((u.wr F.stageCtrlRejected 1).bump F.fwRejectCount).interrupt .dbx 6) := by
  show execStageCommit v sigOk svn digest s = _
  refine onLive_eq hr ((if_neg (by simp [hbit])).trans ?_)
  exact if_congr (by simp [State.stageWritten, and_assoc]) rfl rfl

/-! ### SCRUB (R297, R298) -/

section
variable {s : State} {p : Part} {ring seq : Nat} {f : InFlight} (hr : Runs s p) (ha : Asked s p ring seq 0x42 f)
include hr ha

/-- During a scrub the row of another descriptor completes with SCRUB_ACTIVE, and that of the scrub's own waits. -/
theorem exec_scrub_during {x : ScrubRt} (hx : (s.node p).scrub = some x) :
    exec (.scrub p ring seq) s = .next (if x.reply = some (ring, seq) then s.begin_ p ring seq
      else (s.begin_ p ring seq).finish p ring seq 0xC 0 0) := by
  show execScrub p ring seq s = _
  refine onLive_desc hr ha ?_
  simp only [State.begin_node_scrub, hx]

/-- Where none runs a scrub begins, at a distributor also at the twin. -/
theorem exec_scrub_begins (hnone : (s.node p).scrub = none) :
    exec (.scrub p ring seq) s = .next (match p with
      | .tsu => (s.begin_ .tsu ring seq).scrubTsu ring seq
      | .dbx => ((s.begin_ .dbx ring seq).emit .dbx (.peerMsg 4 [opnd f.desc 40 1])).scrubDbx (opnd f.desc 40 1)
          (some (ring, seq))) := by
  show execScrub p ring seq s = _
  refine onLive_desc hr ha ?_
  cases p <;> simp only [State.begin_node_scrub, hnone]

end

/-! ### SCRUB_END (R299) -/

/-- The part after its scrub `x` has ended: the ports are UP again and the status shows none. -/
def State.scrubEnded (s : State) (p : Part) (x : ScrubRt) : State :=
  let t := (s.modNode p fun n => { n with scrub := none }).portsTo p 6 4 x.ports
  match p with
  | .tsu => t.wr F.tsecStatusScrub 0
  | .dbx => ((t.wr F.dsecStatusScrubSlotValid 0).wr F.dsecStatusScrubSlot 0).showSec

/-- At its fixed length a scrub ends, and the descriptor that began it completes with the count. -/
theorem exec_scrubEnd {s : State} {p : Part} {x : ScrubRt} (hr : Runs s p) (hx : (s.node p).scrub = some x)
    (hend : x.began + scrubLf p ≤ s.lfn p) :
    exec (.scrubEnd p) s = .next (match x.reply with
      | some r => (s.scrubEnded p x).finish p r.1 r.2 0 (x.began + scrubLf p) 0
      | none => s.scrubEnded p x) := by
  show execScrubEnd p s = _
  refine onLive_eq hr ?_
  simp only [hx]
  exact if_neg (Nat.not_lt.2 hend)

/-- Settles O60: a write of the stage control by its bits, a scrub by what runs and by who asked for it. -/
theorem imagesStageAndScrubsRun : Obligations.ImagesStageAndScrubsRun := by
  refine ⟨?commit, ?clear, ?tsu, ?dbx, ?other, ?own, ?relay, ?tsuEnd, ?dbxEnd, ?relayEnd⟩
  case commit =>
    intro v sigOk svn digest s hr hbit
    exact exec_stageCommit hr hbit sigOk svn digest
  case clear =>
    intro v s hr
    show execStageClear v s = _
    exact onLive_eq hr rfl
  case tsu =>
    intro ring seq f s hr ha hnone
    exact exec_scrub_begins hr ha hnone
  case dbx =>
    intro ring seq f s hr ha hnone
    exact exec_scrub_begins hr ha hnone
  case other =>
    intro p ring seq f x s hr ha hx hne
    rw [exec_scrub_during hr ha hx, if_neg hne]
  case own =>
    intro p ring seq f x s hr ha hx heq
    rw [exec_scrub_during hr ha hx, if_pos heq]
  case relay =>
    intro slot s hr hidle hvalid
    show execScrubRelay slot s = _
    exact onLive_eq hr (if_neg (by simp [hidle, hvalid]))
  case tsuEnd =>
    intro x r s hr hx hend hreply
    rw [exec_scrubEnd hr hx hend, hreply]
    rfl
  case dbxEnd =>
    intro x r s hr hx hend hreply
    rw [exec_scrubEnd hr hx hend, hreply]
    rfl
  case relayEnd =>
    intro x s hr hx hend hreply
    rw [exec_scrubEnd hr hx hend, hreply]
    rfl

end Sys2Proof.Machine
end

section
/-! SUPPORT. Proofs about the SPDM requests of both parts and about what the root of trust answers and installs. -/

namespace Sys2Proof.Machine

/-! ### KEY_INSTALL (R286, R289, R290, R292) -/

/-- A distributor's security core judges a request, binds where it grants it, and answers. -/
theorem State.keyInstall_dbx {s : State} {ring seq : Nat} {f : InFlight} (ha : Asked s .dbx ring seq 0x41 f) (req : InstallReq) :
    s.keyInstall .dbx ring seq req =
      (let b := s.begin_ .dbx ring seq
       let target := opnd f.desc 40 1
       let c := b.installCause .dbx target req
       (if c.1 = 0 then b.grantBind .dbx target c.2 req (ringKey req.session target (b.dbx.bindings + 1))
        else b).answerInstall .dbx ring seq f.desc c.1 c.2) :=
  State.withDesc_asked ha _

/-- A TSU hands a request that it has not handed over yet to the root of trust. -/
theorem State.keyInstall_tsu {s : State} {ring seq : Nat} {f : InFlight} (ha : Asked s .tsu ring seq 0x41 f) (req : InstallReq)
    (hnew : (s.t.mbWait.any fun x => x.kind == 2 && x.ring == ring && x.seq == seq) = false) :
    s.keyInstall .tsu ring seq req = (s.begin_ .tsu ring seq).mbRequest 2 ring seq f.desc.ext none (some req) :=
  (State.withDesc_asked ha _).trans (if_neg (Bool.eq_false_iff.1 hnew))

section
variable {s : State} {p : Part} (hr : Runs s p) (ring seq : Nat) {req : InstallReq}
include hr

theorem exec_bindTenant (hmanager : req.op ≠ 2) (hload : req.op ≠ 3) :
    exec (.bindTenant p ring seq req) s = .next (s.keyInstall p ring seq req) := by
  show execBindTenant p ring seq req s = _
  exact onLive_eq hr (if_neg (by simp [hmanager, hload]))

theorem exec_bindManager (hop : req.op = 2) : exec (.bindManager p ring seq req) s = .next (s.keyInstall p ring seq req) := by
  show execBindManager p ring seq req s = _
  exact onLive_eq hr (if_pos hop)

theorem exec_loadKey (hop : req.op = 3) : exec (.loadKey p ring seq req) s = .next (s.keyInstall p ring seq req) := by
  show execLoadKey p ring seq req s = _
  exact onLive_eq hr (if_pos hop)

end

/-! ### ATTEST_TIMEOUT (R292) -/

/-- 45 ms after an ATTEST request without a response the descriptor completes with an ERROR. -/
theorem exec_attestTimeout_due {s : State} {ring seq : Nat} {x : MbWait} {f : InFlight} (hr : Runs s .tsu)
    (hx : s.t.mbWait.find? (fun x => x.kind == 1 && x.ring == ring && x.seq == seq) = some x)
    (hdue : x.at_ + lfOfMs 45 ≤ s.tsu.lfn)
    (hf : (s.modT fun t => { t with mbWait := t.mbWait.filter (· != x) }).inFlight .tsu ring seq = some f) :
    exec (.attestTimeout ring seq) s = .next
      (let v := (s.modT fun t => { t with mbWait := t.mbWait.filter (· != x) }).draw
       v.2.answer .tsu ring seq 0x30 f.desc (Config.spdmResponse v.1 2 [])) := by
  show execAttestTimeout ring seq s = _
  refine onLive_eq hr ?_
  simp only [hx, if_neg (Nat.not_lt.2 hdue), hf]

/-! ### The root of trust's writes (R292) -/

section
variable {s : State} (hr : Runs s .tsu) (v : Word)
include hr

/-- What the root of trust's write of TSU_MB_RSP does to the part that takes it: with go the segment is joined, and the last
one completes the response. -/
theorem exec_mailboxResponse_rot (bytes : List Byte) :
    exec (.mailboxResponse v true bytes) s = .next
      (let t := s.regWrite .tsu 0x9004 v.toNat true false
       let seg := bytes.take (t.rd F.mbRspLen)
       let all := if t.is F.mbRspFirst = true then seg else t.t.mbRsp ++ seg
       if bit v.toNat 31 = false then t
       else if t.is F.mbRspLast = false then t.modT fun x => { x with mbRsp := all }
       else (t.modT fun x => { x with mbRsp := [] }).mbAnswer (t.rd F.mbRspKind) (t.rd F.mbRspTagTag) (t.is F.mbRspVerdict) all) := by
  show execMailboxResponse v true bytes s = _
  refine onLive_eq hr ((if_neg (by decide)).trans ?_)
  exact if_congr (by simp) rfl (if_congr (by simp) rfl rfl)

/-- What the root of trust's write of TSU_KEY_SEL does: with install the selected key is installed, of a link direction or of a
ring pair. -/
theorem exec_keyInstallWrite_rot :
    exec (.keyInstallWrite v true) s = .next
      (let t := s.regWrite .tsu 0x9010 v.toNat true false
       let k := t.rd F.keySelTarget
       if bit v.toNat 31 = false then t
       else if k < 4 then t.installLinkKey (k / 2) (k % 2 == 1) (t.is F.keySelNext) t.keyData
       else if k < 6 then t.installRingKey (t.rd F.keySelRing) (k - 2) t.keyData
       else t) := by
  show execKeyInstallWrite v true s = _
  refine onLive_eq hr ((if_neg (by decide)).trans ?_)
  exact if_congr (by simp) rfl rfl

end

/-- Settles O59: a request by the part that takes it and the cause that stands, a write of the root of trust by its go or
install bit. -/
theorem sessionsAnswerAndBind : Obligations.SessionsAnswerAndBind := by
  refine ⟨?measure, ?answer, ?handOver, ?timeout, ?tenant, ?tenantRefused, ?tenantTsu, ?manager, ?managerTsu, ?loadRefused,
    ?loadTsu, ?rspForeign, ?rspSegment, ?rspLast, ?rspIdle, ?keyForeign, ?keyIdle, ?keyNone, ?keyLink, ?keyRing⟩
  case measure =>
    intro sess x ring seq f s hr ha
    show execAttest .dbx ring seq (.getMeasurements sess x) s = _
    exact onLive_desc hr ha rfl
  case answer =>
    intro req ring seq f s hr ha hother
    show execAttest .dbx ring seq req s = _
    refine onLive_desc hr ha ?_
    cases req with
    | getMeasurements sess x => exact absurd rfl (hother sess x)
    | keyExchange | finish | endSession | other => simp only [ite_self]
  case handOver =>
    intro req ring seq f s hr ha hnew
    show execAttest .tsu ring seq req s = _
    refine onLive_desc hr ha ?_
    exact if_neg (Bool.eq_false_iff.1 hnew)
  case timeout =>
    intro ring seq x f s hr hx hdue hf
    exact exec_attestTimeout_due hr hx hdue hf
  case tenant =>
    intro req ring seq f s hr ha hmanager hload hcause
    rw [exec_bindTenant hr ring seq hmanager hload, State.keyInstall_dbx ha]
    simp only [hcause, if_true]
  case tenantRefused =>
    intro req ring seq f cause s hr ha hmanager hload hcause hne
    rw [exec_bindTenant hr ring seq hmanager hload, State.keyInstall_dbx ha]
    simp only [hcause, if_neg hne]
  case tenantTsu =>
    intro req ring seq f s hr ha hmanager hload hnew
    rw [exec_bindTenant hr ring seq hmanager hload, State.keyInstall_tsu ha req hnew]
  case manager =>
    intro req ring seq f s hr ha hop
    rw [exec_bindManager hr ring seq hop, State.keyInstall_dbx ha]
  case managerTsu =>
    intro req ring seq f s hr ha hop hnew
    rw [exec_bindManager hr ring seq hop, State.keyInstall_tsu ha req hnew]
  case loadRefused =>
    intro req ring seq f cause s hr ha hop hcause hne
    rw [exec_loadKey hr ring seq hop, State.keyInstall_dbx ha]
    simp only [hcause, if_neg hne]
  case loadTsu =>
    intro req ring seq f s hr ha hop hnew
    rw [exec_loadKey hr ring seq hop, State.keyInstall_tsu ha req hnew]
  case rspForeign =>
    intro v bytes s hr
    show execMailboxResponse v false bytes s = _
    exact onLive_eq hr rfl
  case rspSegment =>
    intro v bytes s hr hgo hmore
    rw [exec_mailboxResponse_rot hr v bytes, if_neg (by simp [hgo]), if_pos hmore]
  case rspLast =>
    intro v bytes s hr hgo hlast
    rw [exec_mailboxResponse_rot hr v bytes, if_neg (by simp [hgo]), if_neg (by simp [hlast])]
  case rspIdle =>
    intro v bytes s hr hidle
    rw [exec_mailboxResponse_rot hr v bytes, if_pos hidle]
  case keyForeign =>
    intro v s hr
    show execKeyInstallWrite v false s = _
    exact onLive_eq hr rfl
  case keyIdle =>
    intro v s hr hidle
    rw [exec_keyInstallWrite_rot hr v, if_pos hidle]
  case keyNone =>
    intro v s hr hgo htarget
    rw [exec_keyInstallWrite_rot hr v, if_neg (by simp [hgo]), if_neg (by omega), if_neg (by omega)]
  case keyLink =>
    intro v s hr hgo htarget
    rw [exec_keyInstallWrite_rot hr v, if_neg (by simp [hgo]), if_pos htarget]
  case keyRing =>
    intro v s hr hgo htarget
    rw [exec_keyInstallWrite_rot hr v, if_neg (by simp [hgo]), if_neg (by omega), if_pos (by omega)]

end Sys2Proof.Machine
end

section
/-! SUPPORT. Proofs about health reads, the spare policy, insertion records, expulsion and service. -/

namespace Sys2Proof.Machine

/-! ### HEALTH_READ (R275, R276) -/

/-- The row of a health read takes its effect on a descriptor of its selector. -/
theorem State.withSelector_asked {s : State} {p : Part} {ring seq sel : Nat} {f : InFlight} (ha : Asked s p ring seq 0x50 f)
    (hsel : opnd f.desc 40 1 = sel) (g : Desc → State → State) :
    s.withSelector p ring seq sel g = g f.desc (s.begin_ p ring seq) :=
  (State.withDesc_asked ha _).trans (if_pos hsel)

/-! ### SPARE_POLICY (R267 to R269, R277) -/

/-- The row of a policy takes its effect on a descriptor of its op. -/
theorem State.withPolicy_asked {s : State} {p : Part} {ring seq op : Nat} {f : InFlight} (ha : Asked s p ring seq 0x51 f)
    (hop : policyOp f.desc = op) (g : List Byte → State → State) :
    s.withPolicy p ring seq op g = g f.desc.ext (s.begin_ p ring seq) :=
  (State.withDesc_asked ha _).trans (if_pos hop)

/-- A part that runs answers what its row of a policy makes of a descriptor of that op. -/
theorem onLive_policy {s t : State} {p : Part} {ring seq op : Nat} {f : InFlight} (hr : Runs s p) (ha : Asked s p ring seq 0x51 f)
    (hop : policyOp f.desc = op) {g : List Byte → State → State} (h : g f.desc.ext (s.begin_ p ring seq) = t) :
    onLive p s (fun s => s.withPolicy p ring seq op g) = .next t :=
  onLive_eq hr ((State.withPolicy_asked ha hop g).trans h)

/-- Likewise for a row of a health read. -/
theorem onLive_selector {s t : State} {p : Part} {ring seq sel : Nat} {f : InFlight} (hr : Runs s p)
    (ha : Asked s p ring seq 0x50 f) (hsel : opnd f.desc 40 1 = sel) {g : Desc → State → State}
    (h : g f.desc (s.begin_ p ring seq) = t) : onLive p s (fun s => s.withSelector p ring seq sel g) = .next t :=
  onLive_eq hr ((State.withSelector_asked ha hsel g).trans h)

/-- ROLE_LOADED: a role that is pending becomes valid, and the ready report is owed (R267). -/
theorem exec_roleLoaded {s : State} {ring seq : Nat} {f : InFlight} (hr : Runs s .tsu) (ha : Asked s .tsu ring seq 0x51 f)
    (hop : policyOp f.desc = 4) :
    exec (.roleLoaded ring seq) s = .next
      ((if s.is F.thealthRolePending = true then
          (((s.begin_ .tsu ring seq).wr F.thealthRolePending 0).wr F.roleRoleValid 1).oweReady
        else s.begin_ .tsu ring seq).finish .tsu ring seq 0 0 0) := by
  show execRoleLoaded ring seq s = _
  exact onLive_policy hr ha hop (by rw [State.begin_is])

/-- Settles O54: a read by its selector, a policy by its op and by the record that it finds. -/
theorem healthIsReadAndPolicySet : Obligations.HealthIsReadAndPolicySet := by
  refine ⟨?block, ?ports, ?records, ?setTsu, ?setDbx, ?insert, ?insertFull, ?lost, ?lostNone, ?deadline, ?release, ?loaded,
    ?loadedAgain⟩
  case block =>
    intro p ring seq f s hr ha hsel
    show execHealthBlockRead p ring seq s = _
    exact onLive_selector hr ha hsel rfl
  case ports =>
    intro ring seq f s hr ha hsel
    show execPortHealthRead ring seq s = _
    exact onLive_selector hr ha hsel rfl
  case records =>
    intro ring seq f s hr ha hsel
    show execRecordLogRead ring seq s = _
    exact onLive_selector hr ha hsel rfl
  case setTsu =>
    intro ring seq f s hr ha hop
    show execSet .tsu ring seq s = _
    exact onLive_policy hr ha hop rfl
  case setDbx =>
    intro ring seq f s hr ha hop
    show execSet .dbx ring seq s = _
    exact onLive_policy hr ha hop rfl
  case insert =>
    intro ring seq i f s hr ha hop hfree
    show execInsertBegin ring seq s = _
    refine onLive_policy hr ha hop ?_
    simp only [hfree, State.begin_dbx_lfn]
  case insertFull =>
    intro ring seq f s hr ha hop hfull
    show execInsertBegin ring seq s = _
    refine onLive_policy hr ha hop ?_
    simp only [hfull]
  case lost =>
    intro ring seq i f s hr ha hop hopen
    show execLost ring seq s = _
    refine onLive_policy hr ha hop ?_
    simp only [hopen]
  case lostNone =>
    intro ring seq f s hr ha hop hnone
    show execLost ring seq s = _
    refine onLive_policy hr ha hop ?_
    simp only [hnone]
  case deadline =>
    intro i t s hr hby hopen hdue
    show execInsertionDeadline i s = _
    refine onLive_eq hr ?_
    simp only [hby]
    exact if_pos (by simp [hopen, hdue])
  case release =>
    intro ring seq f s hr ha hop
    show execRelease ring seq s = _
    exact onLive_policy hr ha hop rfl
  case loaded =>
    intro ring seq f s hr ha hop hpending
    rw [exec_roleLoaded hr ha hop, if_pos hpending]
  case loadedAgain =>
    intro ring seq f s hr ha hop hidle
    rw [exec_roleLoaded hr ha hop, if_neg (Bool.eq_false_iff.1 hidle)]

/-! ### Expulsion (R273) -/

/-- At the apex a request is granted within the limits, and else the role is retained. -/
theorem exec_expulsionRequest_atApex {s : State} {partition k : Nat} (role pod score : Nat) (hr : Runs s .dbx)
    (hapex : s.apexSlot partition = some k) :
    exec (.expulsionRequest partition role pod score) s = .next
      (if s.mayExpel partition pod = true then s.grantExpel partition role pod else s.retainRole k partition role pod) := by
  show execExpulsionRequest partition role pod score s = _
  refine onLive_eq hr ?_
  simp only [hapex]

/-- A request without a verdict ends with its cause, and is repeated after 2^30 link frames while that stands. -/
theorem exec_expulsionRepeat_open {s : State} {t : Nat} (hr : Runs s .tsu) (ht : s.t.expelAt = some t) :
    exec .expulsionRepeat s = .next
      (if s.expelCause = false then (s.wr F.thealthExpelReq 0).modT fun x => { x with expelAt := none }
       else if t + 2 ^ 30 ≤ s.tsu.lfn then s.expelRequest
       else s) := by
  show execExpulsionRepeat s = _
  refine onLive_eq hr ?_
  simp only [ht]
  exact if_congr (by simp) rfl rfl

/-- When the oldest grant leaves the window, the oldest listed role that the limits then allow is granted. -/
theorem exec_grantWindowExpiry_due {s : State} {g : Nat × Nat × Nat} {rest : List (Nat × Nat × Nat)} (hr : Runs s .dbx)
    (hg : s.d.grants = g :: rest) (hdue : g.1 + s.expelWindow ≤ s.dbx.lfn) :
    exec .grantWindowExpiry s = .next
      (let t := s.modD fun d => { d with grants := rest }
       match t.d.retPods.find? fun x => t.mayExpel x.2.2 x.2.1 with
       | some x => (t.unlist x.2.2 x.1).grantExpel x.2.2 x.1 x.2.1
       | none => t) := by
  show execGrantWindowExpiry s = _
  refine onLive_eq hr ?_
  simp only [hg]
  exact if_neg (Nat.not_lt.2 hdue)

/-! ### X1_SWITCH (R278) -/

/-- At the switch LFN the pair traffic moves to X1 where X1 is ready for it, or back; else x1_refused is set. -/
theorem exec_x1Switch_due {s : State} (hr : Runs s .dbx) (honce : s.d.x1Done = false)
    (hdue : s.rd64 F.x1SwitchLoLfn F.x1SwitchHiLfn ≤ s.dbx.lfn) :
    exec .x1Switch s = .next
      (let t := s.modD fun d => { d with x1Done := true }
       if s.is F.x1CfgAsX0 = false then t.wr F.x1CfgActive 0
       else if t.x1Ready = true then t.wr F.x1CfgActive 1
       else t.wr F.x1CfgX1Refused 1) := by
  show execX1Switch s = _
  refine onLive_eq hr ((if_neg ?_).trans (if_congr ?_ rfl rfl))
  · simpa [honce] using hdue
  · simp [State.is]

/-! ### SRAM_BANK_TEST (R281) -/

/-- A bank that fails its test is retired to a spare, and with no spare left the part fails. -/
def State.bankFailed (s : State) : State :=
  let t := s.wr F.sramTestEvt 1
  if t.rd F.sramTestSparesUsed < 8 then t.wr F.sramTestSparesUsed (t.rd F.sramTestSparesUsed + 1)
  else ((((t.wr F.sramTestFail 1).wr F.dhealthSramFail 1).raiseAlert .dbx 0x281).interrupt .dbx 7).score .dbx

theorem exec_sramBankTest_due {s : State} (hr : Runs s .dbx) (hdue : s.dbx.lfn % 2 ^ 20 = 0) (pass : Bool) :
    exec (.sramBankTest pass) s = .next
      (let t := if pass = true then s else s.bankFailed
       t.wr F.sramTestBank ((t.rd F.sramTestBank + 1) % 640)) := by
  show execSramBankTest pass s = _
  exact onLive_eq hr (if_neg (not_not_intro hdue))

/-- Settles O55: each row by the count that it waits for and the condition that decides it. -/
theorem scoresExpulsionAndService : Obligations.ScoresExpulsionAndService := by
  refine ⟨?decayTsu, ?decayDbx, ?decayNot, ?climbs, ?granted, ?retained, ?repeats, ?ends, ?verdict, ?next, ?noNext, ?back, ?moves,
    ?refused, ?passes, ?spare, ?fails⟩
  case decayTsu =>
    intro s hr hdue
    show execPenaltyDecay .tsu s = _
    exact onLive_eq hr (if_neg (not_not_intro hdue))
  case decayDbx =>
    intro s hr hdue
    show execPenaltyDecay .dbx s = _
    exact onLive_eq hr (if_neg (not_not_intro hdue))
  case decayNot =>
    intro p s hr hnot
    show execPenaltyDecay p s = _
    exact onLive_eq hr (if_pos hnot)
  case climbs =>
    intro partition role pod score s hr hapex
    show execExpulsionRequest partition role pod score s = _
    refine onLive_eq hr ?_
    simp only [hapex]
  case granted =>
    intro partition role pod score k s hr hapex hmay
    rw [exec_expulsionRequest_atApex role pod score hr hapex, if_pos hmay]
  case retained =>
    intro partition role pod score k s hr hapex hnot
    rw [exec_expulsionRequest_atApex role pod score hr hapex, if_neg (Bool.eq_false_iff.1 hnot)]
  case repeats =>
    intro t s hr ht hcause hdue
    rw [exec_expulsionRepeat_open hr ht, if_neg (by simp [hcause]), if_pos hdue]
  case ends =>
    intro t s hr ht hcause
    rw [exec_expulsionRepeat_open hr ht, if_pos hcause]
  case verdict =>
    intro v s hr hv
    show execExpulsionVerdict v s = _
    exact onLive_eq hr (if_pos (by simpa using hv))
  case next =>
    intro g rest x s hr hg hdue hx
    rw [exec_grantWindowExpiry_due hr hg hdue]
    simp only [hx]
  case noNext =>
    intro g rest s hr hg hdue hnone
    rw [exec_grantWindowExpiry_due hr hg hdue]
    simp only [hnone]
  case back =>
    intro s hr honce hdue hoff
    rw [exec_x1Switch_due hr honce hdue, if_pos hoff]
  case moves =>
    intro s hr honce hdue hon hready
    rw [exec_x1Switch_due hr honce hdue, if_neg (by simp [hon]), if_pos hready]
  case refused =>
    intro s hr honce hdue hon hnot
    rw [exec_x1Switch_due hr honce hdue, if_neg (by simp [hon]), if_neg (Bool.eq_false_iff.1 hnot)]
  case passes =>
    intro s hr hdue
    exact exec_sramBankTest_due hr hdue true
  case spare =>
    intro s hr hdue hspare
    rw [exec_sramBankTest_due hr hdue false, State.bankFailed, if_neg (by decide), if_pos hspare]
  case fails =>
    intro s hr hdue hnone
    rw [exec_sramBankTest_due hr hdue false, State.bankFailed, if_neg (by decide), if_neg (Nat.not_lt.2 hnone)]

end Sys2Proof.Machine
end

section
/-! SUPPORT. Proofs about the steps of bring-up: when one begins, ends and fails. -/

namespace Sys2Proof.Machine

/-! ### BRINGUP_STEP and BRINGUP_STEP_LIMIT (R303 to R305, R309 to R312) -/

section
variable {s : State} {p : Part} {step : Nat} (hr : Runs s p)
include hr

/-- A step of the part that has not ended, unless the part is halted: it ends once it has begun, and else begins, each when its
condition holds. -/
theorem exec_bringupStep_open (happlies : s.stepApplies p step = true) (hrunning : s.is (F.bootStatusHalted p) = false)
    (hopen : s.ended p step = false) :
    exec (.bringupStep p step) s = .next
      (if (s.node p).bootBegun.contains step = true then (if s.stepDone p step = true then s.endStep p step else s)
       else if s.stepBegins p step = true then s.beginStep p step
       else s) := by
  show execBringupStep p step s = _
  exact onLive_eq hr (if_neg (by simp [happlies, hrunning, hopen]))

theorem exec_bringupStep_halted (hhalted : s.is (F.bootStatusHalted p) = true) :
    exec (.bringupStep p step) s = .next s := by
  show execBringupStep p step s = _
  exact onLive_eq hr (if_pos (by simp [hhalted]))

/-- A step that may fail does so with the code; a root member whose X0 is dark at the limit of B6 decides by its downlinks, and a
distributor on the alternative of B1 halts. -/
theorem exec_bringupStepLimit_fails {code port : Nat} (hmay : s.mayFail p step code port = true) :
    exec (.bringupStepLimit p step code port) s = .next
      (let t := ((s.countPort p step port).portsSucceed p step).failStep p step code
       if (p == Part.dbx && step == 6 && t.isRoot && port == t.xPort && decide (t.portSt .dbx port ≤ 1)) = true then t.rootDecide
       else if (p == Part.dbx && step == 1 && t.rd (F.bootRecStatAction .dbx) 1 == 2) = true then t.halt .dbx
       else t) := by
  show execBringupStepLimit p step code port s = _
  refine onLive_eq hr ((if_neg (by simp [hmay])).trans ?_)
  exact if_congr Iff.rfl rfl (if_congr (by simp) rfl rfl)

end

/-- Settles O7: a step by whether it has begun and whether its condition holds, a limit by whether the step may reach it. -/
theorem bringUpStepsBeginAndEnd : Obligations.BringUpStepsBeginAndEnd := by
  refine ⟨?begins, ?ends, ?runs, ?waits, ?noLimit, ?halted, ?limit⟩
  case begins =>
    intro p step s hr happlies hrunning hopen hnew hcond
    rw [exec_bringupStep_open hr happlies hrunning hopen, if_neg (Bool.eq_false_iff.1 hnew), if_pos hcond]
  case ends =>
    intro p step s hr happlies hrunning hopen hbegun hdone
    rw [exec_bringupStep_open hr happlies hrunning hopen, if_pos hbegun, if_pos hdone]
  case runs =>
    intro p step s hr happlies hrunning hopen hbegun hnot
    rw [exec_bringupStep_open hr happlies hrunning hopen, if_pos hbegun, if_neg (Bool.eq_false_iff.1 hnot)]
  case waits =>
    intro p step s hr happlies hrunning hopen hnew hnot
    rw [exec_bringupStep_open hr happlies hrunning hopen, if_neg (Bool.eq_false_iff.1 hnew), if_neg (Bool.eq_false_iff.1 hnot)]
  case noLimit =>
    intro p step code port s hr hnot
    show execBringupStepLimit p step code port s = _
    exact onLive_eq hr (if_pos (by simp [hnot]))
  case halted =>
    intro p step s hr hhalted
    exact exec_bringupStep_halted hr hhalted
  case limit =>
    intro p step code port s hr hmay
    exact exec_bringupStepLimit_fails hr hmay

end Sys2Proof.Machine
end

section
/-! SUPPORT. Proofs about the inputs of the distributor's package: temperature, supplies, the PCI Express function, telemetry and
boundary scan. -/

namespace Sys2Proof.Machine

/-! ### Temperature (R343) -/

/-- A sensor's report is shown, and THERM_N follows the warning limit with a hysteresis of 3 degrees. -/
theorem exec_thermWarning {s : State} (hr : Runs s .dbx) {sensor : Nat} (hsensor : sensor < 16) (tj : Nat) :
    exec (.thermWarning sensor tj) s = .next
      (let t := s.showTherm sensor tj
       if t.thermLimit ≤ tjOf tj ∧ t.is F.thermStatusTherm = false then
         ((t.wr F.thermStatusTherm 1).emit .dbx (.pin .thermN 0)).interrupt .dbx 7
       else if tjOf tj ≤ t.thermLimit - 24 ∧ t.is F.thermStatusTherm = true then
         (t.wr F.thermStatusTherm 0).emit .dbx (.pin .thermN 1)
       else t) := by
  show execThermWarning sensor tj s = _
  refine onLive_eq hr ((if_neg (Nat.not_le.2 hsensor)).trans ?_)
  exact if_congr (by simp) rfl (if_congr (by simp) rfl rfl)

/-- Below 95 degrees a trip ends, and the part starts again unless RESET_N holds it. -/
theorem exec_thermalRecovery_cool {s : State} {tj : Nat} (htrip : s.d.tripped = true) (hcool : tjOf tj < 760) :
    exec (.thermalRecovery tj) s = .next
      (if s.d.held = true then s.endTrip
       else ((s.endTrip.startDbx.modNode .dbx fun n => { n with bootBegun := [0], bootDone := [0] }).wr F.thermStatusTj
        tj).tellTrip) := by
  show execThermalRecovery tj s = _
  exact congrArg _ (if_neg (by simpa [htrip] using hcool))

/-- Settles O8: a report by the limits that it stands against, each other input by the condition under which it acts. -/
theorem packageInputsAct : Obligations.PackageInputsAct := by
  refine ⟨?warns, ?cools, ?between, ?trips, ?starts, ?heldRecovery, ?supply, ?pcie, ?telemetry, ?smbus, ?discovery, ?scan,
    ?noScan⟩
  case warns =>
    intro sensor tj s hr hsensor hhot hoff
    rw [exec_thermWarning hr hsensor, if_pos ⟨hhot, hoff⟩]
  case cools =>
    intro sensor tj s hr hsensor hcool hon
    rw [exec_thermWarning hr hsensor, if_neg (by simp [hon]), if_pos ⟨hcool, hon⟩]
  case between =>
    intro sensor tj s hr hsensor hlow hhigh
    rw [exec_thermWarning hr hsensor, if_neg (fun h => absurd h.1 (not_le.2 hhigh)), if_neg (fun h => absurd h.1 (not_le.2 hlow))]
  case trips =>
    intro sensor tj s hr hhot
    show execThermalTrip sensor tj s = _
    exact onLive_eq hr (if_neg (not_lt.2 hhot))
  case starts =>
    intro tj s htrip hcool hfree
    rw [exec_thermalRecovery_cool htrip hcool, if_neg (Bool.eq_false_iff.1 hfree)]
  case heldRecovery =>
    intro tj s htrip hcool hheld
    rw [exec_thermalRecovery_cool htrip hcool, if_pos hheld]
  case supply =>
    intro i s hr hi
    show execSupplyLeftTolerance i s = _
    exact onLive_eq hr (if_neg (Nat.not_le.2 hi))
  case pcie =>
    intro s hr
    show execPcieFunctionReset s = _
    exact onLive_eq hr rfl
  case telemetry =>
    intro s hr
    show execTelemetryDatagram s = _
    exact onLive_eq hr rfl
  case smbus =>
    intro s hr
    show execSmbusBlockRead s = _
    exact onLive_eq hr rfl
  case discovery =>
    intro query s hr
    show execNeighbourDiscovery query s = _
    exact onLive_eq hr rfl
  case scan =>
    intro inst s hacts
    show execBoundaryScanInstruction inst s = _
    exact congrArg _ (if_pos (by simpa using hacts))
  case noScan =>
    intro inst s hinst hnot
    show execBoundaryScanInstruction inst s = _
    refine congrArg _ (if_neg ?_)
    rcases hnot with hnone | hfree
    · simp [Nat.not_lt.2 hinst, Nat.not_lt.2 hnone]
    · simp [Nat.not_lt.2 hinst, hfree]

end Sys2Proof.Machine
end
